-- ==== Sys2Proof/Word.lean ====
section
/-! DEFINITION. The word, byte and coordinate types of the Kyoda (spec/00_scope.md R2, R3, R5). -/
namespace Sys2Proof

/-- One byte of memory or of a record. -/
abbrev Byte := BitVec 8

/-- A run of bytes, byte 0 first (little-endian fields, R3). -/
abbrev Bytes := List Byte

/-- An FP32 bit pattern (R67). -/
abbrev F32 := BitVec 32

/-- A 64-bit word of the bootstrap window (R384). -/
abbrev Word64 := BitVec 64

/-- A device coordinate (e, t, p, d), logical or physical (R5, R6). -/
structure Coord where
  e : Nat
  t : Nat
  p : Nat
  d : Nat
  deriving DecidableEq, Repr

/-- One axis code of R286: 0 E, 1 T, 2 P, 3 D. -/
abbrev Axis := Nat

end Sys2Proof
end

