-- ==== Sys2Proof/Plan.lean ====
section
/-! DEFINITION. The compiled plan as data: what the host-class cores hand to the engines (spec/02 R41 to R52).
The compiler's choices are open (R46), so a plan is an operand of COMPILATION_COMPLETE (log entry 3). -/
namespace Sys2Proof

/-- A resource that runs slices (Table 2.4, Table 6.5). -/
inductive Res where
  | core (logical : Nat)
  | clusterMove (cluster : Nat)
  | dieMove (die : Nat)
  | hubStream
  | port (code : Nat)
  | reduceEngine
  | updateEngine (k : Nat)
  | exchangeEngine
  deriving DecidableEq, Repr

/-- What one slice does (R25, Table 1.11). `op` indexes the job's operator descriptors in descriptor order. -/
inductive Work where
  /-- blocks `b0` to `b1 - 1` of one product tile of a MATMUL, under the bases of its slice's scale banks (R90, R104, R109, R519) -/
  | tile (op batch mTile nTile b0 b1 rowBase colBase : Nat)
  /-- rows `r0` to `r0 + n - 1` of a vector-class operator (Table 5.4) -/
  | rows (op r0 n : Nat)
  /-- one head of an ATTENTION, forward or backward by its flag (R156, R158) -/
  | head (op h : Nat)
  /-- opens the GROUPED_MATMUL slice window of a micro-batch and round (R140, R520) -/
  | groupedWindow (op mb round : Nat)
  /-- a move of `len` bytes (R191, R193, R194) -/
  | move (src dst len : Nat)
  /-- a transposing move of one block of 128 × 128 elements, block row `br` and block column `bk`, of a tensor of rows × cols at `src` into the
  tensor of cols × rows at `dst` (R192) -/
  | transposeMove (src dst rows cols fmt br bk : Nat)
  /-- a prefetch of `len` bytes of a parameter's bank of the micro-batch's version (R194, R266) -/
  | prefetch (param off dst len : Nat)
  /-- sends `len` bytes of a parameter that is replicated across D to the device at `dst`, which stores them at its address `daddr` (R194) -/
  | sendParam (param off len port : Nat) (dst : Coord) (daddr : Nat)
  /-- loads `n` row-bank or column-bank scales (R91) -/
  | loadScales (core : Nat) (column : Bool) (addr n : Nat)
  /-- loads 512 bytes of codebook into a bank; `fill` also fills the product table (R98, R100, R126) -/
  | loadCodebook (core bank addr : Nat) (fill : Bool) (winA winB : Nat)
  /-- adds one window's FP32 weight gradient (of an exchange round) into the accumulation, casting to `dst` after the last; `expert` is the
  local expert of an expert weight (R231, R251) -/
  | accumulateGrad (param src n dst round : Nat) (last : Bool) (expert : Option Nat)
  /-- this device's contribution enters a collective; `expert` as above, for its marker and exponent (R232, R233, R287) -/
  | contribute (op : Nat) (expert : Option Nat)
  /-- sends elements e0 to e0 + n − 1 of one stage to the partner at `dst`; `leg`: the gather leg of an all-reduce
  (R294, R298, R299, R301) -/
  | sendStage (op axis stage : Nat) (leg : Bool) (dst : Coord) (port e0 n : Nat)
  /-- the working copy of the owner's rows becomes its block of a GATHER (R249) -/
  | gatherCopy (op param : Nat)
  /-- dispatch beat `j` of a round (R221, R227) -/
  | dispatch (layer mb round j port : Nat)
  /-- return beat: partials of a round back to their origins (R226) -/
  | returnRows (layer mb round j port : Nat)
  /-- sums the layer's loads along D (R206) -/
  | sumLoads (layer : Nat)
  /-- stages an optimiser-state range into the update cache (R263) -/
  | stageState (param e0 n : Nat)
  /-- one update range of a parameter's shard (R258, R357) -/
  | update (param e0 n : Nat)
  /-- the factored family's row and column pass over the shard (R259) -/
  | updateFactored (param : Nat)
  /-- sends the owner's first rows of q to the owner of the block that they belong to (R259) -/
  | factorRows (param port : Nat) (dst : Coord)
  /-- sends the owner's column partials to another owner (R259) -/
  | factorBlocks (param port : Nat) (dst : Coord)
  /-- sends the soft-maximum statistics of rows to another shard of the vocabulary (R163) -/
  | lossStats (op r0 n port : Nat) (dst : Coord)
  /-- the sum of squares of the owned gradients (R262) -/
  | normSum
  /-- fixes the clip factor from the reduced total of the squares (R262) -/
  | clipFactor
  /-- the check core's second computation of a tile (R353 to R356) -/
  | sentinel (op batch mTile nTile rowBase colBase : Nat)
  /-- a copy of the router biases of a layer into cluster SRAM (R205) -/
  | copyBiases (layer dst : Nat)
  /-- opens and closes the export records of a step (R282, R283) -/
  | exportBegin
  | exportEnd
  /-- writes export records of one parameter's part (R282 to R285) -/
  | exportRecords (param part : Nat)
  /-- one chunk of a level-1 or level-2 copy in a reserved slot (R52, R369, R370) -/
  | chrysalisChunk (level off len : Nat)
  deriving DecidableEq, Repr

/-- One planned slice: its plan beat relative to the step's anchor, its resource and its work (R45, R50, R52). -/
structure Slice where
  beat : Int
  res : Res
  work : Work
  /-- the micro-batch served, if any (R266) -/
  mb : Option Nat
  /-- a reserved slot: it runs in hold and in stops (R51, R52) -/
  reserved : Bool
  /-- a backward slice (R236) -/
  backward : Bool
  deriving DecidableEq, Repr

/-- What an arrival or a deadline is about (R61). -/
inductive Item where
  | counts (layer mb : Nat) (origin : Coord)
  /-- a collective segment: tensor, `coll` and `stage` bytes as coll × 256 + stage, element offset (R301) -/
  | segment (tensor stage offset : Nat) (origin : Coord)
  /-- all rows of one round of a flow from an origin, forward or backward -/
  | rows (layer mb round : Nat) (backward : Bool) (origin : Coord)
  /-- all partials of one round from the device that has computed them -/
  | returned (layer mb round : Nat) (backward : Bool) (origin : Coord)
  | data (iclass : Nat) (origin : Coord)
  deriving DecidableEq, Repr

/-- A planned deadline (R45): the item, its sender by `Item`, its plan beat, the plan beat of the slice that sends it, and the latency class
of its path. -/
structure Deadline where
  beat : Int
  item : Item
  sent : Int
  lambda : Nat
  deriving DecidableEq, Repr

/-- A planned exchange of one expert layer and micro-batch (R208 to R211, R227). -/
structure PlannedExchange where
  layer : Nat
  mb : Nat
  countBeat : Int
  allocBeat : Int
  firstDispatch : Int
  backward : Bool
  deriving DecidableEq, Repr

/-- The members and paths a plan is compiled for (Table 2.5). -/
structure MapInputs where
  lengths : Coord
  /-- physical axis code per logical cut (R334) -/
  axes : List Nat
  /-- gap of this device's ring per logical axis, none for a ring: the link from this index to the next is lost (R309) -/
  lines : List (Option Nat)
  /-- port codes whose path the plan uses (R322) -/
  usedPorts : List Nat
  /-- latency class of the link from each index of the E axis to the next (R44) -/
  eLambda : List Nat
  /-- L of R307 in ps: ℓ + 40 ns over the deepest path of the barrier tree -/
  treePs : Nat
  /-- S_max: the largest state of a device of the job (R363, R365) -/
  stateMax : Nat
  /-- physical index of each logical d on the D cut's axis (R334, R337, R360) -/
  slabs : List Nat
  deriving DecidableEq, Repr

/-- Where this device's shard of a tensor lies in the whole, unsharded tensor: first row and column, whole columns (R81). -/
structure Place where
  tensor : Nat
  row : Nat
  col : Nat
  cols : Nat
  deriving DecidableEq, Repr

/-- The compiled plan of one device: the local timetable and the values the report gives (R46 to R52, R429). -/
structure Plan where
  /-- the 64-byte system-plan digest (R47) -/
  digest : Bytes
  /-- L, step length in beats (R50) -/
  stepBeats : Nat
  /-- c, the commit point after the anchor (R50) -/
  commitPoint : Nat
  /-- the planned vote beat after the anchor (R270, R271) -/
  voteBeat : Nat
  /-- u0, the first beat of an update slice after the anchor (R269) -/
  firstUpdate : Nat
  /-- o of R254 -/
  scaleLag : Nat
  /-- b of R307 -/
  barrierBound : Nat
  microBatches : Nat
  slices : List Slice
  deadlines : List Deadline
  exchanges : List PlannedExchange
  places : List Place
  /-- planned barriers: number and plan beat (Table 9.5 class 00) -/
  barriers : List (Nat × Int)
  retainLayers : Nat
  /-- planned cycles of each layer at the plan clock, and layers of each P stage (R238) -/
  layerCosts : List Nat
  stages : List Nat
  /-- planned bytes per step and device on each cut, E, T, P, D, under the default map (R336) -/
  cutBytes : List Nat
  map : MapInputs
  deriving DecidableEq, Repr

end Sys2Proof
end

