-- ==== Sys2Proof/Syntax.lean ====
section
/-! DEFINITION. The commands and events of the Kyoda: one constructor of Instr per row of spec/opcode_table.json,
with the values that come from outside the device as operands. -/
namespace Sys2Proof

/-- A host command as the bridge holds it: the ring it came on, the bridge's request number (Table 12.11), its
64-byte descriptor (Table 12.4) and its payload bytes (R396). -/
structure Cmd where
  req : Nat
  ring : Nat
  desc : Bytes
  payload : Bytes
  deriving DecidableEq, Repr

/-- A control message (Table 2.3): its type code, bytes 1 to 3 of the prefix (class and code of an EVENT; else the
function number, log entry 26), origin beat and coordinate (R37), and the body from byte 16. -/
structure Msg where
  code : Nat
  sub : Nat
  beat : Nat
  origin : Coord
  body : Bytes
  deriving DecidableEq, Repr

/-- The storage structures of Table 6.6, rows in table order. -/
inductive Store where
  | sram | registers | hub | near | farLink | farData | drives
  deriving DecidableEq, Repr

/-- A hardware upset that a check finds during a data phase (spec/95 DATA_PHASE_START). -/
inductive DataFault where
  /-- an error corrected in a structure, with its row number and whether the row is far memory (R196) -/
  | corrected (st : Store) (row : Nat) (addr : Nat)
  /-- an uncorrectable error met by a slice of function `fn` (R198) -/
  | uncorrectable (fn : Nat) (st : Store) (addr : Nat)
  /-- a residue or parity fault attributed to a physical core (R351, R352, R14) -/
  | coreResidue (fn phys : Nat)
  /-- a residue or parity fault of a hub engine (R352) -/
  | engineResidue (fn engine : Nat)
  /-- a sentinel comparison that differs, with both physical cores (R356) -/
  | sentinelMismatch (fn physA physB : Nat)
  /-- CRCs of a duplicated update range that differ, with the engine that stores (R357) -/
  | dupMismatch (fn engine : Nat)
  deriving DecidableEq, Repr

/-- What patrol scrub finds on a granule (R197, R198). -/
inductive ScrubFind where
  | clean
  | corrected (row : Nat)
  | uncorrectable
  deriving DecidableEq, Repr

/-- One candidate of beat-master election (Table 2.2). -/
structure Candidate where
  locked : Bool
  priority : Nat
  serial : Nat
  deriving DecidableEq, Repr

/-- The measurements of one power sample (R453 to R455): mean power of the sample and of the last 1 ms in W,
hottest compute-die or hub sensor in °C, the linear extrapolation of R454 in °C, input voltage in mV,
input current in 0.1 A, and the power per consumer of Table 1.12. -/
structure PowerReading where
  sampleW : Nat
  meanW : Nat
  tMax : Int
  tForecast : Int
  farShort : Bool
  millivolts : Nat
  deciamps : Nat
  consumers : List Nat
  deriving DecidableEq, Repr

/-- What the cable read finds (R331): lanes advertised, maximum power in 0.1 W, optical medium. -/
structure CableInfo where
  readable : Bool
  lanes : Nat
  deciwatts : Nat
  optical : Bool
  deriving DecidableEq, Repr

/-- One failed item of a self-test (R421): kind 0 core, 1 near row, 2 far row, 3 other; index; address. -/
structure FailItem where
  kind : Nat
  index : Nat
  addr : Nat
  deriving DecidableEq, Repr

/-- What ends a boot stage (R457, R458): the outcome of stage 3's verifications (R466, R470), the self-test
failures of stage 5, and the beat count adopted from partners in stage 9 with the master's serial (R32). -/
structure BootFind where
  slotAValid : Bool
  slotBValid : Bool
  configValid : Bool
  failures : List FailItem
  unrepaired : Bool
  adopted : Option (Nat × Nat)
  deriving DecidableEq, Repr

/-- An SPDM request as the responder sees it (R471): the connection (0 for MCTP over I3C, n + 1 for ring pair n), the
message bytes, and the time left to the 2 s bound of an activation window in µs. -/
structure SpdmReq where
  conn : Nat
  msg : Bytes
  leftUs : Nat
  deriving DecidableEq, Repr

/-- The rows of spec/opcode_table.json. -/
inductive Instr where
  | mbxCmdBaseWrite (v : Word64)
  | mbxCmdSizeWrite (v : Word64)
  | mbxCplBaseWrite (v : Word64)
  | mbxCmdTail (v : Word64)
  | mbxCplHead (v : Word64)
  /-- a write of `width` bytes at a window offset (R384) -/
  | registerWriteOther (offset width : Nat) (v : Word64)
  /-- the bridge fetches the next descriptor of a ring; the host's memory supplies its bytes (R389) -/
  | descriptorFetch (ring : Nat) (desc payload : Bytes)
  /-- a held completion may be written; the flag says that the slot's beat stamp reads zero (R390) -/
  | completionWrite (ring : Nat) (stampZero : Bool)
  | devInfo (c : Cmd)
  | devCaps (c : Cmd)
  | devSelftest (c : Cmd)
  | devReset (c : Cmd)
  | devFwStage (c : Cmd)
  | devFwActivate (c : Cmd)
  | fnPartition (c : Cmd)
  | fnEnable (c : Cmd)
  | fnAssign (c : Cmd)
  | fnReset (c : Cmd)
  | fnMolt (c : Cmd)
  | memAlloc (c : Cmd)
  | memFree (c : Cmd)
  | memWrite (c : Cmd)
  | memRead (c : Cmd)
  | memWindow (c : Cmd)
  | jobLoad (c : Cmd)
  | jobPlan (c : Cmd)
  | jobVerify (c : Cmd)
  | jobMap (c : Cmd)
  | jobReshard (c : Cmd)
  | jobResize (c : Cmd)
  | jobUnload (c : Cmd)
  | stepRun (c : Cmd)
  | stepAbort (c : Cmd)
  | stepStatus (c : Cmd)
  | batchCancel (c : Cmd)
  | snapTake (c : Cmd)
  | snapPolicy (c : Cmd)
  | snapRestore (c : Cmd)
  | snapExport (c : Cmd)
  | snapList (c : Cmd)
  | linkStatus (c : Cmd)
  | linkAdmit (c : Cmd)
  | linkDrain (c : Cmd)
  | linkMapinfo (c : Cmd)
  | timeSync (c : Cmd)
  | timeBeatSet (c : Cmd)
  | timeBeatStretch (c : Cmd)
  | telRead (c : Cmd)
  | telSubscribe (c : Cmd)
  | secAttest (c : Cmd)
  | secKeys (c : Cmd)
  | panelLocate (c : Cmd)
  | panelService (c : Cmd)
  | hostEnvStart (c : Cmd)
  | hostEnvStop (c : Cmd)
  | beatBoundary
  | messagePhaseStart
  | dataPhaseStart (faults : List DataFault)
  /-- the resources whose slices have not finished (R42) -/
  | dataPhaseEnd (unfinished : List Res)
  | deadlineTest
  | remainderDone (r : Res)
  | holdExpiry (fn : Nat)
  | commitBeat (fn : Nat)
  | commitIrrevocable (fn : Nat)
  | replayAnchor (fn : Nat)
  | stretchEffective
  | stretchLowering
  | periodEffective
  | cancelEffective (fn mb : Nat)
  /-- a SYNC flit's 48 payload bytes on a port, with the local arrival time t4 in 2^-8 ns (R332) -/
  | syncFlit (port : Nat) (payload : Bytes) (t4 : Nat)
  /-- the firmware's rebuilt tree: master reachable, new upstream port, new depth (R35, R33) -/
  | upstreamLoss (reachable : Bool) (upstream : Option Nat) (depth : Nat)
  | masterElectionComplete (others : List Candidate)
  | lockLost
  | lockWindowExpiry
  | suspensionEnd
  | memberAfterLock (fn : Nat)
  /-- the offset of the 1PPS edge into the beat, in ns (R36) -/
  | referenceEdge (offsetNs : Nat)
  | referenceLocked
  | ppsOutput
  | abort (port : Nat) (m : Msg)
  | stretch (port : Nat) (m : Msg)
  | commit (port : Nat) (m : Msg)
  | barrier (port : Nat) (m : Msg)
  | counts (port : Nat) (m : Msg)
  | plan (port : Nat) (m : Msg)
  | event (port : Nat) (m : Msg)
  | forward (port : Nat) (m : Msg)
  | allocationComplete (fn layer mb : Nat) (backward : Bool)
  | tokenRow (fn round : Nat) (backward : Bool) (row : Bytes)
  | itemRelease (fn expert mTile : Nat)
  | itemComplete (fn core : Nat)
  | collectiveSegment (fn port : Nat) (seg : Bytes)
  | dataItem (port : Nat) (desc item : Bytes)
  | compilationComplete (fn : Nat) (p : Plan)
  /-- a 256-byte flit after FEC decoding; `clean`: its codewords decoded without error (R320, R341) -/
  | flitReceived (port : Nat) (flit : Bytes) (clean : Bool)
  | checkTimeout (port : Nat)
  /-- a lane of a port marked failed; `rx` names the direction (R315) -/
  | laneFailed (port : Nat) (rx : Bool) (lane : Nat)
  | cableInserted (port : Nat)
  | cableRemoved (port : Nat)
  | backplanePowerGood (port : Nat)
  | cableReadDone (port : Nat) (info : CableInfo)
  | cableOvercurrent (port : Nat)
  /-- the eye margins of the lanes, `none` where a lane does not pass (R324) -/
  | trainingStageDone (port : Nat) (margins : List (Option Nat))
  | trainingStageTimeout (port : Nat)
  /-- 64 round trips in ps (R325) -/
  | latencyMeasured (port : Nat) (roundTrips : List Nat)
  | identRecord (port : Nat) (rec : Bytes)
  /-- a key-agreement flit; `verified`: the peer's chain and signature verify (R339) -/
  | keyx (port : Nat) (payload : Bytes) (verified : Bool)
  | portTimeLock (port : Nat)
  | linkRekey (port : Nat)
  | servicePortRetrained (lanes : Nat)
  /-- the bridge of the tray is lost; `becomes`: this device's service lanes are enabled (R344) -/
  | bridgeLost (becomes : Bool)
  | patrolScrub (addr : Nat) (find : ScrubFind)
  | occupancyWindowEnd (occ : List Nat) (bytesMoved : Nat)
  | oscillatorTracking
  | selfRefreshEntry
  | coreSelftestDone (fn physA physB : Nat) (failA failB : Bool)
  | snapshotStopBegin (fn : Nat)
  | snapshotStopEnd (fn : Nat)
  | level1Complete (fn : Nat)
  | level2Complete (fn : Nat)
  | recoveryTransfersComplete (fn : Nat)
  | powerSample (r : PowerReading)
  | thermalCritical (sensor : Nat) (celsius : Int)
  /-- LEAK_N low for `us` µs; `own`: the module's own sense (R496) -/
  | leakNAsserted (own : Bool) (us : Nat)
  | leakSenseDry
  | inputUndervoltage (millivolts us : Nat)
  | hotswapFault
  | powerApplied (slotId : Nat)
  | bootStageComplete (f : BootFind)
  | bootStageTimeout
  | modRstAssert (us : Nat)
  /-- the standby cause that still holds when the sensors are read again, if any (R495) -/
  | modRstRelease (stillCause : Option Nat)
  | cpWatchdog (cp : Nat)
  | cpResetComplete (cp : Nat)
  | envWatchdogExpiry
  | activationWindowEnd (verified : Bool)
  | fnResetComplete (fn : Nat)
  /-- the part of Table 15.7 that failed, counted from 1, if any (R486) -/
  | moltEnd (fn : Nat) (failedPart : Option Nat)
  | selftestComplete (failures : List FailItem)
  | envBooted
  | envGraceExpiry
  | flashIdleOff
  | locatePadTouch (touchMs nowMs : Nat)
  | attentionButtonRelease (pressMs nowMs : Nat)
  | attentionLongPress
  | locateTimeout
  | refusalPatternEnd
  | setdasa (addr : Nat)
  | entdaa (addr : Nat)
  | i3cSelectorWrite (sel : Nat)
  | i3cPrivateRead
  | getVersion (q : SpdmReq)
  | getCapabilities (q : SpdmReq)
  | negotiateAlgorithms (q : SpdmReq)
  | getDigests (q : SpdmReq)
  | getCertificate (q : SpdmReq)
  | challenge (q : SpdmReq)
  | getMeasurements (q : SpdmReq)
  | keyExchange (q : SpdmReq)
  | finish (q : SpdmReq)
  | respondIfReady (q : SpdmReq)
  | spdmUnsupportedRequest (q : SpdmReq)
  | referenceSignalLost
  /-- service lanes enabled on this slot; the other slot of the tray whose service port trains too, if any (R342) -/
  | serviceLanesEnabled (other : Option Nat)
  /-- an unlock token naming a serial and a counter; `signed`: Taene's signature verifies (R474) -/
  | unlockToken (serial counter : Nat) (signed : Bool)
  | powerLoss
  | domainSwitchedOn (domains : List Nat)
  | restoreComplete (fn : Nat)
  /-- verification of the staged image has finished; `valid`: chain and signature verify (R466) -/
  | imageStaged (valid : Bool)
  | engineSelftestDone (fn engine : Nat) (failA failB : Bool)
  | thermalWarning (sensor : Nat) (celsius : Int)
  /-- the watchdog period in ms, 0 to disarm (R449) -/
  | envWatchdogArm (periodMs : Nat)
  deriving DecidableEq, Repr

end Sys2Proof
end

