-- ==== Sys2Proof/Machine/Bytes.lean ====
section
/-! DEFINITION. Little-endian fields, clamps and coordinates (spec/00 R2 to R6, spec/12 R397). -/
namespace Sys2Proof.Machine
open Sys2Proof

/-- The unsigned value of bytes, byte 0 least significant (R3). -/
def leNat : Bytes → Nat
  | [] => 0
  | b :: r => b.toNat + 256 * leNat r

/-- The `n` low bytes of a value, byte 0 first (R3). -/
def natLE : Nat → Nat → Bytes
  | 0, _ => []
  | n + 1, v => BitVec.ofNat 8 v :: natLE n (v / 256)

/-- `n` bytes from offset `off`, zero beyond the end (R4). -/
def slice (b : Bytes) (off n : Nat) : Bytes :=
  let x := (b.drop off).take n
  x ++ List.replicate (n - x.length) 0

/-- The field of `n` bytes at offset `off` (R3). -/
def rd (b : Bytes) (off n : Nat) : Nat := leNat (slice b off n)

/-- Bit `i` of a number (R2). -/
def bit (v i : Nat) : Bool := v.testBit i

/-- Bits `hi` down to `lo` of a number (R2). -/
def bits (v hi lo : Nat) : Nat := (v >>> lo) % 2 ^ (hi - lo + 1)

def b2n (b : Bool) : Nat := if b then 1 else 0

/-- A numeric field clamped to its range (R397). -/
def clamp (lo hi v : Nat) : Nat := if v < lo then lo else if hi < v then hi else v

/-- A counter that saturates (R281, R459). -/
def sat (max v : Nat) : Nat := if max < v then max else v

def ceilDiv (a b : Nat) : Nat := if b = 0 then 0 else (a + b - 1) / b

/-- The least power of two at or above `v`, within `2^k` steps of doubling (R385). -/
def pow2Up (v : Nat) : Nat := if v ≤ 1 then 1 else 2 ^ (Nat.log2 (v - 1) + 1)

/-- Bytes of zeros up to `n` (R4). -/
def zeros (n : Nat) : Bytes := List.replicate n 0

/-- A record cut or padded to `n` bytes. -/
def fit (n : Nat) (b : Bytes) : Bytes := slice b 0 n

/-- A string's bytes (ASCII constants of records). -/
def ascii (s : String) : Bytes := s.toList.map fun c => BitVec.ofNat 8 c.toNat

/-- The component of a coordinate on an axis (R286). -/
def coordOn (c : Coord) (a : Nat) : Nat :=
  if a = 0 then c.e else if a = 1 then c.t else if a = 2 then c.p else c.d

/-- A coordinate with one component replaced (R286). -/
def coordPut (c : Coord) (a v : Nat) : Coord :=
  if a = 0 then { c with e := v } else if a = 1 then { c with t := v }
  else if a = 2 then { c with p := v } else { c with d := v }

/-- The linear rank of a coordinate in a box of axis lengths (R304). -/
def coordRank (len c : Coord) : Nat := c.e + len.e * (c.t + len.t * (c.p + len.p * c.d))

/-- The coordinate of a linear rank (R304). -/
def coordOfRank (len : Coord) (r : Nat) : Coord :=
  let a := r / max 1 len.e
  let b := a / max 1 len.t
  ⟨r % max 1 len.e, a % max 1 len.t, b % max 1 len.p, b / max 1 len.p⟩

/-- e, t, p, d, one byte each (Table 12.4). -/
def coordBytes (c : Coord) : Bytes := natLE 1 c.e ++ natLE 1 c.t ++ natLE 1 c.p ++ natLE 1 c.d

def coordOf (b : Bytes) (off : Nat) : Coord := ⟨rd b off 1, rd b (off + 1) 1, rd b (off + 2) 1, rd b (off + 3) 1⟩

/-- The byte pattern of an unknown coordinate (Table 13.5). -/
def noCoord : Coord := ⟨255, 255, 255, 255⟩

def coordSize (len : Coord) : Nat := len.e * len.t * len.p * len.d

/-- Whether every component lies below its axis length (R5). -/
def coordIn (len c : Coord) : Bool := c.e < len.e && c.t < len.t && c.p < len.p && c.d < len.d

/-- The longest axes of a system, E, T, P and D (R5). -/
def longestAxes : Coord := ⟨8, 4, 16, 128⟩

/-- Whether axis lengths lie in the ranges of R5. -/
def lengthsLegal (l : Coord) : Bool :=
  ([0, 1, 2, 3] : List Nat).all fun a => decide (1 ≤ coordOn l a) && decide (coordOn l a ≤ coordOn longestAxes a)

/-- Replaces the n-th entry of a list. -/
def setNth {α : Type} : List α → Nat → α → List α
  | [], _, _ => []
  | _ :: r, 0, a => a :: r
  | x :: r, n + 1, a => x :: setNth r n a

/-- Changes the n-th entry of a list. -/
def updNth {α : Type} : List α → Nat → (α → α) → List α
  | [], _, _ => []
  | x :: r, 0, f => f x :: r
  | x :: r, n + 1, f => x :: updNth r n f

/-- The value kept for a key, and the list with the key's value replaced or added. -/
def lookupD {α : Type} (l : List (Nat × α)) (k : Nat) (d : α) : α :=
  match l with
  | [] => d
  | (x, v) :: r => if x = k then v else lookupD r k d

def insertK {α : Type} (l : List (Nat × α)) (k : Nat) (a : α) : List (Nat × α) :=
  match l with
  | [] => [(k, a)]
  | (x, v) :: r => if x = k then (k, a) :: r else (x, v) :: insertK r k a

/-- Inserts in ascending order of a key, ahead of equal keys. -/
def insertBy {α : Type} (key : α → Nat) (a : α) : List α → List α
  | [] => [a]
  | x :: r => if key a ≤ key x then a :: x :: r else x :: insertBy key a r

/-- Sorts by a key; entries of equal keys keep their order. -/
def sortBy {α : Type} (key : α → Nat) (l : List α) : List α := l.foldr (insertBy key) []

def sumNat (l : List Nat) : Nat := l.foldl (· + ·) 0

def maxNat (l : List Nat) : Nat := l.foldl max 0

end Sys2Proof.Machine
end

