-- ==== Sys2Proof/Machine/Hash.lean ====
section
/-! DEFINITION. The public algorithms that the spec names by standard: SHA-512, HMAC and HKDF (R47, R340, R464),
AES-128 and AES-256 (R81, R179, R340), AES-256-GCM (R340, R481) and CRC-64/ECMA-182 (R317, R355, R357) (log 21). -/
namespace Sys2Proof.Machine
open Sys2Proof

/-! ### SHA-512 -/

def m64 : Nat := 2 ^ 64

def ror64 (x n : Nat) : Nat := (x >>> n ||| x <<< (64 - n)) % m64

def shaK0 : Nat :=
  0xab1c5ed5da6d8118923f82a4af194f9b59f111f1b605d0193956c25bf348b538e9b5dba58189dbbcb5c0fbcfec4d3b2f7137449123ef65cd428a2f98d728ae22

def shaK1 : Nat :=
  0xc19bf174cf6926949bdc06a725c7123580deb1fe3b1696b172be5d74f27b896f550c7dc3d5ffb4e2243185be4ee4b28c12835b0145706fbed807aa98a3030242

def shaK2 : Nat :=
  0x76f988da831153b55cb0a9dcbd41fbd44a7484aa6ea6e4832de92c6f592b0275240ca1cc77ac9c650fc19dc68b8cd5b5efbe4786384f25e3e49b69c19ef14ad2

def shaK3 : Nat :=
  0x142929670a0e6e7006ca6351e003826fd5a79147930aa725c6e00bf33da88fc2bf597fc7beef0ee4b00327c898fb213fa831c66d2db43210983e5152ee66dfab

def shaK4 : Nat :=
  0x92722c851482353b81c2c92e47edaee6766a0abb3c77b2a8650a73548baf63de53380d139d95b3df4d2c6dfc5ac42aed2e1b21385c26c92627b70a8546d22ffc

def shaK5 : Nat :=
  0x106aa07032bbd1b8f40e35855771202ad69906245565a910d192e819d6ef5218c76c51a30654be30c24b8b70d0f89791a81a664bbc423001a2bfe8a14cf10364

def shaK6 : Nat :=
  0x682e6ff3d6b2b8a35b9cca4f7763e3734ed8aa4ae3418acb391c0cb3c5c95a6334b0bcb5e19b48a82748774cdf8eeb991e376c085141ab5319a4c116b8d2d0c8

def shaK7 : Nat :=
  0xc67178f2e372532bbef9a3f7b2c67915a4506cebde82bde990befffa23631e288cc702081a6439ec84c87814a1f0ab7278a5636f43172f60748f82ee5defb2fc

def shaK8 : Nat :=
  0x1b710b35131c471b113f9804bef90dae0a637dc5a2c898a606f067aa72176fbaf57d4f7fee6ed178eada7dd6cde0eb1ed186b8c721c0c207ca273eceea26619c

def shaK9 : Nat :=
  0x6c44198c4a4758175fcb6fab3ad6faec597f299cfc657e2a4cc5d4becb3e42b6431d67c49c100d4c3c9ebe0a15c9bebc32caab7b40c7249328db77f523047d84

/-- Round constant i, eight packed in each number. -/
def shaK (i : Nat) : Nat :=
  (([shaK0, shaK1, shaK2, shaK3, shaK4, shaK5, shaK6, shaK7, shaK8, shaK9].getD (i / 8) 0) >>> (64 * (i % 8))) % m64

def shaInit : List Nat :=
  [0x6a09e667f3bcc908, 0xbb67ae8584caa73b, 0x3c6ef372fe94f82b, 0xa54ff53a5f1d36f1, 0x510e527fade682d1, 0x9b05688c2b3e6c1f, 0x1f83d9abfb41bd6b, 0x5be0cd19137e2179]

/-- A big-endian number of bytes. -/
def beNat (b : Bytes) : Nat := b.foldl (fun a x => 256 * a + x.toNat) 0

def natBE (n v : Nat) : Bytes := (natLE n v).reverse

/-- Splits into blocks of n bytes, the last as it stands, within `fuel` blocks. -/
def chunks (fuel n : Nat) (b : Bytes) : List Bytes :=
  match fuel with
  | 0 => []
  | k + 1 => if b.isEmpty then [] else b.take n :: chunks k n (b.drop n)

/-- The message schedule, newest word first. -/
def shaSchedule : Nat → List Nat → List Nat
  | 0, w => w
  | k + 1, w =>
    let w2 := w.getD 1 0
    let w7 := w.getD 6 0
    let w15 := w.getD 14 0
    let w16 := w.getD 15 0
    let s0 := ror64 w15 1 ^^^ ror64 w15 8 ^^^ (w15 >>> 7)
    let s1 := ror64 w2 19 ^^^ ror64 w2 61 ^^^ (w2 >>> 6)
    shaSchedule k (((w16 + s0 + w7 + s1) % m64) :: w)

structure ShaVars where
  a : Nat
  b : Nat
  c : Nat
  d : Nat
  e : Nat
  f : Nat
  g : Nat
  h : Nat

def shaRound (v : ShaVars) (i w : Nat) : ShaVars :=
  let s1 := ror64 v.e 14 ^^^ ror64 v.e 18 ^^^ ror64 v.e 41
  let ch := (v.e &&& v.f) ^^^ ((m64 - 1 - v.e) &&& v.g)
  let t1 := v.h + s1 + ch + shaK i + w
  let s0 := ror64 v.a 28 ^^^ ror64 v.a 34 ^^^ ror64 v.a 39
  let mj := (v.a &&& v.b) ^^^ (v.a &&& v.c) ^^^ (v.b &&& v.c)
  ⟨(t1 + s0 + mj) % m64, v.a, v.b, v.c, (v.d + t1) % m64, v.e, v.f, v.g⟩

def shaRounds : Nat → List Nat → ShaVars → ShaVars
  | _, [], v => v
  | i, w :: r, v => shaRounds (i + 1) r (shaRound v i w)

def shaBlock (h : List Nat) (blk : Bytes) : List Nat :=
  let w := (chunks 16 8 blk).map beNat
  let ws := (shaSchedule 64 w.reverse).reverse
  let v := shaRounds 0 ws ⟨h.getD 0 0, h.getD 1 0, h.getD 2 0, h.getD 3 0, h.getD 4 0, h.getD 5 0, h.getD 6 0, h.getD 7 0⟩
  (h.zip [v.a, v.b, v.c, v.d, v.e, v.f, v.g, v.h]).map fun p => (p.1 + p.2) % m64

/-- SHA-512 of a byte string, 64 bytes. -/
def sha512 (b : Bytes) : Bytes :=
  let n := b.length
  let k := (239 - n % 128) % 128
  let padded := b ++ [0x80] ++ zeros k ++ natBE 16 (8 * n)
  ((chunks (padded.length / 128 + 1) 128 padded).foldl shaBlock shaInit).flatMap (natBE 8)

def xorBytes (a b : Bytes) : Bytes := (a.zip b).map fun p => p.1 ^^^ p.2

/-- HMAC-SHA-512. -/
def hmac512 (key msg : Bytes) : Bytes :=
  let k := if 128 < key.length then fit 128 (sha512 key) else fit 128 key
  sha512 (xorBytes k (List.replicate 128 0x5c) ++ sha512 (xorBytes k (List.replicate 128 0x36) ++ msg))

/-- HKDF-Expand with SHA-512 for at most 64 bytes (RFC 5869). -/
def hkdfExpand (key info : Bytes) (n : Nat) : Bytes := (hmac512 key (info ++ [1])).take n

/-- HKDF-Expand with SHA-512 for any length: the next block hashes the one before it (RFC 5869). -/
def hkdfLong (key info : Bytes) (n : Nat) : Bytes :=
  (((List.range (ceilDiv n 64)).foldl (fun (a : Bytes × Bytes) i =>
    let t := hmac512 key (a.1 ++ info ++ natLE 1 (i + 1))
    (t, a.2 ++ t)) ([], [])).2).take n

/-- HKDF with SHA-512: extraction under a salt, then expansion (RFC 5869). -/
def hkdf (salt secret info : Bytes) (n : Nat) : Bytes := hkdfLong (hmac512 salt secret) info n

/-! ### AES -/

def sbox0 : Nat :=
  0xc072a49cafa2d4adf04759fa7dc982ca76abd7fe2b670130c56f6bf27b777c63

def sbox1 : Nat :=
  0x75b227ebe28012079a059618c323c7041531d871f1e5a534ccf73f362693fdb7

def sbox2 : Nat :=
  0xcf584c4a39becb6a5bb1fc20ed00d153842fe329b3d63b52a05a6e1b1a2c8309

def sbox3 : Nat :=
  0xd2f3ff1021dab6bcf5389d928f40a351a89f3c507f02f94585334d43fbaaefd0

def sbox4 : Nat :=
  0xdb0b5ede14b8ee4688902a22dc4f816073195d643d7ea7c41744975fec130ccd

def sbox5 : Nat :=
  0x8ae7a65eaf4566ca94ed58d6d37c8e779e4959162acd3c25c2406490a3a32e0

def sbox6 : Nat :=
  0x9e1dc186b95735610ef6034866b53e708a8bbd4b1f74dde8c6b4a61c2e2578ba

def sbox7 : Nat :=
  0x16bb54b00f2d99416842e6bf0d89a18cdf2855cee9871e9b948ed9691198f8e1

def sbox (x : Nat) : Nat := (([sbox0, sbox1, sbox2, sbox3, sbox4, sbox5, sbox6, sbox7].getD (x / 32) 0) >>> (8 * (x % 32))) % 256

def xtime (x : Nat) : Nat := if 128 ≤ x then ((2 * x) ^^^ 0x11b) % 256 else 2 * x

def rotWord (w : List Nat) : List Nat := w.drop 1 ++ w.take 1

/-- Key expansion: words newest first; `nk` words of key, round constant `rc`. -/
def aesExpand (nk : Nat) : Nat → Nat → Nat → List (List Nat) → List (List Nat)
  | 0, _, _, w => w
  | k + 1, i, rc, w =>
    let prev := w.getD 0 []
    let t := if i % nk = 0 then
        match (rotWord prev).map sbox with
        | x :: r => (x ^^^ rc) :: r
        | [] => []
      else if nk > 6 ∧ i % nk = 4 then prev.map sbox else prev
    let nw := (t.zip (w.getD (nk - 1) [])).map fun p => p.1 ^^^ p.2
    aesExpand nk k (i + 1) (if i % nk = 0 then xtime rc else rc) (nw :: w)

def words4 (fuel : Nat) (b : List Nat) : List (List Nat) :=
  match fuel with
  | 0 => []
  | k + 1 => if b.isEmpty then [] else b.take 4 :: words4 k (b.drop 4)

def shiftRows (s : List Nat) : List Nat :=
  [0, 5, 10, 15, 4, 9, 14, 3, 8, 13, 2, 7, 12, 1, 6, 11].map fun i => s.getD i 0

def mixColumn (c : List Nat) : List Nat :=
  match c with
  | [a, b, x, d] =>
    let t := a ^^^ b ^^^ x ^^^ d
    [a ^^^ t ^^^ xtime (a ^^^ b), b ^^^ t ^^^ xtime (b ^^^ x), x ^^^ t ^^^ xtime (x ^^^ d), d ^^^ t ^^^ xtime (d ^^^ a)]
  | other => other

def addKey (s k : List Nat) : List Nat := (s.zip k).map fun p => p.1 ^^^ p.2

/-- The rounds after the first key addition: the last has no column mix. -/
def aesRounds : List (List Nat) → List Nat → List Nat
  | [], s => s
  | [k], s => addKey (shiftRows (s.map sbox)) k
  | k :: r, s => aesRounds r (addKey ((words4 4 (shiftRows (s.map sbox))).flatMap mixColumn) k)

def roundKeys (fuel : Nat) (w : List (List Nat)) : List (List Nat) :=
  match fuel with
  | 0 => []
  | k + 1 => if w.isEmpty then [] else (w.take 4).flatten :: roundKeys k (w.drop 4)

/-- AES encryption of one 16-byte block under a 16- or 32-byte key. -/
def aesBlock (key blk : Bytes) : Bytes :=
  let nk := key.length / 4
  let w0 := (words4 nk (key.map (·.toNat))).reverse
  let ws := (aesExpand nk (4 * (nk + 7) - nk) nk 1 w0).reverse
  match roundKeys (nk + 7) ws with
  | [] => blk
  | k :: r => (aesRounds r (addKey (blk.map (·.toNat)) k)).map (BitVec.ofNat 8)

/-- One bit step of the GCM field product: (z, v) with x's bits from the most significant. -/
def ghashMulSteps : Nat → Nat → Nat → Nat → Nat
  | 0, _, z, _ => z
  | k + 1, x, z, v =>
    let z' := if x.testBit k then z ^^^ v else z
    ghashMulSteps k x z' (if v % 2 = 1 then (v >>> 1) ^^^ (0xe1 <<< 120) else v >>> 1)

def ghashMul (x y : Nat) : Nat := ghashMulSteps 128 x 0 y

def pad16 (b : Bytes) : Bytes := b ++ zeros ((16 - b.length % 16) % 16)

def ghash (h : Nat) (b : Bytes) : Nat :=
  (chunks (b.length / 16 + 1) 16 b).foldl (fun y x => ghashMul (y ^^^ beNat x) h) 0

def gcmStream (key nonce : Bytes) : Nat → Nat → Bytes → Bytes
  | 0, _, _ => []
  | k + 1, i, b =>
    if b.isEmpty then []
    else xorBytes (b.take 16) (aesBlock key (nonce ++ natBE 4 i)) ++ gcmStream key nonce k (i + 1) (b.drop 16)

/-- The GCM tag over additional data and ciphertext, 96-bit nonce. -/
def gcmTag (key nonce aad ct : Bytes) : Bytes :=
  let h := beNat (aesBlock key (zeros 16))
  let s := ghash h (pad16 aad ++ pad16 ct ++ natBE 8 (8 * aad.length) ++ natBE 8 (8 * ct.length))
  xorBytes (natBE 16 s) (aesBlock key (nonce ++ natBE 4 1))

/-- GCM encryption, which is also its decryption. -/
def gcmCrypt (key nonce b : Bytes) : Bytes := gcmStream key nonce (b.length / 16 + 1) 2 b

/-! ### CRC-64/ECMA-182 -/

def crcBits : Nat → Nat → Nat
  | 0, c => c
  | k + 1, c => crcBits k (if c.testBit 63 then ((c <<< 1) ^^^ 0x42F0E1EBA9EA3693) % m64 else (c <<< 1) % m64)

/-- CRC-64/ECMA-182: polynomial 0x42F0E1EBA9EA3693, initial value 0, no reflection. -/
def crc64 (b : Bytes) : Nat := b.foldl (fun c x => crcBits 8 (c ^^^ (x.toNat <<< 56))) 0

end Sys2Proof.Machine
end

