-- ==== Sys2Proof/Value.lean ====
section
/-! DEFINITION. Exact numeric values and accumulator states (spec/03 R67, spec/04 R107 to R116). -/
namespace Sys2Proof

/-- A number as the arithmetic sees it: NaN, an infinity, a signed zero, or ± `m` × 2^`e` with `m` > 0 (R67, R68). -/
inductive Val where
  | nan
  | inf (neg : Bool)
  | zero (neg : Bool)
  | fin (neg : Bool) (m : Nat) (e : Int)
  deriving DecidableEq, Repr

/-- The special-value state of one accumulated element (R109): `ovf` is the sign that overflowed first. -/
structure SpecialState where
  nan : Bool
  posInf : Bool
  negInf : Bool
  ovf : Option Bool
  deriving DecidableEq, Repr

/-- One pass of one output element: E10M23 accumulator and special state (R105, R109). -/
structure AccElem where
  acc : Val
  st : SpecialState
  deriving DecidableEq, Repr

/-- Why a result was special or counted (R75, R129). -/
structure Counted where
  nan : Bool
  posInf : Bool
  negInf : Bool
  overflow : Bool
  saturated : Bool
  deriving DecidableEq, Repr

end Sys2Proof
end

