-- ==== Sys2Proof/Config.lean ====
section
/-! DEFINITION. What an implementation fixes, and the free values: opaque constants that no proof can see into. -/
namespace Sys2Proof.Config
open Sys2Proof

/-- Beats of lock before membership and before a suspension ends (R34, R328). -/
def lockBeats : Nat := 1024

/-- Beats within which lock must be regained (R358). -/
def lockWindow : Nat := 4096

/-- Width of the fault and mark windows of R352 and R356. -/
def markWindow : Nat := 2 ^ 24

/-- Free value: the far-memory hash key drawn at the n-th draw (R180). -/
opaque hashKey : Nat → BitVec 128

/-- Free value: whether a far byte that an earlier allocation of the function left there still reads so in a new
allocation, else it reads zero, by draw and address (R444). -/
opaque farKept : Nat → Nat → Bool

/-- Free value: the message of one end of a key agreement, by draw, port, beat and DeviceID key: an ephemeral public key of 133 bytes, its
signature and the certificate chain digest (R339; log 172). -/
opaque keyxFlit : Nat → Nat → Nat → Nat → Bytes

/-- Free value: the ECDH P-521 secret of this end's ephemeral private key, named by its message, and the peer's public key (R339). -/
opaque ecdhSecret : Bytes → Bytes → Bytes

/-- Free value: the body of an SPDM response that DMTF DSP0274 lays out and this spec does not (R471). -/
opaque spdmBody : Nat → Bytes → Bytes

/-- Free value: the unique device secret (R463). -/
opaque uds : Bytes

/-- Free value: the level-2 key of a draw (R480). -/
opaque levelKey : Nat → Bytes

/-- Free value: the nonce under which a level-2 key is wrapped (R480). -/
opaque wrapNonce : Nat → Bytes

/-- Free value: an ECDSA P-521 signature by a private key, by draw and message (R471). -/
opaque ecdsa : Nat → Nat → Bytes → Bytes

/-- Free value: the slot-0 certificate chain of a serial: the DeviceID and Alias keys in it, the layer-0 measurements and the number of times
layer 1 has issued the Alias certificate (R465). -/
opaque certChain : Nat → Nat → Nat → Bytes → Nat → Bytes

/-- Free value: SHA-512 of the DeviceID certificate of a serial (R465). -/
opaque certDigest : Nat → Bytes

/-- Free value: SHA-512 of the security processor ROM (R472). -/
opaque romDigest : Bytes

/-- Free value: SHA-512 of the configuration record of a serial (R472). -/
opaque configDigest : Nat → Bytes

/-- Free value: a special function at an operand where the interval method has not decided a rounding (R149). -/
opaque specialFallback : Nat → F32 → F32

/-- Free value: a result that R149 sends to IEEE 754-2019 clause 9.2 and that neither text states here. -/
opaque specialOpen : Nat → F32 → F32

/-- Free value: the export master secret of an SPDM session (R480, DMTF DSP0277). -/
opaque exportSecret : Nat → Nat → Bytes

/-- Free value: array cycles and bytes moved of an operator in telemetry group 2, which no rule counts out (R459). The key is the
draw, the function, the last step counted, the slices counted, the operator and the counter (log 109). -/
opaque telemetryOpen : List Nat → Nat

/-- Free value: the cursor that the data pipeline attached for a replica, by job digest, step and logical d (R374). -/
opaque cursor : Bytes → Nat → Nat → Nat

/-- Free value: `clean_run` of a step restored from level-3 records, which do not carry it (R282, R378). -/
opaque restoredCleanRun : Nat → Nat

/-- Free value: what the other members of a job contribute to an eyespot summary (R132), by job digest and a key of step, operator,
own flags, own total and abandonments: flags, first tile, its eyespot, total (log 83). -/
opaque otherEyes : Bytes → List Nat → Nat × Nat × BitVec 32 × Nat

/-- Free value: how far the servo moves the local beat clock for an offset at a beat, in 2^-8 ns (R32, R332). -/
opaque servoStep : Nat → Int → Nat

/-- Free value: whether a planned beat leaves data-phase time on a port for a forwarded piece (R409), by beat, port, request and
piece (log 108). -/
opaque spareDataTime : Nat → Nat → Nat → Nat → Bool

end Sys2Proof.Config
end

