-- ==== Sys2Proof/Machine/State.lean ====
section
/-! DEFINITION. The state of one Kyoda as plain data, its stop reasons and the state after reset.
Each field's comment gives [width] meaning (file rule); reset value (log entry where the spec gives none). -/
namespace Sys2Proof.Machine
open Sys2Proof

/-- Why the machine stops. -/
inductive Fault where
  /-- A running slice reads or writes an address in no region of Table 6.2 (R173); raised by DATA_PHASE_START. Safe. -/
  | reservedAddress
  deriving DecidableEq, Repr

/-- Why a command has no meaning here. -/
inductive Refusal where
  /-- The row's meaning is not written; raised by a refused arm of Dispatch.lean. Safe. -/
  | notModelled (mnemonic : String)
  deriving DecidableEq, Repr

/-- Memory: (address, byte) pairs, addresses strictly rising, no byte 0 listed; an unlisted byte reads 0 (R443, R444). -/
abbrev Memory := List Host.Cell

/-! ### The mailbox -/

/-- One of the nine ring pairs (12 R387, R388). -/
structure RingPair where
  /-- [1] command and completion rings configured (12 R387); reset 0 -/
  configured : Bool
  /-- request of the FN.ENABLE whose completion starts the rings (12 R412); reset none -/
  enabling : Option Nat
  /-- [64] command ring base (12 R387); reset 0 -/
  cmdBase : Nat
  /-- [64] completion ring base (12 R387); reset 0 -/
  cplBase : Nat
  /-- [16] command slots (12 R385); reset 0 -/
  slots : Nat
  /-- [16] command head counter (12 R388); reset 0 -/
  cmdHead : Nat
  /-- [16] command tail counter (12 R388); reset 0 -/
  cmdTail : Nat
  /-- [16] completion head counter (12 R388); reset 0 -/
  cplHead : Nat
  /-- [16] completion tail counter (12 R388); reset 0 -/
  cplTail : Nat
  /-- [64] event ring base (13 R436); reset 0 -/
  evBase : Nat
  /-- [16] event ring slots, 0 without a ring (13 R436); reset 0 -/
  evSlots : Nat
  /-- [16] event head counter (12 R388); reset 0 -/
  evHead : Nat
  /-- [16] event tail counter (12 R388); reset 0 -/
  evTail : Nat
  /-- [1] information class delivered (12 R404); reset 0 -/
  evInfo : Bool
  /-- [1] warning class delivered (12 R404); reset 0 -/
  evWarn : Bool
  /-- [32] events discarded since the last EVENTS_LOST record (12 R404); reset 0 -/
  evDropped : Nat
  /-- [16 + 16 each] first counter value of the descriptors that one doorbell announced while CP0 was in reset, and the value after
  the last of them (01 R22); reset none -/
  busy : List (Nat × Nat)
  deriving DecidableEq, Repr

def RingPair.off : RingPair :=
  ⟨false, none, 0, 0, 0, 0, 0, 0, 0, 0, 0, 0, 0, false, false, 0, []⟩

/-- How far a command has got (12 R389 to R391, R400). -/
inductive FlightPhase where
  /-- fetched, not started -/
  | fetched
  /-- started; an interim completion has been given -/
  | interim
  /-- its final completion is fixed but not yet written -/
  | final
  deriving DecidableEq, Repr

/-- What one target of a broadcast has answered (12 R407). -/
structure Target where
  /-- linear rank of the target (09 R304) -/
  rank : Nat
  /-- its coordinate as the completion names it -/
  coord : Coord
  /-- physical coordinate -/
  phys : Coord
  /-- interim status and effective bytes given, if any -/
  interim : Option (Nat × Bytes)
  /-- final status word and 16 effective bytes, if given -/
  final : Option (Nat × Bytes)
  /-- result bytes received -/
  result : Bytes
  /-- beat from which the command is repeated to a target that answered BUSY (12 R407) -/
  retryAt : Option Nat
  deriving DecidableEq, Repr

/-- A command in flight (12 R389, R405). -/
structure Flight where
  /-- [512] the descriptor and its payload (12 R389); no such record at reset -/
  cmd : Cmd
  /-- beat of the fetch, the beat of acceptance of host timeouts (12 R402) -/
  fetchBeat : Nat
  /-- [2] how far it has got (12 R389); no such record at reset -/
  phase : FlightPhase
  /-- the bridge that forwarded it; none when this device fetched it (12 R405) -/
  bridge : Option Coord
  /-- targets of a forwarded command or broadcast (12 R407); empty for a command of this device alone -/
  targets : List Target
  /-- an interim completion of a broadcast has been written (12 R407) -/
  interimSent : Bool
  /-- payload bytes that have left for the targets or have arrived from the bridge (12 R408) -/
  moved : Nat
  deriving DecidableEq, Repr

/-- A chunk in the staging window (12 R408): its request and the devices fed from here that have not acknowledged it. -/
structure Chunk where
  /-- [32] request number (12 R408); no such record at reset -/
  req : Nat
  /-- offset of the first byte after the chunk -/
  upto : Nat
  /-- physical coordinates of the devices fed from here that have not acknowledged it (12 R408); no such record at reset -/
  waiting : List Coord
  deriving DecidableEq, Repr

/-- A completion that waits for a free slot (12 R390), or a result kept for the bridge (12 R406). -/
structure Cpl where
  /-- [4] ring pair that it completes on, 0 to 8 (12 R390, R406); no such record at reset -/
  ring : Nat
  /-- [32] request number (12 R390, R406); no such record at reset -/
  req : Nat
  /-- the 32 bytes of Table 12.7 -/
  bytes : Bytes
  /-- result bytes and the result area's address -/
  result : Bytes
  /-- [64] host address of the result area (12 R390, R406); no such record at reset -/
  resultAddr : Nat
  /-- [1] final, not interim (12 R390, R406); no such record at reset -/
  final : Bool
  deriving DecidableEq, Repr

/-- One write to host memory (model's own output trace, log entry 13). -/
structure HostWrite where
  /-- [64] host address (12 R390, log 13); no such record at reset -/
  addr : Nat
  /-- bytes written (12 R390, log 13); no such record at reset -/
  bytes : Bytes
  deriving DecidableEq, Repr

/-- The bootstrap window, the rings and the staging window (12 R384 to R409). -/
structure Mailbox where
  /-- [64] MBX_CMD_BASE (12 R384); reset 0 -/
  cmdBase : Word64
  /-- [64] MBX_CMD_SIZE, effective (12 R384, R385); reset 0 -/
  cmdSize : Word64
  /-- [64] MBX_CMD_TAIL, last value written (12 R384); reset 0 -/
  cmdTail : Word64
  /-- [64] MBX_CPL_BASE (12 R384); reset 0 -/
  cplBase : Word64
  /-- [1] ring pair 0 armed, DEV_STATUS [9] (12 R385); reset 0 -/
  armed : Bool
  /-- [16] events_lost, saturating, DEV_STATUS [47:32] (12 R404); reset 0 -/
  eventsLost : Nat
  /-- [32] ignored overfilling doorbells, telemetry (12 R388); reset 0 -/
  overfills : Nat
  /-- nine ring pairs (12 R387); reset unconfigured -/
  rings : List RingPair
  /-- commands in flight, oldest first (12 R389); reset empty -/
  flights : List Flight
  /-- completions held, oldest first (12 R390); reset empty -/
  held : List Cpl
  /-- results kept until the bridge acknowledges them (12 R406); reset empty -/
  kept : List Cpl
  /-- [32] next request number (12 R405); reset 0, DESIGN CHOICE 0 (log 17) -/
  nextReq : Nat
  /-- [32] staging window size in bytes (12 R408); reset 4 MiB -/
  window : Nat
  /-- chunks in the two halves of the staging window (12 R408); reset empty -/
  chunks : List Chunk
  /-- pieces of payloads and results that wait for their descriptor, for pieces before them or for their completion: request,
  piece, bytes (12 R405, R409); reset empty -/
  pieces : List (Nat × Nat × Bytes)
  /-- event records of the bridge that wait for CP0 (01 R22); reset empty -/
  evHeld : List Bytes
  /-- control messages whose duty a processor in reset holds: type code, port, message (01 R22); reset empty -/
  cpHeld : List (Nat × Nat × Msg)
  /-- model's own: writes to host memory, oldest first (log 13); reset empty -/
  hostOut : List HostWrite
  /-- model's own: notices sent to the host adapter (12 R390, log 13); reset 0 -/
  notices : Nat
  deriving DecidableEq, Repr

/-! ### Identity, flash and firmware -/

/-- A field-failure entry (13 Table 13.5): kind 0 core, 1 near row, 2 far row; index; address. -/
structure FflEntry where
  /-- [8] 0 core, 1 near row, 2 far row (13 Table 13.5); no such record at reset -/
  kind : Nat
  /-- [32] physical core or entry index (13 Table 13.5); no such record at reset -/
  index : Nat
  /-- [64] device address of the row (13 Table 13.5); no such record at reset -/
  addr : Nat
  deriving DecidableEq, Repr

/-- A firmware image as the security processor sees it (15 Table 15.2). -/
structure Image where
  /-- [32] image version (15 Table 15.2); no such record at reset -/
  version : Nat
  /-- [32] security version number (15 Table 15.2); no such record at reset -/
  svn : Nat
  /-- SHA-512 of the body -/
  digest : Bytes
  deriving DecidableEq, Repr

/-- Package flash, protected flash and the running firmware (01 R8, 15 R463 to R470). -/
structure Flash where
  /-- [64] module serial number (15 R465); DESIGN CHOICE 1 (log 7) -/
  serial : Nat
  /-- physical cores that the configuration record disables (01 R11); DESIGN CHOICE none (log 7) -/
  disabled : List Nat
  /-- preferred spare index per cluster, none where the record names none (01 R12); DESIGN CHOICE none (log 7) -/
  preferred : List (Option Nat)
  /-- field-failure list in the order listed (01 R11, 13 R422); DESIGN CHOICE empty (log 7) -/
  ffl : List FflEntry
  /-- entries of that list whose far-memory row post-package repair has replaced (06 R189, R196); DESIGN CHOICE none (log 7) -/
  repaired : List FflEntry
  /-- [2] partition mode 0 whole, 1 halves, 2 quarters (14 R440); reset 0 for a module never partitioned -/
  partMode : Nat
  /-- device image in slot A (15 R468); DESIGN CHOICE version 1, svn 0 (log 7) -/
  slotA : Option Image
  /-- device image in slot B (15 R468); DESIGN CHOICE none (log 7) -/
  slotB : Option Image
  /-- [1] running from slot B (15 R468, 13 Table 13.5); reset 0 -/
  runB : Bool
  /-- staged device image and the slot it is in, 0 A, 1 B (15 R468); DESIGN CHOICE none (log 7) -/
  staged : Option (Image × Nat)
  /-- running host environment image (15 R468); DESIGN CHOICE none (log 7) -/
  envImage : Option Image
  /-- staged host environment image and slot (15 R468); DESIGN CHOICE none (log 7) -/
  envStaged : Option (Image × Nat)
  /-- slot that holds the active environment image, 0 A, 1 B (15 R468); reset 0 -/
  envSlot : Nat
  /-- [32] device anti-rollback counter (15 R467); DESIGN CHOICE 0 (log 7) -/
  counter : Nat
  /-- [32] environment anti-rollback counter (15 R467); DESIGN CHOICE 0 (log 7) -/
  envCounter : Nat
  /-- firmware staging in progress: image kind, image, valid by digest and svn, request (15 R468); reset none -/
  staging : Option (Nat × Image × Bool × Nat)
  /-- [64] beat by which the activation window ends, none outside it (15 R469); reset none -/
  activation : Option Nat
  /-- [32] generation of the Alias key, raised at each new derivation (15 R463, R469); DESIGN CHOICE 0 (log 7) -/
  aliasGen : Nat
  /-- [1] test port unlocked since cold boot (15 R474); reset 0 -/
  unlockedOnce : Bool
  /-- [1] test port unlocked now (15 R474); reset 0 -/
  unlocked : Bool
  deriving DecidableEq, Repr

/-! ### The beat engine -/

/-- Phases of a beat (02 R29). -/
inductive Phase where
  | sync | message | data | guard
  deriving DecidableEq, Repr

/-- A change of period that waits for the beat master's announcement (02 R31, log 30): period asked for, and who asked: a host command of
this device, or the port toward the device that asked. -/
structure PeriodAsk where
  /-- [32] period in ns (02 R31); no such record at reset -/
  period : Nat
  /-- [32] request number of the host command, if it is one (02 R31); no such record at reset -/
  req : Option Nat
  /-- [4] port on which the request came, if it came on one (02 R31); no such record at reset -/
  port : Option Nat
  deriving DecidableEq, Repr

/-- The beat engine and time synchronisation (02 R29 to R36, R53 to R58, 14 R448). -/
structure BeatEngine where
  /-- [64] beat count (02 R32); reset 0 -/
  beat : Nat
  /-- [2] phase of the beat (02 R29); reset sync -/
  phase : Phase
  /-- [64] system time base in quarters of a ns since the first master's beat 0 (14 R460, 02 R53); reset 0 -/
  timeQ : Nat
  /-- [32] base period in ns (02 R30); reset 8000 -/
  period : Nat
  /-- announced period and its effective beat (02 R31); reset none -/
  periodPending : Option (Nat × Nat)
  /-- changes of period that wait for the master (02 R31); reset none -/
  periodAsks : List PeriodAsk
  /-- [2] stretch level in force (02 R53); reset 0 -/
  level : Nat
  /-- announced levels with their effective beats, in the order of their announcement (02 R55, R56); reset none -/
  levelPending : List (Nat × Nat)
  /-- [2] host floor level (02 R58); reset 0 -/
  hostFloor : Nat
  /-- [2] level requested by the power managers (02 R58); reset 0 -/
  requested : Nat
  /-- [2] lowest level this device can hold, asserted in every header (02 R57); reset 0 -/
  ownFloor : Nat
  /-- [2] highest level that devices below this one in the sync tree have asserted in this beat (02 R57, log 152); reset 0 -/
  below : Nat
  /-- [2] the same in the last whole beat (02 R57, log 152); reset 0 -/
  belowLast : Nat
  /-- [13] consecutive beats in which no device asserted the level in force (02 R57); reset 0 -/
  idleBeats : Nat
  /-- [13] bytes of express flits sent in this beat, by port (09 R306); reset none -/
  express : List (Nat × Nat)
  /-- [1] some device asserted the level in force in this beat (02 R57); reset 0 -/
  asserted : Bool
  /-- [64] serial of the beat master, none before one is known (02 R35); reset none -/
  master : Option Nat
  /-- [1] the master is locked to an external reference (10 Table 10.6); reset 0 -/
  masterLocked : Bool
  /-- [1] holding over during election (02 R35); reset 0 -/
  holdover : Bool
  /-- upstream port on the sync tree, none at the master (02 R32); reset none -/
  upstream : Option Nat
  /-- [8] depth in the sync tree (10 Table 10.6); reset 0 -/
  depth : Nat
  /-- [3] consecutive missing SYNC flits of the upstream port, held at 4 (02 R35); reset 0 -/
  missing : Nat
  /-- [1] a SYNC flit of the upstream port has come in this beat (02 R35); reset 0 -/
  syncSeen : Bool
  /-- estimated offset from the upstream partner in 2^-9 ns, so that R332's half is exact (10 R332); reset 0 -/
  offset : Int
  /-- the servo's accumulated correction of the local beat clock in 2^-8 ns (02 R32, 10 R332); reset 0 -/
  steer : Int
  /-- [2] consecutive sync phases beyond ±100 ns (02 R34); reset 0 -/
  badSyncs : Nat
  /-- [1] in lock (02 R34); reset 0 -/
  inLock : Bool
  /-- beats in lock since lock was gained (02 R34, 10 R328); reset 0 -/
  lockBeats : Nat
  /-- [1] suspended after a lock loss (02 R34); reset 0 -/
  suspended : Bool
  /-- origin beat of the ABORT that the lock loss raised (11 R358); reset none -/
  lockAbort : Option Nat
  /-- [8] master_priority (02 Table 2.2); reset 128 -/
  priority : Nat
  /-- [2] ref_mode: 0 none, 1 10 MHz, 2 1PPS (02 R36, 13 R436); reset 0 -/
  refMode : Nat
  /-- [1] a reference signal is present in the selected mode (02 R36); reset 0 -/
  refSignal : Bool
  /-- [1] the reference logic has locked (02 R36); reset 0 -/
  refLocked : Bool
  /-- [64] beat of the last 1PPS edge (02 R36); reset 0 -/
  ppsBeat : Nat
  /-- [32] offset into that beat in ns (02 R36); reset 0 -/
  ppsOffset : Nat
  /-- 1PPS output pulses driven (14 R460); reset 0 -/
  ppsOut : Nat
  /-- [32] abort bound tau_abort in ns (02 R39, 09 R308); reset 200000 -/
  tauAbort : Nat
  /-- control messages waiting for the message phase, with their ports (02 R37); reset empty -/
  queue : List (Msg × List Nat)
  /-- origin coordinate and beat of ABORTs already forwarded (09 R308); reset empty -/
  abortsSeen : List (Coord × Nat)
  deriving DecidableEq, Repr

/-- The system time base in ns (14 R460). -/
def BeatEngine.timeNs (e : BeatEngine) : Nat := e.timeQ / 4

/-! ### Ports -/

/-- One transmission on a port (model's own output trace, log entry 13): the port and what went out. -/
inductive Sent where
  /-- a control message (02 R37) -/
  | msg (port : Nat) (m : Msg)
  /-- an express message outside the message phase (09 R306) -/
  | express (port : Nat) (m : Msg)
  /-- a SYNC payload (10 Table 10.6) -/
  | sync (port : Nat) (payload : Bytes)
  /-- an item: its 16-byte descriptor and bytes (10 R319) -/
  | item (port : Nat) (desc : Bytes) (bytes : Bytes)
  /-- an identity record (10 Table 10.5) -/
  | ident (port : Nat) (rec : Bytes)
  /-- a key-agreement flit (10 R339) -/
  | keyx (port : Nat)
  /-- a whole flit sent again (10 R320) -/
  | resend (port : Nat) (seq : Nat) (flit : Bytes)
  /-- a retry request for a sequence number (10 R320) -/
  | nak (port : Nat) (seq : Nat)
  deriving DecidableEq, Repr

/-- One of the nine ports (10 R312 to R343). -/
structure PortSt where
  /-- [8] port code (10 Table 10.1); reset its own code -/
  code : Nat
  /-- [3] pstate of Table 13.14 (13 R434); reset 0 -/
  pstate : Nat
  /-- [4] training stage reached, Table 10.7 order from 1, 0 before (13 Table 13.14); reset 0 -/
  stage : Nat
  /-- [1] presence or power-good (10 R323); reset 0 -/
  present : Bool
  /-- [1] cable power on (16 R501); reset 0 -/
  power : Bool
  /-- restarts of training after a missed stage (10 R323); reset 0 -/
  tries : Nat
  /-- [4] data lanes in service (13 Table 13.14); reset 0 -/
  lanes : Nat
  /-- [1] spare lane present (10 R324); reset 0 -/
  spare : Bool
  /-- lane replaced by the spare in the receive direction (10 R314); reset none -/
  failedRx : Option Nat
  /-- lane replaced by the spare in the transmit direction (10 R314); reset none -/
  failedTx : Option Nat
  /-- [8] latency class lambda (02 R44); reset 0 -/
  lambda : Nat
  /-- [32] one-way latency in ps (10 R325); reset 0 -/
  latencyPs : Nat
  /-- [32] retries since training (13 Table 13.14); reset 0 -/
  retries : Nat
  /-- [64] partner serial, 0 when unknown (13 Table 13.14); reset 0 -/
  partner : Nat
  /-- partner physical coordinate (13 Table 13.14); reset none -/
  partnerCoord : Option Coord
  /-- last identity record received (10 Table 10.5); reset empty -/
  ident : Bytes
  /-- [1] the partner runs a confidential function (10 Table 10.5, R338); reset 0 -/
  partnerConf : Bool
  /-- [3] lstate received from the partner (10 R317); reset 0 -/
  partnerLstate : Nat
  /-- [32] integrity failures (10 R341); reset 0 -/
  integrity : Nat
  /-- beats of the integrity failures of the last 1,024 beats (10 R341); reset empty -/
  integrityBeats : List Nat
  /-- [1] admitted (10 R327); reset 0 -/
  admitted : Bool
  /-- beat from which an admitted port is in service without a job (10 R328); reset none -/
  serviceAt : Option Nat
  /-- [5] consecutive valid SYNC flits in training (10 R323); reset 0 -/
  syncRun : Nat
  /-- [1] encrypted (10 R338); reset 0 -/
  enc : Bool
  /-- [1] key agreement running (10 R339); reset 0 -/
  keying : Bool
  /-- transmit key and salt (10 R339); reset empty -/
  keyTx : Bytes
  /-- receive key and salt (10 R339); reset empty -/
  keyRx : Bytes
  /-- [64] transmit flit counter (10 R340); reset 0 -/
  ctrTx : Nat
  /-- [64] receive flit counter (10 R340); reset 0 -/
  ctrRx : Nat
  /-- [16] sequence number of the next flit to send (10 R317); reset 0 -/
  seqTx : Nat
  /-- [16] sequence number expected next (10 R320); reset 0 -/
  seqRx : Nat
  /-- retry buffer: flits sent and not acknowledged (10 R320); reset empty -/
  retry : List (Nat × Bytes)
  /-- missing sequence number asked for and how often (10 R321); reset none -/
  asked : Option (Nat × Nat)
  /-- sequence number from which the partner has asked for flits that are not yet sent again (10 R318, R320); reset none -/
  resendDue : Option Nat
  /-- the identity record last sent, its beat count left out (10 R326); reset empty -/
  identSent : Bytes
  /-- the eight data lanes, largest eye margin first (10 R324); reset empty -/
  dataLanes : List Nat
  /-- the spare lane (10 R324); reset none -/
  spareLane : Option Nat
  /-- this end's key-agreement message of the exchange that runs or ran last (10 R339); reset empty -/
  keyOwn : Bytes
  /-- local time in 2^-8 ns at which the partner's last SYNC flit arrived (10 Table 10.6); reset 0 -/
  tRxLast : Nat
  /-- t_tx of that flit (10 Table 10.6); reset 0 -/
  tTxLast : Nat
  /-- [64] flits sent, telemetry (14 Table 14.11); reset 0 -/
  flits : Nat
  /-- flits sent at the last commit, and in the last step (15 Table 15.5); reset 0 -/
  flitsMark : Nat
  /-- [64] flits sent in the last committed step (15 Table 15.5); reset 0 -/
  flitsStep : Nat
  /-- [32] stale segments discarded, telemetry (09 R302); reset 0 -/
  stale : Nat
  /-- [32] lane failures, telemetry (14 Table 14.11); reset 0 -/
  laneFails : Nat
  /-- [64] corrected symbols, telemetry (14 Table 14.11); reset 0 -/
  symbols : Nat
  deriving DecidableEq, Repr

def PortSt.init (code : Nat) : PortSt :=
  { code, pstate := 0, stage := 0, present := false, power := false, tries := 0, lanes := 0, spare := false,
    failedRx := none, failedTx := none, lambda := 0, latencyPs := 0, retries := 0, partner := 0,
    partnerCoord := none, ident := [], partnerConf := false, partnerLstate := 0, integrity := 0, integrityBeats := [],
    admitted := false, serviceAt := none, syncRun := 0, enc := false, keying := false, keyTx := [], keyRx := [],
    ctrTx := 0, ctrRx := 0, seqTx := 0, seqRx := 0, retry := [], asked := none, resendDue := none,
    identSent := [], dataLanes := [], spareLane := none, keyOwn := [], tRxLast := 0, tTxLast := 0,
    flits := 0, flitsMark := 0, flitsStep := 0, stale := 0, laneFails := 0, symbols := 0 }

/-- One module of the system map (13 R435). -/
structure MapModule where
  /-- [64] serial number (13 R435); no such record at reset -/
  serial : Nat
  /-- [4 × 8] physical coordinate (13 R435); no such record at reset -/
  phys : Coord
  deriving DecidableEq, Repr

/-- The system map in force (13 R435, 10 R327, 09 R309). -/
structure SysMap where
  /-- [64] system_id -/
  systemId : Nat
  /-- physical axis lengths -/
  lengths : Coord
  /-- modules of the map in the order listed (13 R435); no such record at reset -/
  modules : List MapModule
  /-- serials of modules that have left or been lost -/
  gone : List Nat
  /-- serials of modules whose identity record says that they are no job members (01 R13, 10 Table 10.5) -/
  absent : List Nat
  /-- this device's rings that run as lines: axis, and the index whose link to the next is lost (09 R309) -/
  lines : List (Nat × Nat)
  /-- axes with a line among the rings of other devices (09 R309, 10 R335) -/
  others : List Nat
  /-- ranking of the physical axes, best first (10 R335) -/
  ranking : List Nat
  deriving DecidableEq, Repr

/-- The fabric: ports, the system map, the bridge role and drains (10). -/
structure Fabric where
  /-- nine ports (10 R312); reset down -/
  ports : List PortSt
  /-- the system map (10 R327); reset none -/
  map : Option SysMap
  /-- [1] this device is the bridge (10 R342); reset 0 -/
  bridge : Bool
  /-- [1] the service port is held idle after a bridge conflict (10 R342); reset 0 -/
  serviceIdle : Bool
  /-- a drain runs: scope 0 module or 1 port with its code, and its request (10 R345); reset none -/
  drain : Option (Nat × Nat × Option Nat)
  /-- a drain that waits for the first plan switch after a restore (13 R438); reset none -/
  drainWaits : Option (Nat × Nat × Option Nat)
  /-- [1] safe to remove (16 R512); reset 0 -/
  safe : Bool
  /-- [64] beat of safe to remove (13 R434); reset 0 -/
  safeBeat : Nat
  /-- [1] the drain has completed but SAFE_TO_REMOVE waits for a molt's end (16 R512); reset 0 -/
  safeHeld : Bool
  /-- a LINK.ADMIT that waits for identity exchange: request, ports still to report, ports admitted (13 R434); reset none -/
  admitting : Option (Nat × List Nat × Nat)
  /-- model's own: transmissions on the ports, oldest first (log 13); reset empty -/
  sent : List Sent
  /-- model's own: how many of them have been cut into flits (log 13); reset 0 -/
  wired : Nat
  deriving DecidableEq, Repr

/-! ### Memory, cores and hub stores -/

/-- Registers of one core (03 R90 to R101, 04 R100, R125). -/
structure CoreRegs where
  /-- [4096 × 32] row-bank scales (03 R90); reset 1.0 each; the list holds the entries loaded, the rest are 1.0 -/
  rowScale : List F32
  /-- [4096 × 32] column-bank scales (03 R90); reset 1.0 each, as above -/
  colScale : List F32
  /-- [256 × 16] codebook bank 0 (03 R97); reset +0; the list holds the entries loaded -/
  book0 : List (BitVec 16)
  /-- [256 × 16] codebook bank 1 (03 R97); reset +0 -/
  book1 : List (BitVec 16)
  /-- [256 × 32] product table (04 R125); reset +0 -/
  table : List (BitVec 32)
  deriving DecidableEq, Repr

def CoreRegs.init : CoreRegs := ⟨[], [], [], [], []⟩

/-- A partial tile in a core's accumulator store (04 R105): key, blocks done, elements in row-major order, each with
one accumulator per pass. -/
structure Partial where
  /-- [7] logical core (04 R105); no such record at reset -/
  core : Nat
  /-- [16] operator number in the timetable (04 R105); no such record at reset -/
  op : Nat
  /-- [64] step served (04 R105); no such record at reset -/
  step : Nat
  /-- [16] micro-batch served, if any (04 R105); no such record at reset -/
  mb : Option Nat
  /-- [16] batch of the MATMUL (04 R105); no such record at reset -/
  batch : Nat
  /-- [32] m-tile (04 R105); no such record at reset -/
  mTile : Nat
  /-- [32] n-tile (04 R105); no such record at reset -/
  nTile : Nat
  /-- [32] K-blocks done (04 R105); no such record at reset -/
  blocks : Nat
  /-- [256 × 256] elements, each with its accumulators (04 R105); no such record at reset -/
  elems : List (List AccElem)
  deriving DecidableEq, Repr

/-- An allocation (06 R175). -/
structure Alloc where
  /-- [64] device address (06 R175); no such record at reset -/
  addr : Nat
  /-- [64] bytes (06 R175); no such record at reset -/
  size : Nat
  /-- the parameter region (08 R242) -/
  param : Bool
  deriving DecidableEq, Repr

/-- The memories and registers of the compute dies (06 R172). -/
structure Stores where
  /-- [8 per byte] core and cluster SRAM, near and far memory by device address (06 R173); reset 0 everywhere -/
  mem : Memory
  /-- addresses of protected words whose stored data are uncorrectable, with their length (06 R198); reset empty -/
  bad : List (Nat × Nat)
  /-- registers of the cores that have been loaded, by logical core (03 R92); reset none loaded -/
  cores : List (Nat × CoreRegs)
  /-- accumulator stores (04 R105); reset empty -/
  partials : List Partial
  /-- physical cores that failed built-in self-test (01 R11); reset none -/
  bist : List Nat
  /-- spare index per cluster, none when short (01 R12); reset 6 each, recomputed in boot stage 6 -/
  spares : List (Option Nat)
  /-- corrected errors of rows in the last 1,024 beats: far?, row, beat (06 R196); reset empty -/
  rowErrors : List (Bool × Nat × Nat)
  /-- transient marks: core?, number, beat (11 R356, R357); reset empty -/
  marks : List (Bool × Nat × Nat)
  /-- engine faults in the last 2^24 beats (11 R352); reset empty -/
  engineFaults : List Nat
  /-- [64] next granule of patrol scrub (06 R197); reset 0 -/
  scrubNext : Nat
  /-- [16 × 128] channel occupancies of the last window (06 R186); reset 0 each -/
  occupancy : List Nat
  /-- [64] last beat of the last occupancy window (06 R186); reset 0 -/
  windowEnd : Nat
  /-- [16] imbalance × 100 of that window (06 R187); reset 0 -/
  imbalance : Nat
  /-- [32] far-memory carries counted when the window began (06 R187); reset 0 -/
  carryMark : Nat
  /-- oscillator-tracking runs (06 R189); reset 0 -/
  trackings : Nat
  /-- [2] far memory: 0 groups off, 1 on and not in service (retraining or self refresh), 2 in service (06 R189, R190); reset 0 -/
  farState : Nat
  /-- [1] doubled refresh of near tiers and far groups, by sensor (14 Table 14.8); reset none -/
  doubled : List Nat
  deriving DecidableEq, Repr

/-! ### Jobs -/

/-- A tensor reference (05 Table 5.3). -/
structure TRef where
  /-- [64] element (0, 0) of the local shard (05 Table 5.3); no such record at reset -/
  addr : Nat
  /-- [64] scale array, 0 for none (05 Table 5.3); no such record at reset -/
  scaleAddr : Nat
  /-- [32] rows (05 Table 5.3); no such record at reset -/
  rows : Nat
  /-- [32] columns (05 Table 5.3); no such record at reset -/
  cols : Nat
  /-- [32] identifier (05 Table 5.3); no such record at reset -/
  tensorId : Nat
  /-- [4] format code (05 Table 5.3); no such record at reset -/
  fmt : Nat
  /-- [2] group code (05 Table 5.3); no such record at reset -/
  group : Nat
  /-- [4] codebook window (05 Table 5.3); no such record at reset -/
  cbWin : Nat
  deriving DecidableEq, Repr

/-- An operator descriptor as compiled (05 Table 5.2), with its references and parameter block. -/
structure OpD where
  /-- [8] class code (05 Table 5.2); no such record at reset -/
  cls : Nat
  /-- [16] flags (05 Table 5.2); no such record at reset -/
  flags : Nat
  /-- [16] layer (05 Table 5.2); no such record at reset -/
  layer : Nat
  /-- [16] operator number within the layer (05 Table 5.2); no such record at reset -/
  opIndex : Nat
  /-- [8] split level (05 Table 5.2); no such record at reset -/
  splitLevel : Nat
  /-- [8] rotate size (05 Table 5.2); no such record at reset -/
  rotate : Nat
  /-- [8] bias format (05 Table 5.2); no such record at reset -/
  biasFmt : Nat
  /-- [4] inputs (05 Table 5.2); no such record at reset -/
  nIn : Nat
  /-- [4] outputs (05 Table 5.2); no such record at reset -/
  nOut : Nat
  /-- [64] bias, 0 for none (05 Table 5.2); no such record at reset -/
  biasAddr : Nat
  /-- [64] eyespot array, 0 for none (05 Table 5.2); no such record at reset -/
  eyeAddr : Nat
  /-- [64] row-bank scales, 0 for 1.0 (05 Table 5.2); no such record at reset -/
  rowScaleAddr : Nat
  /-- [64] column-bank scales, 0 for 1.0 (05 Table 5.2); no such record at reset -/
  colScaleAddr : Nat
  /-- [256 each] tensor references, inputs then outputs (05 Table 5.2); no such record at reset -/
  refs : List TRef
  /-- class parameter block (05 Table 5.2); no such record at reset -/
  params : Bytes
  /-- stationarity asked for, 0 leaves it to the compiler (05 R136) -/
  stationarity : Nat
  deriving DecidableEq, Repr

/-- A parameter-table entry (08 Table 8.1). -/
structure ParamEntry where
  /-- [32] tensor (08 Table 8.1); no such record at reset -/
  tensorId : Nat
  /-- [16] layer (08 Table 8.1); no such record at reset -/
  layer : Nat
  /-- [4] format of the working copy (08 Table 8.1); no such record at reset -/
  workFmt : Nat
  /-- [8] replicated over T, expert weight, frozen (08 Table 8.1); no such record at reset -/
  flags : Nat
  /-- [32] rows (08 Table 8.1); no such record at reset -/
  rows : Nat
  /-- [32] columns (08 Table 8.1); no such record at reset -/
  cols : Nat
  /-- [16] update group (08 Table 8.1); no such record at reset -/
  group : Nat
  /-- [64] weight bank 0 offset (08 Table 8.1); no such record at reset -/
  bank0 : Nat
  /-- [64] weight bank 1 offset (08 Table 8.1); no such record at reset -/
  bank1 : Nat
  /-- [64] state bank 0 offset (08 Table 8.1); no such record at reset -/
  state0 : Nat
  /-- [64] state bank 1 offset (08 Table 8.1); no such record at reset -/
  state1 : Nat
  /-- [64] codebook offset (08 Table 8.1); no such record at reset -/
  codebook : Nat
  deriving DecidableEq, Repr

/-- An exchange-table entry with effective values (07 Table 7.1). -/
structure ExchEntry where
  /-- [16] layer (07 Table 7.1); no such record at reset -/
  layer : Nat
  /-- [32] tokens_per_mb (07 Table 7.1); no such record at reset -/
  tokens : Nat
  /-- [16] capacity factor × 64 (07 Table 7.1); no such record at reset -/
  capFactor : Nat
  /-- [8] 0 drop, 1 spill (07 Table 7.1); no such record at reset -/
  overflow : Nat
  /-- [8] spill slots per device (07 Table 7.1); no such record at reset -/
  spillWindows : Nat
  /-- [32] receive buffer in MiB (07 Table 7.1); no such record at reset -/
  recvMib : Nat
  /-- [16] fixed window, 0 for none (07 Table 7.1); no such record at reset -/
  dispatchBeats : Nat
  /-- [32] bias_gamma (07 Table 7.1); no such record at reset -/
  gamma : F32
  /-- [32] bias_limit (07 Table 7.1); no such record at reset -/
  limit : F32
  /-- [64] initial biases, 0 for +0 (07 Table 7.1); no such record at reset -/
  initAddr : Nat
  /-- [8] skip_idle_update (07 Table 7.1); no such record at reset -/
  skipIdle : Nat
  /-- [8] few_token_scale (07 Table 7.1); no such record at reset -/
  fewToken : Nat
  deriving DecidableEq, Repr

/-- The resilience policy (11 Table 11.4). -/
structure Policy where
  /-- [8] sentinel fraction exponent in force (11 Table 11.4); no such record at reset -/
  sentinelShift : Nat
  /-- [8] duplicate-update fraction exponent in force (11 Table 11.4); no such record at reset -/
  dupShift : Nat
  /-- [8] warm slabs (11 Table 11.4); no such record at reset -/
  warmSlabs : Nat
  /-- [8] level-1 slots asked for (11 Table 11.4); no such record at reset -/
  l1Slots : Nat
  /-- [8] level 2 every n-th chrysalis (11 Table 11.4); no such record at reset -/
  l2Every : Nat
  /-- [8] images kept in flash (11 Table 11.4); no such record at reset -/
  l2Keep : Nat
  /-- [8] 0 automatic, 1 wait (11 Table 11.4); no such record at reset -/
  onLoss : Nat
  /-- [8] replays before a restore (11 Table 11.4); no such record at reset -/
  replayLimit : Nat
  /-- [32] level-0 interval, 0 automatic (11 Table 11.4); no such record at reset -/
  l0IntervalMs : Nat
  /-- [32] level-3 interval, 0 on request only (11 Table 11.4); no such record at reset -/
  l3IntervalMs : Nat
  deriving DecidableEq, Repr

/-- The job description's header fields in force (13 Table 13.8). -/
structure JobHdr where
  /-- [16] 0 training, 1 serving (13 Table 13.8); no such record at reset -/
  kind : Nat
  /-- [4 × 8] cut lengths E, T, P, D (13 Table 13.8); no such record at reset -/
  cuts : Coord
  /-- [16] layers (13 Table 13.8); no such record at reset -/
  nLayers : Nat
  /-- [128] job seed (13 Table 13.8); no such record at reset -/
  seed : Bytes
  /-- [16] plan clock in MHz (13 Table 13.8); no such record at reset -/
  planClock : Nat
  /-- [8] far_plan_percent (13 Table 13.8); no such record at reset -/
  farPercent : Nat
  /-- [8] slack_beats (13 Table 13.8); no such record at reset -/
  slack : Nat
  /-- [16] commit_slack_beats (13 Table 13.8); no such record at reset -/
  commitSlack : Nat
  /-- [8] retain_layers (13 Table 13.8); no such record at reset -/
  retain : Nat
  /-- [8] recompute_policy (13 Table 13.8); no such record at reset -/
  recompute : Nat
  /-- [8] recompute_stride (13 Table 13.8); no such record at reset -/
  stride : Nat
  /-- [8] grad_cast_sr (13 Table 13.8); no such record at reset -/
  gradSr : Nat
  /-- [8] weight_mode (13 Table 13.8); no such record at reset -/
  weightMode : Nat
  /-- [8] grad_format (13 Table 13.8); no such record at reset -/
  gradFormat : Nat
  /-- [8] loss_scale_init (13 Table 13.8); no such record at reset -/
  lossScaleInit : Nat
  /-- [8] export_mode (13 Table 13.8); no such record at reset -/
  exportMode : Nat
  /-- [8] export_state (13 Table 13.8); no such record at reset -/
  exportState : Nat
  /-- [32] clean_steps (13 Table 13.8); no such record at reset -/
  cleanSteps : Nat
  /-- [32] clip_norm (13 Table 13.8); no such record at reset -/
  clipNorm : F32
  /-- [64] param_region_size (13 Table 13.8); no such record at reset -/
  paramRegionSize : Nat
  /-- [16] imbalance_pct (13 Table 13.8); no such record at reset -/
  imbalancePct : Nat
  /-- [256] resilience (13 Table 13.8); no such record at reset -/
  policy : Policy
  deriving DecidableEq, Repr

/-- The committed scalars and registers of a job (08 R254, R257, R265, 07 R205): what a commit changes. -/
structure Committed where
  /-- [64] number of the running step (00 R7); reset 0 -/
  step : Nat
  /-- [64] opt_step (08 R257); reset 0 -/
  optStep : Nat
  /-- [32 + 32 per update group] p1 and p2 (08 R257); reset 1.0 each -/
  products : List (F32 × F32)
  /-- [8] ls_exp (08 R254); reset loss_scale_init -/
  lsExp : Nat
  /-- [32] clean_run (08 R255); reset 0 -/
  cleanRun : Nat
  /-- [32] weight version (08 R265); reset 0 -/
  version : Nat
  /-- [1] current bank of weights and states (08 R265); reset 0 -/
  bank : Nat
  /-- [32 per expert] router bias registers per expert layer (07 R205); reset from bias_init_addr or +0 -/
  biases : List (Nat × List F32)
  deriving DecidableEq, Repr

/-- One owner shard in the gradient holding buffer (08 R252): FP32 sums, few-token exponent, marker. -/
structure Shard where
  /-- [32] tensor (08 R252); no such record at reset -/
  tensor : Nat
  /-- [32 each] FP32 sums of the owner range (08 R252); no such record at reset -/
  values : List F32
  /-- [8] few-token exponent (08 R252); no such record at reset -/
  exponent : Nat
  /-- [1] zero-contribution marker (08 R252); no such record at reset -/
  marker : Bool
  /-- [64] beat at which it was complete (08 R275); no such record at reset -/
  beat : Nat
  deriving DecidableEq, Repr

/-- Optimiser state of an update range in the update cache: the low halves in split mode, then each state part (08 R263). -/
structure Staged where
  /-- [32] tensor (08 R263); no such record at reset -/
  tensor : Nat
  /-- [64] first local element (08 R263); no such record at reset -/
  e0 : Nat
  /-- [64] elements (08 R263); no such record at reset -/
  n : Nat
  /-- the bytes as staged, up to 64 MiB in all (08 R263, 14 Table 14.2); no such record at reset -/
  bytes : Bytes
  deriving DecidableEq, Repr

/-- Staged state of a deferred update that staging has displaced into the parking area (08 R264). -/
structure Parked where
  /-- [32] tensor (08 R264); no such record at reset -/
  tensor : Nat
  /-- [64] first local element (08 R264); no such record at reset -/
  e0 : Nat
  /-- [64] elements (08 R264); no such record at reset -/
  n : Nat
  /-- [64] its address in far memory (08 R264); no such record at reset -/
  addr : Nat
  /-- [64] its bytes (08 R264); no such record at reset -/
  len : Nat
  deriving DecidableEq, Repr

/-- An eyespot summary (04 Table 4.8). -/
structure EyeSum where
  /-- [16] operator in descriptor order (04 Table 4.8); no such record at reset -/
  op : Nat
  /-- [32] OR of bits [31:27] of the eyespots (04 Table 4.8); no such record at reset -/
  flags : Nat
  /-- [32] lowest tile with a nonzero count (04 Table 4.8); no such record at reset -/
  firstTile : Nat
  /-- [32] eyespot of that tile (04 Table 4.8); no such record at reset -/
  firstEye : BitVec 32
  /-- [32] sum of the counts, saturating (04 Table 4.8); no such record at reset -/
  total : Nat
  deriving DecidableEq, Repr

/-- Completion statistics of one non-product operator (03 R75): NaN, infinite and saturated results, others. -/
structure OpStats where
  /-- [16] operator in descriptor order (03 R75); no such record at reset -/
  op : Nat
  /-- [32] NaN results (03 R75); no such record at reset -/
  nans : Nat
  /-- [32] infinite results (03 R75); no such record at reset -/
  infs : Nat
  /-- [32] saturated results (03 R75); no such record at reset -/
  sats : Nat
  /-- [32] other events that the operator counts (03 R75); no such record at reset -/
  others : Nat
  deriving DecidableEq, Repr

/-- Exchange statistics of one expert layer (07 Table 7.6). -/
structure ExchStats where
  /-- [16] layer (07 Table 7.6); no such record at reset -/
  layer : Nat
  /-- [32] assignments made by this device's tokens (07 Table 7.6); no such record at reset -/
  routed : Nat
  /-- [32] assignments dropped by quota (07 Table 7.6); no such record at reset -/
  dropped : Nat
  /-- [32] assignments received into spill slots (07 Table 7.6); no such record at reset -/
  spilled : Nat
  /-- [32] rows dropped by a fixed window (07 Table 7.6); no such record at reset -/
  windowDropped : Nat
  /-- [32] stale rows and COUNTS discarded (07 Table 7.6); no such record at reset -/
  stale : Nat
  /-- [16] local experts without rows (07 Table 7.6); no such record at reset -/
  zeroExperts : Nat
  /-- [8] largest few-token exponent (07 Table 7.6); no such record at reset -/
  maxExponent : Nat
  /-- [8] rounds per micro-batch (07 Table 7.6); no such record at reset -/
  rounds : Nat
  /-- [32] micro-batches cancelled (07 Table 7.6); no such record at reset -/
  cancelled : Nat
  deriving DecidableEq, Repr

/-- Statistics of one step (08 Table 8.11, 04 Table 4.8, 07 Table 7.6). -/
structure StepStats where
  /-- [64] step (08 Table 8.11); no such record at reset -/
  step : Nat
  /-- [32] deferrals for staging (08 Table 8.11); no such record at reset -/
  deferredState : Nat
  /-- [32] deferrals for holders (08 Table 8.11); no such record at reset -/
  lateHolder : Nat
  /-- [32] parked state written to far memory (08 Table 8.11); no such record at reset -/
  parkedOverflow : Nat
  /-- [8] the step was skipped (08 Table 8.11); no such record at reset -/
  skipped : Bool
  /-- [8] loss_scale_exp (08 Table 8.11); no such record at reset -/
  sigma : Nat
  /-- [8] next_ls_exp (08 Table 8.11); no such record at reset -/
  nextLs : Nat
  /-- [32] grad_norm (08 Table 8.11); no such record at reset -/
  gradNorm : F32
  /-- [32] clip_factor (08 Table 8.11); no such record at reset -/
  clipFactor : F32
  /-- [32] gap records (08 Table 8.11); no such record at reset -/
  exportGaps : Nat
  /-- [32] version after the commit (08 Table 8.11); no such record at reset -/
  version : Nat
  /-- eyespot summaries (04 Table 4.8) (08 Table 8.11); no such record at reset -/
  eyes : List EyeSum
  /-- operator statistics (03 R75) (08 Table 8.11); no such record at reset -/
  ops : List OpStats
  /-- exchange statistics (07 Table 7.6) (08 Table 8.11); no such record at reset -/
  exch : List ExchStats
  deriving DecidableEq, Repr

def StepStats.init (step sigma version : Nat) : StepStats :=
  { step, deferredState := 0, lateHolder := 0, parkedOverflow := 0, skipped := false, sigma, nextLs := sigma,
    gradNorm := 0, clipFactor := 0x3F800000, exportGaps := 0, version, eyes := [], ops := [], exch := [] }

/-- Counters of one operator (14 Table 14.11 group 2). -/
structure OpCount where
  /-- [32] slices run (14 Table 14.11); no such record at reset -/
  slices : Nat
  /-- [32] carries (14 Table 14.11); no such record at reset -/
  carries : Nat
  /-- [32] tiles (14 Table 14.11); no such record at reset -/
  tiles : Nat
  deriving DecidableEq, Repr

/-- One operand of a reduction node: zero-contribution marker, few-token exponent, value (09 R290 to R292). -/
structure Operand where
  /-- [1] zero-contribution marker (09 R290 to R292); no such record at reset -/
  mark : Bool
  /-- [8] few-token exponent (09 R290 to R292); no such record at reset -/
  eps : Nat
  /-- value of the operand (09 R290 to R292); no such record at reset -/
  val : Val
  deriving DecidableEq, Repr

/-- One element of a reduction on this device (09 R289 to R294). -/
structure CElem where
  /-- this device's partial; none before its contribution -/
  cur : Option Operand
  /-- axes of R286 that are complete -/
  ax : Nat
  /-- operands that have been added on the running axis -/
  st : Nat
  /-- operands that have arrived and wait: axis position, stage (0x100 for the gather leg), operand -/
  got : List (Nat × Nat × Operand)
  deriving DecidableEq, Repr

/-- A CRC-64/ECMA-182 that stands until its comparison: of a sentinel tile, or of a duplicated update by one of its two engines (11 R355, R357). -/
structure CheckSum where
  /-- [1] of a tile, not of an update; no such record at reset -/
  tile : Bool
  /-- operator, or tensor; no such record at reset -/
  of : Nat
  /-- tile index, or first element; no such record at reset -/
  at_ : Nat
  /-- micro-batch of a tile; no such record at reset -/
  mb : Option Nat
  /-- [64] the CRC; no such record at reset -/
  crc : Nat
  /-- logical core, or update engine, that has formed it; no such record at reset -/
  by_ : Nat
  deriving DecidableEq, Repr

/-- A slice that has begun, with the results it will deliver (02 R42, R63; log 9). -/
inductive Effect where
  /-- bytes stored at a device address -/
  | mem (addr : Nat) (bytes : Bytes)
  /-- a transmission -/
  | send (x : Sent)
  /-- a tile's eyespot, for the summary (04 R132) -/
  | eye (op tile : Nat) (e : BitVec 32)
  /-- counts of a non-product operator: NaN, infinite, saturated, other (03 R75) -/
  | stats (op nans infs sats others : Nat)
  /-- sets the step's nonfinite flag (08 R253) -/
  | nonfinite
  | scales (core : Nat) (column : Bool) (vals : List F32)
  | codebook (core bank : Nat) (vals : List (BitVec 16))
  | table (core : Nat) (vals : List (BitVec 32))
  | part (p : Partial)
  | dropPart (p : Partial)
  /-- ROUTER's counts, distinct counts and selections (07 R208, 05 R164) -/
  | routed (layer mb : Nat) (counts distinct : List Nat) (sel : List (List (Nat × F32)))
  /-- own contribution of a collective, by element (09 R287) -/
  | contribution (op : Nat) (vals : List Operand)
  /-- weight-gradient accumulation of a tensor in a step (08 R251) -/
  | accum (step tensor : Nat) (vals : List F32)
  /-- an update range is done (08 R270) -/
  | updated (tensor e0 n : Nat)
  /-- state staged in the update cache (08 R263) -/
  | staged (r : Staged)
  | clip (norm cf : F32)
  /-- step counters: 0 deferred_state, 1 late_holder, 2 parked_overflow, 3 export_gaps -/
  | count (which : Nat)
  /-- a slice that must run again in the next beat (08 R263, R268) -/
  | defer (s : Slice)
  /-- a slice whose results are formed when it finishes: it waits for its inputs (07 R226) -/
  | late (s : Slice)
  /-- an export slice: its records are formed when it finishes (08 R282) -/
  | exportNow (w : Work)
  /-- a sum over a tile's outputs and eyespot, or over the words of a duplicated update, by who has formed it (11 R355, R357) -/
  | checkSum (c : CheckSum)
  /-- the check core's sum over its own copy of a tile, compared with the tile's (11 R355) -/
  | compareSum (c : CheckSum)
  deriving DecidableEq, Repr

/-- Soft-maximum statistics of one row from one shard of the vocabulary (05 R163). -/
structure LossPart where
  /-- [16] operator (05 R163); no such record at reset -/
  op : Nat
  /-- [32] low half of the step (05 R163); no such record at reset -/
  step : Nat
  /-- [16] micro-batch (05 R163); no such record at reset -/
  mb : Nat
  /-- [32] row (05 R163); no such record at reset -/
  row : Nat
  /-- [8] shard along T (05 R163); no such record at reset -/
  shard : Nat
  /-- [32] maximum (05 R163); no such record at reset -/
  max : F32
  /-- [32] sum of the exponentials (05 R163); no such record at reset -/
  sum : F32
  /-- [32] logit of the target, if this shard holds it (05 R163); no such record at reset -/
  z : Option F32
  deriving DecidableEq, Repr

/-- A row of q, or the column partial of a row block, sent by its owner (08 R259). -/
structure FactorPart where
  /-- [32] tensor (08 R259); no such record at reset -/
  tensor : Nat
  /-- [1] column partial of a row block, else a row of q (08 R259); no such record at reset -/
  block : Bool
  /-- [32] row or row block (08 R259); no such record at reset -/
  index : Nat
  /-- [32 each] values (08 R259); no such record at reset -/
  values : List F32
  deriving DecidableEq, Repr

structure RunSlice where
  /-- slice of the timetable (02 R42); no such record at reset -/
  slice : Slice
  /-- beat in which it belongs (02 R43) -/
  beat : Nat
  /-- step it serves -/
  step : Nat
  /-- [1] begun; a slice waits for a carried remainder of its resource, or for its next beat (02 R42, 08 R263) -/
  started : Bool
  /-- [1] carried into a later beat (02 R42) -/
  carried : Bool
  /-- results that it delivers when it ends (02 R42); no such record at reset -/
  effects : List Effect
  deriving DecidableEq, Repr

/-- An m-tile of a local expert in a round of an exchange (07 R225). -/
structure TileKey where
  /-- [16] layer (07 R225); no such record at reset -/
  layer : Nat
  /-- [16] micro-batch (07 R225); no such record at reset -/
  mb : Nat
  /-- [1] backward exchange (07 R228); no such record at reset -/
  backward : Bool
  /-- [8] round (07 R225); no such record at reset -/
  round : Nat
  /-- [16] local expert (07 R225); no such record at reset -/
  expert : Nat
  /-- [32] m-tile (07 R225); no such record at reset -/
  mTile : Nat
  deriving DecidableEq, Repr

/-- One item of the common work list (05 R139). -/
structure WorkItem where
  /-- [16] local expert (05 R139, R140); no such record at reset -/
  expert : Nat
  /-- [32] m-tile (05 R139, R140); no such record at reset -/
  mTile : Nat
  /-- [32] n-tile (05 R139, R140); no such record at reset -/
  nTile : Nat
  /-- [32] tile index (05 R139, R140); no such record at reset -/
  t : Nat
  /-- [1] claimable (05 R141) -/
  released : Bool
  /-- [1] the sentinel copy of a tile, for the other half of the partition (11 R354) -/
  check : Bool
  /-- 0 unclaimed, 1 unassigned in the unit of cluster `at_`, 2 in flight on core `at_`, 3 done by core `at_` (05 R140) -/
  phase : Nat
  /-- [8] cluster or core of the phase (05 R139, R140); no such record at reset -/
  at_ : Nat
  deriving DecidableEq, Repr

/-- The common work list of a slice window (05 R140). -/
structure WorkList where
  /-- [16] operator (05 R140); no such record at reset -/
  op : Nat
  /-- [16] micro-batch (05 R140); no such record at reset -/
  mb : Nat
  /-- [8] round (05 R140); no such record at reset -/
  round : Nat
  /-- [64] step (05 R140); no such record at reset -/
  step : Nat
  /-- rows per expert as cut (05 R520) -/
  rows : List Nat
  /-- items in the order of the claim counter -/
  items : List WorkItem
  /-- last item of each logical core as expert and n-tile (05 R140, R142) -/
  last : List (Nat × Nat × Nat)
  /-- last beat in which the window has slices (05 R144) -/
  lastBeat : Nat
  deriving DecidableEq, Repr

/-- The part of a flow that belongs to one round of an exchange (07 R218 to R221). -/
structure Flow where
  /-- [16] origin e (07 R218 to R221); no such record at reset -/
  origin : Nat
  /-- [16] destination e (07 R218 to R221); no such record at reset -/
  dest : Nat
  /-- [8] round (07 R218 to R221); no such record at reset -/
  round : Nat
  /-- first position of the flow in this round, and positions in it (07 R220) -/
  first : Nat
  /-- [32] positions in this round (07 R218 to R221); no such record at reset -/
  count : Nat
  /-- positions placed per beat of the window, and those left over (07 R221) -/
  place : List Nat
  /-- [32] positions that the window could not place (07 R218 to R221); no such record at reset -/
  unplaced : Nat
  deriving DecidableEq, Repr

/-- A token row in the receive buffer (07 R224). -/
structure RecvRow where
  /-- [16] origin e (07 R224); no such record at reset -/
  origin : Nat
  /-- [8] round (07 R224); no such record at reset -/
  round : Nat
  /-- buffer position -/
  pos : Nat
  /-- [1] backward exchange (07 R224); no such record at reset -/
  backward : Bool
  /-- tag, FP32 values and data -/
  bytes : Bytes
  deriving DecidableEq, Repr

/-- The exchange of one layer and micro-batch (07 R208 to R226). -/
structure Exchange where
  /-- [64] step (07 R208 to R226); no such record at reset -/
  step : Nat
  /-- [16] layer (07 R208 to R226); no such record at reset -/
  layer : Nat
  /-- [16] micro-batch (07 R208 to R226); no such record at reset -/
  mb : Nat
  /-- this device's tokens as (expert, gate) in ascending expert (05 R164) -/
  sel : List (List (Nat × F32))
  /-- count matrix rows received, by origin e: counts per expert and distinct counts per device (07 R208, R212) -/
  matrix : List (Nat × List Nat × List Nat)
  /-- [1] allocation done, forward and backward (07 R211, R228) -/
  allocated : Bool
  /-- [1] backward allocation done (07 R208 to R226); no such record at reset -/
  backAllocated : Bool
  /-- effective capacity per expert (07 R214) -/
  cap : List Nat
  /-- quotas per expert, by origin (07 R215) -/
  quota : List (List Nat)
  /-- experts that each own token keeps (07 R216) -/
  kept : List (List Nat)
  /-- flows of all rounds (07 R208 to R226); no such record at reset -/
  flows : List Flow
  /-- release beat per flow origin of this device (07 R225) -/
  release : List (Nat × Nat)
  /-- rows in the receive buffer (07 R208 to R226); no such record at reset -/
  received : List RecvRow
  /-- rows per local expert of each round (07 R225, R231) -/
  roundRows : List (Nat × List Nat)
  /-- partials returned to this origin: sender e, backward, row (07 R226) -/
  returned : List (Nat × Bool × Bytes)
  deriving DecidableEq, Repr

/-- The state of a collective on this device (09 R289 to R299). -/
structure Collective where
  /-- index of its REDUCE descriptor, 0x10000 for the norm (08 R262), 0x10001 + layer for loads (07 R206) -/
  op : Nat
  /-- its elements in row-major order of the contribution -/
  elems : List CElem
  deriving DecidableEq, Repr

/-- A micro-batch that still reads a bank of a weight shard (08 R267). -/
structure Holder where
  /-- [32] tensor (08 R267); no such record at reset -/
  tensor : Nat
  /-- [1] bank read (08 R267); no such record at reset -/
  bank : Nat
  /-- [64] step (08 R267); no such record at reset -/
  step : Nat
  /-- [16] micro-batch (08 R267); no such record at reset -/
  mb : Nat
  deriving DecidableEq, Repr

/-- A SNAP.EXPORT in flight on this device (13 R432, 08 R282 to R285). -/
structure ExportInfo where
  /-- [32] request number (13 R432); no such record at reset -/
  req : Nat
  /-- [64] host address of the area (13 R432); no such record at reset -/
  addr : Nat
  /-- [64] bytes of the area (13 R432); no such record at reset -/
  len : Nat
  /-- 0 the stream of `export_mode` 1, 1 one set of shards (13 R432) -/
  what : Nat
  /-- records of the step under way: 0 none, 1 DIFF, 2 BASE, 3 SHARD -/
  mode : Nat
  /-- step under way -/
  step : Nat
  /-- its records so far, for STEP_END -/
  log : Bytes
  /-- bytes written from this origin -/
  written : Nat
  /-- [1] bank that was current when the step's records began (08 R284) -/
  bank : Nat
  /-- [1] a GAP record has been sent since the last STEP_END (08 R284) -/
  gapSent : Bool
  deriving DecidableEq, Repr

/-- A level-1 image of the partner coordinate, as it arrives here (11 R364, R369). -/
structure PartnerImage where
  /-- [64] step of the chrysalis (11 R364, R369); no such record at reset -/
  step : Nat
  /-- [8] level-1 slot (11 R364, R369); no such record at reset -/
  slot : Nat
  /-- bytes at image offsets (11 R364, R369); no such record at reset -/
  image : Memory
  /-- [1] all chunks have come (11 R364, R369); no such record at reset -/
  complete : Bool
  deriving DecidableEq, Repr

/-- A commit under way or in its quiet window (08 R271 to R273). -/
structure CommitInfo where
  /-- commit beat C -/
  beat : Nat
  /-- [64] step that commits (08 R271 to R273); no such record at reset -/
  step : Nat
  /-- [1] the commit is a plan switch (08 R271 to R273); no such record at reset -/
  planSwitch : Bool
  /-- [1] the step is skipped (08 R271 to R273); no such record at reset -/
  skip : Bool
  /-- [8] ls_exp after it (08 R271 to R273); no such record at reset -/
  lsExp : Nat
  /-- committed values before the commit, restored when it is reversed (08 R273) -/
  prev : Committed
  /-- holding buffer of the step, kept until C + Q (08 R272) -/
  prevHolding : List Shard
  /-- plan in force before a plan switch -/
  prevPlan : Option Plan
  /-- [32] plan version before (08 R271 to R273); no such record at reset -/
  prevVersion : Nat
  /-- operators before (08 R271 to R273); no such record at reset -/
  prevOps : List OpD
  /-- header before (08 R271 to R273); no such record at reset -/
  prevHdr : JobHdr
  /-- far area before (08 R271 to R273); no such record at reset -/
  prevArea : Option (Nat × Nat)
  /-- axes before (08 R271 to R273); no such record at reset -/
  prevAxes : List Nat
  /-- [8] level-1 slots before (08 R271 to R273); no such record at reset -/
  prevL1 : Nat
  /-- cut lengths, own coordinate, slabs and warm slabs before a plan switch -/
  prevLengths : Coord
  /-- [4 × 8] own coordinate before (08 R271 to R273); no such record at reset -/
  prevCoord : Coord
  /-- slabs before (08 R271 to R273); no such record at reset -/
  prevSlabs : List Nat
  /-- [8] warm slabs before (08 R271 to R273); no such record at reset -/
  prevWarm : Nat
  /-- clip factor, norm, total of the squares, loads, sigma, attempt and abandonments of the step, for a reversal -/
  prevClip : F32
  /-- [32] norm before (08 R271 to R273); no such record at reset -/
  prevNorm : F32
  /-- [32] total of the squares before (08 R271 to R273); no such record at reset -/
  prevTotal : Option F32
  /-- [32 each] loads before (08 R271 to R273); no such record at reset -/
  prevLoads : List (Nat × List Nat)
  /-- [1] whether this device was no member before (08 R279); no such record at reset -/
  prevGone : Bool
  /-- router biases before the commit before it (08 R273, R283); no such record at reset -/
  prevOldBiases : List (Nat × List F32)
  /-- [8] sigma before (08 R271 to R273); no such record at reset -/
  prevSigma : Nat
  /-- [8] ls_exp after the commit before the last one, before (08 R254, R273); no such record at reset -/
  prevLs : Nat
  /-- [1] clip factor known before (08 R262, R273); no such record at reset -/
  prevClipKnown : Bool
  /-- [8] attempt before (08 R271 to R273); no such record at reset -/
  prevAttempt : Nat
  /-- [8] abandonments before (08 R271 to R273); no such record at reset -/
  prevAbandoned : Nat
  /-- [1] effects applied -/
  applied : Bool
  deriving DecidableEq, Repr

/-- A run in progress (13 R430). -/
structure RunInfo where
  /-- [32] request number (13 R430); no such record at reset -/
  req : Nat
  /-- number of the last step to run, none until stopped (13 R430) -/
  last : Option Nat
  /-- [64] last step committed (13 R430); no such record at reset -/
  lastCommitted : Nat
  /-- [64] beat at which that commit became irrevocable (13 R430); no such record at reset -/
  irrevocableBeat : Nat
  deriving DecidableEq, Repr

/-- A chrysalis of the job as this device holds it (11 R363 to R375). -/
structure Chrysalis where
  /-- the step record's fields (11 Table 11.8) -/
  record : Committed
  /-- [128] seed (11 Tables 11.7 and 11.8); no such record at reset -/
  seed : Bytes
  /-- [32] plan version (11 Tables 11.7 and 11.8); no such record at reset -/
  planVersion : Nat
  /-- [512] plan digest (11 Tables 11.7 and 11.8); no such record at reset -/
  planDigest : Bytes
  /-- [8] D_job (11 Tables 11.7 and 11.8); no such record at reset -/
  dLen : Nat
  /-- [64] first beat of the stop (11 Tables 11.7 and 11.8); no such record at reset -/
  stopBeat : Nat
  /-- [64] bytes of state (11 Tables 11.7 and 11.8); no such record at reset -/
  stateBytes : Nat
  /-- cursors by logical d: position, retired (11 R373, R374) -/
  cursors : List (Nat × Bool)
  /-- image of the current banks: allocation-relative memory cells (11 R372) -/
  image : Memory
  /-- [1] held at level 0 (11 Tables 11.7 and 11.8); no such record at reset -/
  level0 : Bool
  /-- [1] held at level 1 (11 Tables 11.7 and 11.8); no such record at reset -/
  level1 : Bool
  /-- [1] held at level 2 (11 Tables 11.7 and 11.8); no such record at reset -/
  level2 : Bool
  /-- [1] held at level 3 (11 Tables 11.7 and 11.8); no such record at reset -/
  level3 : Bool
  /-- [8] level-1 slot (11 Tables 11.7 and 11.8); no such record at reset -/
  l1Slot : Nat
  deriving DecidableEq, Repr

/-- The job's shape before a device loss, in which its images lie (11 R380, R381). -/
structure LossInfo where
  /-- [4 × 8] cut lengths (11 R380, R381); no such record at reset -/
  lengths : Coord
  /-- [4 × 8] own coordinate (11 R380, R381); no such record at reset -/
  coord : Coord
  /-- slabs (11 R380, R381); no such record at reset -/
  slabs : List Nat
  /-- axes of the cuts (11 R380, R381); no such record at reset -/
  axes : List Nat
  /-- [64] first bytes of the description's digest (11 R380, R381); no such record at reset -/
  digest : Bytes
  /-- [1] whether this device was no member (11 R380); no such record at reset -/
  gone : Bool
  deriving DecidableEq, Repr

/-- The stage of a recovery (11 R349, R381). -/
inductive Recovery where
  | none
  /-- waiting for the replay vote's result (08 R275) -/
  | voting
  /-- waiting for recompilation and verification: 0 a restore follows, 1 or 2 that kind of replay (11 R381, 10 R322) -/
  | recompile (kind : Nat)
  /-- waiting for restore copies and transfers (11 R381) -/
  | transfers
  /-- waiting for a module at the lost coordinate (11 R380) -/
  | waitModule
  deriving DecidableEq, Repr

/-- A loaded job (13 R426 and the chapters it names). -/
structure Job where
  /-- header in force (13 Table 13.8) (13 R426); no such record at reset -/
  hdr : JobHdr
  /-- the description as loaded (13 R426) -/
  desc : Bytes
  /-- first 8 bytes of its SHA-512 (13 R427) -/
  digest8 : Bytes
  /-- logical coordinate of this device in the job (00 R6), lengths of the cuts (00 R5) -/
  coord : Coord
  /-- [4 × 8] lengths of the cuts (00 R5) (13 R426); no such record at reset -/
  lengths : Coord
  /-- physical axis code per logical cut (10 R334) -/
  axes : List Nat
  /-- physical index along the D cut of each logical d index (11 R360, R380) -/
  slabs : List Nat
  /-- operators, parameter table and exchange table as compiled (13 R426) -/
  ops : List OpD
  /-- parameter table (08 Table 8.1) (13 R426); no such record at reset -/
  params : List ParamEntry
  /-- exchange table with effective values (07 Table 7.1) (13 R426); no such record at reset -/
  exch : List ExchEntry
  /-- [16 each] layers per P stage (07 R238) (13 R426); no such record at reset -/
  stages : List Nat
  /-- plan in force and its version; 0 before the first (02 R49) -/
  plan : Option Plan
  /-- [32] version of the plan in force, 0 before the first (02 R49) (13 R426); no such record at reset -/
  planVersion : Nat
  /-- far memory that the plan reserves: address and bytes; holding buffer, parking, staging and partner areas in this order
  (08 R252, R264, 11 R363; log 53) -/
  planArea : Option (Nat × Nat)
  /-- [1] current plan version verified (02 R48) -/
  verified : Bool
  /-- [1] the next compilation assigns cuts to axes: ranked by R336, or the default map; none: the axes in force stay (10 R336); reset none -/
  ranked : Option Bool
  /-- newest compiled plan that waits for verification or for the switch, its version, verified (02 R49) -/
  next : Option (Plan × Nat × Bool)
  /-- operators and header that the newest JOB.PLAN read, until its plan comes into force (13 R426); reset none -/
  nextOps : Option (List OpD × JobHdr)
  /-- request of a JOB.LOAD that waits for far memory (06 R190) -/
  loading : Option Nat
  /-- a compilation runs, with the request it answers, and the version it makes (02 R46) -/
  compiling : Option (Option Nat × Nat)
  /-- requests that complete at the plan switch (08 R278, 13 R438) -/
  atSwitch : List Nat
  /-- lengths and warm slabs asked for by RESHARD or RESIZE, and W in force (13 R427) -/
  newLengths : Option Coord
  /-- [8] warm slabs asked for by RESIZE (13 R427) (13 R426); no such record at reset -/
  newWarm : Option Nat
  /-- [8] warm slabs in force (11 R360) (13 R426); no such record at reset -/
  warm : Nat
  /-- level-1 slots in force, 0xFF when level 1 does not exist (11 R369) -/
  l1Slots : Nat
  /-- the policy as asked for; JOB.PLAN brings its first four fields into force (11 R362) -/
  policyWanted : Policy
  /-- verification under way: its request (02 R47); reset none -/
  verifying : Option Nat
  /-- version and reference digest of a PLAN message that came before that version was compiled here (02 R47); reset none -/
  refPlan : Option (Nat × Bytes)
  /-- committed scalars (08 R265) (13 R426); no such record at reset -/
  committed : Committed
  /-- real beat of plan beat 0 of step `runStep`, its anchor (02 R50) -/
  anchor : Option Int
  /-- [64] the step that the anchor belongs to (02 R50) -/
  runStep : Nat
  /-- real beat of plan beat 0 of the reserved slots, which hold and stops do not shift (02 R51, R52; log 49) -/
  slotBase : Int
  /-- STEP.RUN under way (13 R430) (13 R426); no such record at reset -/
  run : Option RunInfo
  /-- [8] attempt number of the running step (09 R302); reset 0 -/
  attempt : Nat
  /-- abandonments of the running step since the last restore (11 R350) -/
  abandoned : Nat
  /-- reason codes of those abandonments, newest first (11 R350) (13 R426); no such record at reset -/
  causes : List Nat
  /-- [1] a restore caused by replay_limit has happened for this step (11 R350) -/
  restoredOnce : Bool
  /-- [1] stopped (11 R350) -/
  stopped : Bool
  /-- [16 per micro-batch] epochs (07 R234); reset 0 -/
  epochs : List Nat
  /-- micro-batches cancelled in this step and cancels that wait: micro-batch, effective beat, request (07 R236) -/
  cancelled : List Nat
  /-- cancels that wait: micro-batch, effective beat, request (07 R236) (13 R426); no such record at reset -/
  cancels : List (Nat × Nat × Nat)
  /-- beat at which hold began (02 R51); reset none -/
  hold : Option Nat
  /-- hold beats in all, telemetry (14 Table 14.11) -/
  holdBeats : Nat
  /-- commit under way or in its quiet window (08 R271) (13 R426); no such record at reset -/
  commit : Option CommitInfo
  /-- votes received by barrier identifier: identifier, votes with the voters' origins (09 R304, R305) -/
  votes : List (Nat × List (Coord × Nat))
  /-- own vote sent for the running step (08 R270) -/
  voted : Bool
  /-- planned barriers whose result has come (09 R305) -/
  barriersDone : List Nat
  /-- stage of the recovery (11 R349) (13 R426); no such record at reset -/
  recovery : Recovery
  /-- announced replay: kind 1 update-only, 2 full, and its anchor beat (08 R275, R276) -/
  replay : Option (Nat × Nat)
  /-- [1] an update-only replay runs: slices before u0 are omitted (08 R276) -/
  updateOnly : Bool
  /-- a fault of the running step lies in committed state or in a holding buffer (06 R199, 08 R275) -/
  committedHit : Bool
  /-- [1] a fault of the running step lies in a holding buffer (08 R275) (13 R426); no such record at reset -/
  holdingHit : Bool
  /-- [1] a sentinel or duplicate mismatch abandoned the step (11 R356, R357) (13 R426); no such record at reset -/
  sentinelHit : Bool
  /-- sums of sentinel tiles and duplicated updates of the step (11 R355, R357) (13 R426); no such record at reset -/
  checks : List CheckSum
  /-- [1] cores or engines run self-test before the replay (11 R356, R357) -/
  testing : Bool
  /-- gradient holding buffer (08 R252) and ABORT origin of the abandonment -/
  holding : List Shard
  /-- FP32 accumulations of weight gradients by step and tensor (07 R231, 08 R251) -/
  accums : List (Nat × Nat × List F32)
  /-- collectives under way (09 R289) (13 R426); no such record at reset -/
  collectives : List Collective
  /-- [1] nonfinite flags of the running step and of the next one (08 R253) -/
  nonfinite : Bool
  /-- [1] nonfinite flag of the next step (08 R253) (13 R426); no such record at reset -/
  nextNonfinite : Bool
  /-- sigma of the running step (08 R254) -/
  sigma : Nat
  /-- [8] ls_exp after the commit before the last one, for `scale_lag` 1 (08 R254); loss_scale_init at JOB.LOAD -/
  lsBefore : Nat
  /-- [64] origin beat of the ABORT that abandoned the running step (08 R275); none before the first -/
  abortOrigin : Option Nat
  /-- update ranges done in this step: tensor, first element, elements (08 R270) -/
  updated : List (Nat × Nat × Nat)
  /-- state in the update cache (08 R263); none at JOB.LOAD -/
  staged : List Staged
  /-- state in the parking area (08 R264); none at JOB.LOAD -/
  parked : List Parked
  /-- holder counts, one entry per holder (08 R267) -/
  holders : List Holder
  /-- step, micro-batch, its version tag and that version's bank (08 R266) -/
  tags : List (Nat × Nat × Nat × Nat)
  /-- [32] clip factor of the step (08 R262) (13 R426); no such record at reset -/
  clipFactor : F32
  /-- [1] the clip factor of the step is known (08 R262); 0 at JOB.LOAD -/
  clipKnown : Bool
  /-- [32] norm of the step (08 R262) (13 R426); no such record at reset -/
  gradNorm : F32
  /-- expert loads of the step by layer (07 R206) -/
  loads : List (Nat × List Nat)
  /-- exchanges under way (07 R208) (13 R426); no such record at reset -/
  exchanges : List Exchange
  /-- arrivals: item, the step it serves, the beat of its stamp (02 R60, R61) -/
  arrivals : List (Item × Nat × Nat)
  /-- soft-maximum statistics received from the other shards of the T axis (05 R163) -/
  lossParts : List LossPart
  /-- rows of q and column partials received for the factored family (08 R259) -/
  factor : List FactorPart
  /-- total of the squares, reduced over the job (08 R262); reset none -/
  normTotal : Option F32
  /-- common work lists (05 R140) (13 R426); no such record at reset -/
  workLists : List WorkList
  /-- m-tiles released in the exchanges under way (05 R141, 07 R225) -/
  released : List TileKey
  /-- slice windows whose items are all done: operator, micro-batch, round, step (05 R140, 07 R226) -/
  windowsDone : List (Nat × Nat × Nat × Nat)
  /-- slices begun and not finished (02 R42) (13 R426); no such record at reset -/
  running : List RunSlice
  /-- statistics of the running step, of the next one, and of the 64 newest committed steps, newest first (13 R430) -/
  stats : StepStats
  /-- statistics of the next step (13 R426); no such record at reset -/
  nextStats : StepStats
  /-- statistics of the 64 newest committed steps (13 R430) (13 R426); no such record at reset -/
  history : List StepStats
  /-- per-operator counters in descriptor order: running, at the last commit, at the one before (14 Table 14.11) -/
  counts : List OpCount
  /-- counters at the last commit (14 Table 14.11) (13 R426); no such record at reset -/
  countsDone : List OpCount
  /-- counters at the commit before it (13 R426); no such record at reset -/
  countsBefore : List OpCount
  /-- last step counted, none before the first commit (14 Table 14.11) -/
  countedStep : Option Nat
  /-- chrysalises held, newest first (11 R375) -/
  chrysalises : List Chrysalis
  /-- a stop is asked for: request of SNAP.TAKE, or none for an interval or recovery stop (11 R367) -/
  stopWanted : Option (Option Nat)
  /-- beat from which it may begin, none until a commit fixes it (11 R365, R367) -/
  stopFrom : Option Nat
  /-- level-0 stops sealed so far, for `l2_every` (11 R370) -/
  taken : Nat
  /-- beat at which the running stop ends (11 R365); reset none -/
  stopEnd : Option Nat
  /-- beat of the end of the last stop (11 R367) -/
  lastStop : Nat
  /-- level-1 and level-2 copies under way (11 R369, R370) -/
  l1Busy : Bool
  /-- [1] a level-2 copy runs (11 R370) (13 R426); no such record at reset -/
  l2Busy : Bool
  /-- STEP.ABORT commands that wait until the ABORT has reached every device: request, origin beat, step (13 R430) -/
  aborting : List (Nat × Nat × Nat)
  /-- a policy that waits for the next commit, with its request (11 R362) -/
  policyNext : Option (Policy × Option Nat)
  /-- a restore under way: request, chrysalis index, levels used (11 R378) -/
  restoring : Option (Option Nat × Nat × Nat)
  /-- shape before the loss that is being recovered from; reset none -/
  loss : Option LossInfo
  /-- [1] images have yet to be sent to the devices that take over coordinates (11 R381) -/
  transfersDue : Bool
  /-- export under way (13 R432) -/
  exporting : Option ExportInfo
  /-- [64] last step whose STEP_END was written, none before the first (13 R432) -/
  lastEnd : Option Nat
  /-- level-1 images of the partner coordinate (11 R364) -/
  partner : List PartnerImage
  /-- export must resume with BASE records (08 R284) -/
  exportGap : Bool
  /-- [64] beat at which the newest export interval began (08 R285, 11 R371); the beat of JOB.LOAD -/
  lastExport : Nat
  /-- router biases before the last commit, for their differences (08 R283) -/
  prevBiases : List (Nat × List F32)
  /-- [1] a module drain or join makes the next plan switch change owners (08 R279) -/
  ownersChange : Bool
  /-- moved state that came before its plan was in force here: tensor, kind, row, data (08 R279; log 60); none at JOB.LOAD -/
  early : List (Nat × Nat × Nat × Bytes)
  /-- physical coordinates of modules whose function has left this job by its reset (14 R445) (13 R426); no such record at reset -/
  lost : List Coord
  /-- serials of devices that have left (11 R358) -/
  left : List Nat
  /-- [1] this device has left the job (11 R358) -/
  gone : Bool
  deriving DecidableEq, Repr

/-! ### Functions -/

/-- A molt in progress (15 R485). -/
structure MoltInfo where
  /-- [64] beat at which it began (15 R485); no such record at reset -/
  start : Nat
  /-- bound in beats: first beat boundary at or after 2.5 s -/
  ends : Nat
  /-- [32] request that it answers (15 R485); no such record at reset -/
  req : Option Nat
  /-- 0 FN.MOLT, 1 FN.RESET with molt, 2 device reset -/
  cause : Nat
  deriving DecidableEq, Repr

/-- A per-function reset in progress (14 R443, R447). -/
structure ResetInfo where
  /-- [64] beat of its bound (14 R443); no such record at reset -/
  ends : Nat
  /-- [32] request that it answers (14 R443); no such record at reset -/
  req : Option Nat
  /-- [1] a molt is part of it (14 R443); no such record at reset -/
  molt : Bool
  deriving DecidableEq, Repr

/-- The inputs of a compilation (02 Table 2.5). -/
structure CompileInputs where
  /-- the job description (02 Table 2.5); no such record at reset -/
  desc : Bytes
  /-- operators as read for the compilation (02 Table 2.5); no such record at reset -/
  ops : List OpD
  /-- header and policy in force (02 Table 2.5); no such record at reset -/
  hdr : JobHdr
  /-- [4 × 8] this device's physical coordinate (02 Table 2.5); no such record at reset -/
  coord : Coord
  /-- [4 × 8] cut lengths asked for (02 Table 2.5); no such record at reset -/
  lengths : Coord
  /-- physical index along the D cut of each logical d index (02 Table 2.5); no such record at reset -/
  slabs : List Nat
  /-- physical axis code per logical cut in force (02 Table 2.5); no such record at reset -/
  axes : List Nat
  /-- how cuts are to be assigned to axes (10 R336); no such record at reset -/
  ranked : Option Bool
  /-- the system map (02 Table 2.5); no such record at reset -/
  map : Option SysMap
  /-- gap of this device's ring per physical axis (02 Table 2.5); no such record at reset -/
  lines : List (Option Nat)
  /-- [8 each] latency class of each port (02 Table 2.5); no such record at reset -/
  lambdas : List Nat
  /-- [32] base period in ns (02 Table 2.5); no such record at reset -/
  period : Nat
  /-- [32] compiler version, that of the firmware image (02 Table 2.5); no such record at reset -/
  compiler : Option Nat
  deriving DecidableEq, Repr

/-- One compute function F1 to F4 (14 R439). -/
structure FnSt where
  /-- [128] tenant, empty when none is assigned (13 R423); reset none -/
  tenant : Bytes
  /-- [128] last tenant, kept in package flash (14 Table 14.4); DESIGN CHOICE none (log 7) -/
  lastTenant : Bytes
  /-- [1] a molt has run since the last tenant (15 R484); DESIGN CHOICE 1 (log 7) -/
  molted : Bool
  /-- [1] confidential mode (15 R476); reset 0 -/
  confidential : Bool
  /-- [1] off after a failed molt (15 R486); reset 0 -/
  failed : Bool
  /-- molt in progress (15 R485); reset none -/
  molt : Option MoltInfo
  /-- reset in progress (14 R443); reset none -/
  reset : Option ResetInfo
  /-- allocations (06 R175); reset none -/
  near : List Alloc
  /-- far-memory allocations (06 R175); reset none -/
  far : List Alloc
  /-- [128] far-memory hash key (06 R180); reset none -/
  hashKey : Option (BitVec 128)
  /-- level-2 key in protected flash: nonce, key wrapped under K_store, tag; none without a key (15 R480); DESIGN CHOICE none (log 7) -/
  l2Key : Option Bytes
  /-- level-2 images on the drives of this function, each as it is stored, newest first (11 R370, 15 R481); reset none -/
  drives : List Bytes
  /-- job loaded (13 R426); reset none -/
  job : Option Job
  /-- model's own: inputs and plans of the compilations so far, which equal inputs give again (02 R46, log 3); reset none -/
  compiled : List (CompileInputs × Plan)
  deriving DecidableEq, Repr

def FnSt.init : FnSt :=
  { tenant := [], lastTenant := [], molted := true, confidential := false, failed := false, molt := none,
    reset := none, near := [], far := [], hashKey := none, l2Key := none, drives := [], job := none, compiled := [] }

/-- Resets of F5 to F8 and the F8 environment (14 R447, 13 R437). -/
structure Env where
  /-- [1] an environment runs (13 R437); reset 0 -/
  running : Bool
  /-- [1] HOST.ENV_START accepted, boot not signalled (13 R436); reset 0 -/
  booting : Bool
  /-- [3] env_func (13 R436); reset 0 -/
  func : Nat
  /-- [6] cores requested (13 R436); reset 0 -/
  cores : Nat
  /-- near-memory range (13 R437); reset 0 -/
  addr : Nat
  /-- [64] bytes of that range (13 R437); reset 0 -/
  size : Nat
  /-- beat at which the grace time ends (13 R436); reset none -/
  graceEnd : Option Nat
  /-- request of a pending ENV_START or ENV_STOP; reset none -/
  req : Option Nat
  /-- watchdog period in ms, 0 off (14 R449); reset 0 -/
  watchdogMs : Nat
  /-- resets of F5 to F8 in progress: function, bound, request (14 R447); reset none -/
  resets : List (Nat × ResetInfo)
  deriving DecidableEq, Repr

/-! ### Power, boot, face, security transport -/

/-- Sums of the power samples of one second of the system time base (15 Table 15.5). -/
structure SecSum where
  /-- number of the second -/
  second : Nat
  /-- [16] samples (15 Table 15.5); reset 0 -/
  samples : Nat
  /-- [32] sum of the power readings in W (15 Table 15.5); reset 0 -/
  watts : Nat
  /-- [32] sum of the matrix clock in MHz (15 Table 15.5); reset 0 -/
  clock : Nat
  /-- [32] sum of the clock floor in MHz (15 Table 15.5); reset 0 -/
  floor : Nat
  deriving DecidableEq, Repr

/-- Power, thermal and boot state (14 R450 to R458, 16 R502 to R504). -/
structure Power where
  /-- [4] DEV_STATUS state (12 Table 12.2); reset 0 booting -/
  state : Nat
  /-- [4] boot_stage (12 Table 12.2); reset 1 -/
  stage : Nat
  /-- [64] beat by which READY is reached or the reset ends (12 R399); reset 7,500,000 (60 s at 8 µs) -/
  readyBy : Nat
  /-- [1] 54 V input present and always-on domain running (14 R457, 16 R502); reset 1 -/
  input : Bool
  /-- standby cause 0 to 3 (16 Table 16.5), none out of standby (14 R456); reset none -/
  standby : Option Nat
  /-- [1] MOD_RST_N held low (16 R493); reset 0 -/
  rstHeld : Bool
  /-- [1] self-test left something without a repair (14 R458); reset 0 -/
  unrepaired : Bool
  /-- [1] own leak sense drives LEAK_N low (16 R496); reset 0 -/
  leakDrive : Bool
  /-- [4] SLOT_ID read in stage 1 (16 R492); DESIGN CHOICE 0 (log 7) -/
  slotId : Nat
  /-- [97] power domains on, numbers 0 to 95 (14 Table 14.7); reset all off but 93 at stage 4 -/
  domains : List Nat
  /-- [16] matrix clock in MHz (14 R452); DESIGN CHOICE 1900 (log 18) -/
  clock : Nat
  /-- consecutive samples above 1,380 W at the floor (14 R454); reset 0 -/
  hotSamples : Nat
  /-- [1] the hardware limiter stands in for CP3 (14 R455); reset 0 -/
  limiter : Bool
  /-- last power reading; DESIGN CHOICE zeros (log 18) -/
  reading : PowerReading
  /-- highest 1 ms mean since the last read (14 Table 14.11); reset 0 -/
  peakW : Nat
  /-- sums of the running second and of the last whole one (15 Table 15.5); reset zeros -/
  second : SecSum
  /-- sums of the last whole second (15 Table 15.5); reset zeros -/
  lastSecond : SecSum
  /-- module-wide telemetry records 0, 1, 3, 4, 5, 6 published before a molt, empty without one (15 R487); reset empty -/
  frozen : List (Nat × Bytes)
  /-- carries (5), hold beats and stretch requests at the last commit, and in the last step (15 Table 15.5); reset 0 -/
  stepMarks : List Nat
  /-- [32 × 7] the same in the last step (15 Table 15.5); reset 0 -/
  stepTotals : List Nat
  /-- throttle reasons [3:0] (14 Table 14.11); reset 0 -/
  throttle : Nat
  /-- latest temperatures by sensor number of THERMAL_WARNING, and drives 22, 23, outlet 24; DESIGN CHOICE 0 (log 18) -/
  temps : List (Nat × Int)
  /-- [1] a stretch has been requested for a thermal or far-memory reason (06 R188, 14 Table 14.8); reset 0 -/
  stretchAsked : Bool
  /-- control processors in reset (01 R22); reset none -/
  cpReset : List Nat
  /-- [32] stretch requests sent (14 Table 14.11); reset 0 -/
  requests : Nat
  /-- [32 × 5] carries of cores, move engines, ports, hub engines, far memory (14 Table 14.11); reset 0 -/
  carries : List Nat
  /-- [32 × 7] corrected errors per row of Table 6.6 (06 R196); reset 0 -/
  corrected : List Nat
  /-- [32] uncorrectable, residue, sentinel, duplicate mismatches, rows listed, transient marks (14 Table 14.11); reset 0 -/
  errors : List Nat
  /-- request of a running DEV.SELFTEST and its scope (13 R421); reset none -/
  selftest : Option (Nat × Nat)
  /-- [1] a device reset waits for a molt's end (14 Table 14.13); reset 0 -/
  resetWaits : Bool
  deriving DecidableEq, Repr

/-- The service face, alert causes and I3C (16 R493 to R512). -/
structure Face where
  /-- [1] locate on (16 R509); reset 0 -/
  locate : Bool
  /-- locate timeout in s, none when none is pending (16 R509); reset none -/
  locateTimeout : Option Nat
  /-- always-on time in ms of the last toggle (16 R509); reset none -/
  lastToggle : Option Nat
  /-- [1] service needed shown (13 Table 13.15); reset 0 -/
  service : Bool
  /-- [64] system time in ns at which a slice of any function last began (16 Table 16.12); reset none -/
  lastActive : Option Nat
  /-- [1] refused-removal pattern shown (16 R507); reset 0 -/
  refusal : Bool
  /-- [32] alert cause register (16 Table 16.5); reset 0 -/
  alerts : BitVec 32
  /-- [32] causes held back during a molt (16 R494); reset 0 -/
  heldAlerts : BitVec 32
  /-- [7] I3C dynamic address, none before assignment (16 R498); reset none -/
  i3cAddr : Option Nat
  /-- [8] I3C selector (16 R499); DESIGN CHOICE 0 (log 19) -/
  selector : Nat
  /-- model's own: in-band interrupts raised, by mandatory data byte (16 R498, log 13); reset empty -/
  ibis : List Nat
  /-- model's own: private reads answered: status byte and record (16 R499, log 13); reset empty -/
  i3cOut : List Bytes
  deriving DecidableEq, Repr

/-- One SPDM connection (15 R471). -/
structure SpdmConn where
  /-- [8] connection (15 R471); no such record at reset -/
  conn : Nat
  /-- session: identifier and handshake finished (15 R471); reset none -/
  session : Option (Nat × Bool)
  /-- request deferred by ResponseNotReady (15 R473); reset none -/
  deferred : Option Bytes
  deriving DecidableEq, Repr

/-- SPDM and keys of the security processor (15 R463 to R483). -/
structure Security where
  /-- open connections (15 R471); reset none -/
  conns : List SpdmConn
  /-- next session number (15 R471); DESIGN CHOICE 1 (log 20) -/
  nextSession : Nat
  /-- next level-2 key generation (15 R480); DESIGN CHOICE 1 (log 20) -/
  nextKey : Nat
  /-- model's own: SPDM responses: connection and message (log 13); reset empty -/
  spdmOut : List (Nat × Bytes)
  deriving DecidableEq, Repr

/-- The whole machine. -/
structure State where
  /-- commands waiting, first in first out (model's own, log 2); reset empty -/
  pending : List Instr
  /-- the mailbox (12); reset as its fields say -/
  mbx : Mailbox
  /-- identity, flash, firmware (01 R8, 15); reset as its fields say -/
  flash : Flash
  /-- the beat engine (02); reset as its fields say -/
  eng : BeatEngine
  /-- ports and fabric (10); reset as its fields say -/
  fab : Fabric
  /-- memories and cores (03, 04, 06); reset as its fields say -/
  st : Stores
  /-- F1 to F4 (14 R439) -/
  fns : List FnSt
  /-- the host environment and F5 to F8 (14 R447); reset as its fields say -/
  env : Env
  /-- power, thermal and boot state (14); reset as its fields say -/
  pow : Power
  /-- the service face (16); reset as its fields say -/
  face : Face
  /-- security transport (15 R471); reset as its fields say -/
  sec : Security
  /-- model's own: how many free values have been drawn (log 8); DESIGN CHOICE 0 -/
  free : Nat
  deriving DecidableEq, Repr

/-- The state right after 54 V is applied: cold boot in stage 1 (14 R457, log 4). -/
def State.reset : State where
  pending := []
  mbx :=
    { cmdBase := 0, cmdSize := 0, cmdTail := 0, cplBase := 0, armed := false, eventsLost := 0, overfills := 0,
      rings := List.replicate 9 RingPair.off, flights := [], held := [], kept := [], nextReq := 0,
      window := 0x400000, chunks := [], pieces := [], evHeld := [], cpHeld := [], hostOut := [], notices := 0 }
  flash :=
    { serial := 1, disabled := [], preferred := List.replicate 16 none, ffl := [], repaired := [], partMode := 0,
      slotA := some ⟨1, 0, []⟩, slotB := none, runB := false, staged := none, envImage := none,
      envStaged := none, envSlot := 0, counter := 0, envCounter := 0, staging := none, activation := none,
      aliasGen := 0, unlockedOnce := false, unlocked := false }
  eng :=
    { beat := 0, phase := .sync, timeQ := 0, period := 8000, periodPending := none, periodAsks := [], level := 0,
      levelPending := [], hostFloor := 0, requested := 0, ownFloor := 0, below := 0, belowLast := 0, idleBeats := 0, express := [], asserted := false,
      master := none, masterLocked := false, holdover := false, upstream := none, depth := 0, missing := 0,
      syncSeen := false, offset := 0, steer := 0, badSyncs := 0, inLock := false, lockBeats := 0,
      suspended := false, lockAbort := none, priority := 128, refMode := 0, refSignal := false,
      refLocked := false, ppsBeat := 0, ppsOffset := 0, ppsOut := 0, tauAbort := 200000,
      queue := [], abortsSeen := [] }
  fab :=
    { ports := [0, 1, 2, 3, 4, 5, 6, 7, 0x80].map PortSt.init, map := none, bridge := false,
      serviceIdle := false, drain := none, drainWaits := none, safe := false, safeBeat := 0, safeHeld := false, admitting := none,
      sent := [], wired := 0 }
  st :=
    { mem := [], bad := [], cores := [], partials := [], bist := [], spares := List.replicate 16 (some 6), rowErrors := [],
      marks := [], engineFaults := [], scrubNext := 0, occupancy := List.replicate 128 0, windowEnd := 0,
      imbalance := 0, carryMark := 0, trackings := 0, farState := 0, doubled := [] }
  fns := List.replicate 4 FnSt.init
  env :=
    { running := false, booting := false, func := 0, cores := 0, addr := 0, size := 0, graceEnd := none,
      req := none, watchdogMs := 0, resets := [] }
  pow :=
    { state := 0, stage := 1, readyBy := 7500000, input := true, standby := none, rstHeld := false,
      unrepaired := false, leakDrive := false, slotId := 0, domains := [], clock := 1900, hotSamples := 0,
      limiter := false, reading := ⟨0, 0, 0, 0, false, 0, 0, List.replicate 8 0⟩, peakW := 0, second := ⟨0, 0, 0, 0, 0⟩, lastSecond := ⟨0, 0, 0, 0, 0⟩, frozen := [],
      stepMarks := List.replicate 7 0, stepTotals := List.replicate 7 0, throttle := 0,
      temps := [], stretchAsked := false, cpReset := [], requests := 0, carries := List.replicate 5 0,
      corrected := List.replicate 7 0, errors := List.replicate 6 0, selftest := none, resetWaits := false }
  face :=
    { locate := false, locateTimeout := none, lastToggle := none, service := false, lastActive := none, refusal := false,
      alerts := 0, heldAlerts := 0, i3cAddr := none, selector := 0, ibis := [], i3cOut := [] }
  sec := { conns := [], nextSession := 1, nextKey := 1, spdmOut := [] }
  free := 0

end Sys2Proof.Machine
end

