-- ==== Sys2Proof/Machine/Ops.lean ====
section
/-! DEFINITION. Named operations over memory, functions, messages and events (spec/02, 06, 12, 13). -/
namespace Sys2Proof.Machine
open Sys2Proof

/-! ### Memory in canonical form (R173; log entry 10) -/

/-- The byte at an address; an unlisted address reads 0. -/
def memGet : Memory → Nat → Byte
  | [], _ => 0
  | (x, v) :: r, a => if x = a then v else memGet r a

/-- Writes one byte and keeps the canonical form. -/
def memPut : Memory → Nat → Byte → Memory
  | [], a, b => if b = 0 then [] else [(a, b)]
  | (x, v) :: r, a, b =>
    if a < x then (if b = 0 then (x, v) :: r else (a, b) :: (x, v) :: r)
    else if a = x then (if b = 0 then r else (a, b) :: r)
    else (x, v) :: memPut r a b

/-- `n` bytes from an address. -/
def memRead (m : Memory) (a n : Nat) : Bytes := (List.range n).map fun i => memGet m (a + i)

/-- Writes bytes from an address up. -/
def memWrite (m : Memory) (a : Nat) : Bytes → Memory
  | [] => m
  | b :: r => memWrite (memPut m a b) (a + 1) r

/-- Sets a range to zero. -/
def memClear (m : Memory) (a n : Nat) : Memory := m.filter fun c => !(decide (a ≤ c.1) && decide (c.1 < a + n))

/-- The canonical form: addresses strictly rising, no zero byte listed. -/
def Memory.wf : Memory → Bool
  | [] => true
  | [(_, v)] => v != 0
  | (x, v) :: (y, w) :: r => v != 0 && decide (x < y) && Memory.wf ((y, w) :: r)

/-! ### Functions and jobs (R418, R439) -/

/-- Compute functions of a partition mode (Table 14.2). -/
def fnCount (mode : Nat) : Nat := if mode = 0 then 1 else if mode = 1 then 2 else 4

def fnAt (s : State) (f : Nat) : FnSt := s.fns.getD f FnSt.init

def setFn (s : State) (f : Nat) (g : FnSt → FnSt) : State := { s with fns := updNth s.fns f g }

def jobAt (s : State) (f : Nat) : Option Job := (fnAt s f).job

def setJob (s : State) (f : Nat) (g : Job → Job) : State := setFn s f fun x => { x with job := x.job.map g }

/-- Whether compute function F(f + 1) exists in the partition mode (Table 14.2). -/
def fnExists (s : State) (f : Nat) : Bool := decide (f < fnCount s.flash.partMode)

/-- The state code of a compute function (Table 13.2; R486 for a failed molt). -/
def fnState (s : State) (f : Nat) : Nat :=
  let x := fnAt s f
  if !fnExists s f || x.failed then 0
  else if x.reset.isSome then 6
  else if x.molt.isSome then 5
  else match x.job with
    | none => 1
    | some j => if j.run.isSome then 4 else if j.verified then 3 else 2

def anyFn (s : State) (p : Nat → Bool) : Bool := (List.range 4).any fun f => fnExists s f && p f

/-- The running function of a step, if the job of f runs one. -/
def stepRunning (s : State) (f : Nat) : Bool :=
  match jobAt s f with
  | some j => j.run.isSome && j.anchor.isSome
  | none => false

/-! ### Places (R5, R6, R327) -/

/-- The physical coordinate that the system map gives this device's serial, if any (R327). -/
def mapCoord (s : State) : Option Coord :=
  match s.fab.map with
  | some m => (m.modules.find? fun x => decide (x.serial = s.flash.serial)).map (·.phys)
  | none => none

/-- The physical coordinate of this device; (0, 0, 0, 0) before a map is in force (log entry 25). -/
def selfPhys (s : State) : Coord := (mapCoord s).getD ⟨0, 0, 0, 0⟩

/-- The coordinate that a message of function f carries: logical when its function holds a job (Table 12.9). -/
def originOf (s : State) (f : Nat) : Coord :=
  match jobAt s f with
  | some j => j.coord
  | none => selfPhys s

/-- The physical coordinate of a logical one: each cut on its physical axis, d through the slab table (R334, R360). -/
def logicalToPhys (j : Job) (c : Coord) : Coord :=
  let put (acc : Coord) (i : Nat) : Coord :=
    let v := if i = 3 then j.slabs.getD c.d c.d else coordOn c i
    coordPut acc (j.axes.getD i i) v
  ([0, 1, 2, 3] : List Nat).foldl put ⟨0, 0, 0, 0⟩

/-- All coordinates of a box in ascending linear rank (R304). -/
def boxCoords (len : Coord) : List Coord := (List.range (coordSize len)).map (coordOfRank len)

/-- Index of a function number; F0, which holds no job, has an index past the last function. -/
def fnIx (n : Nat) : Nat := if n = 0 then 8 else n - 1

/-- The coordinate by which an item names a device (Table 10.4): its logical one in the function's job, where it has one; else the physical
one (log 156). -/
def itemCoord (s : State) (f : Nat) (phys : Coord) : Coord :=
  match jobAt s f with
  | some j => ((boxCoords j.lengths).find? fun c => decide (logicalToPhys j c = phys)).getD phys
  | none => phys

/-- Live modules of the map in force. -/
def liveModules (s : State) : List MapModule :=
  match s.fab.map with
  | some m => m.modules.filter fun x => !(m.gone.contains x.serial)
  | none => [⟨s.flash.serial, ⟨0, 0, 0, 0⟩⟩]

def mapLengths (s : State) : Coord :=
  match s.fab.map with
  | some m => m.lengths
  | none => ⟨1, 1, 1, 1⟩

/-! ### Ports -/

def portAt (s : State) (p : Nat) : PortSt := s.fab.ports.getD p (PortSt.init 0x80)

def setPort (s : State) (p : Nat) (g : PortSt → PortSt) : State :=
  { s with fab := { s.fab with ports := updNth s.fab.ports p g } }

/-- Index of a port code (Table 10.1): codes 0 to 7, and the service port last. -/
def portIndex (code : Nat) : Nat := if code < 8 then code else 8

/-- Direction ports that are intact: in service or draining (Table 13.14). -/
def intactPorts (s : State) : List Nat :=
  (List.range 8).filter fun p => decide ((portAt s p).pstate = 2) || decide ((portAt s p).pstate = 5)

/-- Steps from a to b the shorter way on an axis of length n, with its direction: 0 for +, 1 for −; on a line the way
that avoids the gap (R295, R309). -/
def shortWay (n a b : Nat) (gap : Option Nat) : Nat × Nat :=
  let up := (b + n - a) % (max 1 n)
  let down := (a + n - b) % (max 1 n)
  match gap with
  | some g => if (g + n - a) % (max 1 n) < up then (down, 1) else (up, 0)
  | none =>
    if up < down then (up, 0) else if down < up then (down, 1)
    else if a % 2 = 0 then (up, 0) else (down, 1)

/-- The gap of this device's ring on a physical axis, if it runs as a line (R309). -/
def lineGap (s : State) (a : Nat) : Option Nat :=
  s.fab.map.bind fun m => (m.lines.find? fun x => decide (x.1 = a)).map (·.2)

/-- The port code toward a neighbour on a physical axis (Table 10.1). -/
def axisPort (axis dir : Nat) : Nat := axis + 4 * dir

/-- Port code of the first hop to a physical coordinate, axes in the order E, T, P, D. -/
def routeTo (s : State) (dst : Coord) : Option Nat :=
  let me := selfPhys s
  (([0, 1, 2, 3] : List Nat).find? fun a => decide (coordOn me a ≠ coordOn dst a)).map fun a =>
    axisPort a (shortWay (coordOn (mapLengths s) a) (coordOn me a) (coordOn dst a) (lineGap s a)).2

/-- The port on which messages for the bridge leave: the first intact E port, else the first intact one (log 24). -/
def bridgePorts (s : State) : List Nat :=
  match (intactPorts s).find? (fun p => decide (p % 4 = 0)) with
  | some p => [p]
  | none => (intactPorts s).take 1

/-- λ of R44 for a port, a latency in ps and a period in ns; backplane E ports have 0. -/
def latencyClass (p ps period : Nat) : Nat := if p % 4 = 0 then 0 else ceilDiv (ps - 200000) (1000 * period)

/-- Recomputes the latency classes, which the base period sets (R44). -/
def refreshLambda (s : State) : State :=
  (List.range 8).foldl (fun s p => setPort s p fun x => { x with lambda := latencyClass p x.latencyPs s.eng.period }) s

/-! ### Announcement distance and quiet window (R55, R62, R273) -/

/-- A of R55: max(8, ceil((τ_abort + 56 µs) ÷ P)). -/
def announceDist (s : State) : Nat := max 8 (ceilDiv (s.eng.tauAbort + 56000) s.eng.period)

/-- Q of R273: ceil(τ_abort ÷ P). -/
def quietWindow (s : State) : Nat := ceilDiv s.eng.tauAbort s.eng.period

/-- A time in ns as beats of the base period (R62). -/
def beatsOf (s : State) (ns : Nat) : Nat := ceilDiv ns s.eng.period

/-! ### Control messages (R37, R306) -/

def msgBytes (m : Msg) : Bytes := natLE 1 m.code ++ natLE 3 m.sub ++ natLE 8 m.beat ++ coordBytes m.origin ++ m.body

/-- Bytes of the flits that carry a message (R313, R318). -/
def flitBytes (m : Msg) : Nat := 256 * ceilDiv (msgBytes m).length 240

/-- An express message on a port: at most 4,096 bytes of them in a beat, the others wait for the next message phase (R306). -/
def expressOut (m : Msg) (s : State) (p : Nat) : State :=
  let used := lookupD s.eng.express p 0
  if used + flitBytes m ≤ 4096 then
    { s with eng := { s.eng with express := insertK s.eng.express p (used + flitBytes m) }, fab := { s.fab with sent := s.fab.sent ++ [.express p m] } }
  else { s with eng := { s.eng with queue := s.eng.queue ++ [(m, [p])] } }

/-- Puts a message out on ports: ABORT, STRETCH, COMMIT and BARRIER at once, others in the message phase (R306). -/
def emitMsg (s : State) (ports : List Nat) (m : Msg) : State :=
  if m.code ≤ 4 ∧ s.eng.phase = .message then { s with fab := { s.fab with sent := s.fab.sent ++ ports.map fun p => Sent.msg p m } }
  else if m.code ≤ 4 ∧ s.eng.phase = .data then ports.foldl (expressOut m) s
  else { s with eng := { s.eng with queue := s.eng.queue ++ [(m, ports)] } }

/-- A message of this device with the running beat as its origin beat (R37). -/
def sendMsg (s : State) (ports : List Nat) (code f : Nat) (body : Bytes) : State :=
  emitMsg s ports ⟨code, f + 1, s.eng.beat, originOf s f, body⟩

def sendItem (s : State) (port : Nat) (desc bytes : Bytes) : State :=
  { s with fab := { s.fab with sent := s.fab.sent ++ [.item port desc bytes] } }

/-! ### Alert causes (R494) -/

/-- Whether a molt runs on any function. -/
def molting (s : State) : Bool := s.fns.any fun x => x.molt.isSome

/-- Latches causes of ALERT_N, raising the in-band interrupt 0x02 (R494, R498). -/
def latchAlerts (s : State) (c : BitVec 32) : State :=
  if c = 0 then s
  else { s with face := { s.face with alerts := s.face.alerts ||| c, ibis := s.face.ibis ++ [2] } }

/-- A cause of bit i: causes 0 and 4 to 7 are held back while a molt runs (R494). -/
def setAlert (s : State) (i : Nat) : State :=
  if molting s ∧ (i = 0 ∨ 4 ≤ i) then
    { s with face := { s.face with heldAlerts := s.face.heldAlerts ||| BitVec.ofNat 32 (2 ^ i) } }
  else latchAlerts s (BitVec.ofNat 32 (2 ^ i))

/-- Latches the causes held back, at a molt's end (R494). -/
def releaseAlerts (s : State) : State :=
  let c := s.face.heldAlerts
  latchAlerts { s with face := { s.face with heldAlerts := 0 } } c

def clearAlert (s : State) (i : Nat) : State :=
  { s with face := { s.face with alerts := s.face.alerts &&& ~~~(BitVec.ofNat 32 (2 ^ i)),
                                 heldAlerts := s.face.heldAlerts &&& ~~~(BitVec.ofNat 32 (2 ^ i)) } }

/-- Whether control processor n is in reset (R22). -/
def cpDown (s : State) (n : Nat) : Bool := s.pow.cpReset.contains n

/-! ### Events (R403, R404) -/

def ringAt (s : State) (n : Nat) : RingPair := s.mbx.rings.getD n RingPair.off

def setRing (s : State) (n : Nat) (g : RingPair → RingPair) : State :=
  { s with mbx := { s.mbx with rings := updNth s.mbx.rings n g } }

/-- One write to host memory. -/
def hostWrite (s : State) (addr : Nat) (b : Bytes) : State :=
  { s with mbx := { s.mbx with hostOut := s.mbx.hostOut ++ [⟨addr, b⟩] } }

/-- One notice to the host adapter (R390). -/
def hostNotice (s : State) : State := { s with mbx := { s.mbx with notices := s.mbx.notices + 1 } }

/-- Entries of a ring between two 16-bit counters (R388). -/
def ringCount (head tail : Nat) : Nat := (tail + 65536 - head) % 65536

/-- Writes a record into the next slot of a ring pair's event ring (R388, R390). -/
def writeEvent (s : State) (n : Nat) (rec : Bytes) : State :=
  let r := ringAt s n
  let s := hostWrite s (r.evBase + 64 * (r.evTail % max 1 r.evSlots)) rec
  hostNotice (setRing s n fun r => { r with evTail := (r.evTail + 1) % 65536 })

def countLost (s : State) : State :=
  { s with mbx := { s.mbx with eventsLost := sat 0xFFFF (s.mbx.eventsLost + 1) } }

/-- The severity classes that a ring has selected; faults and security always flow (R404). -/
def wantsClass (r : RingPair) (sev : Nat) : Bool := if sev = 0 then r.evInfo else if sev = 1 then r.evWarn else true

/-- Delivers an event record on the bridge (R404). -/
def deliverEvent (s : State) (rec : Bytes) : State :=
  let cls := rd rec 1 1
  let f := cls % 16
  let n := if 0 < (ringAt s f).evSlots then f else 0
  let r := ringAt s n
  if r.evSlots = 0 then countLost s
  else if !wantsClass r (cls / 16) then s
  else if r.evSlots ≤ ringCount r.evHead r.evTail + 1 then
    countLost (setRing s n fun r => { r with evDropped := r.evDropped + 1 })
  else writeEvent s n rec

/-- An event record of this device (Table 12.9). -/
def eventRecord (s : State) (fn sev code : Nat) (body : Bytes) : Bytes :=
  natLE 1 7 ++ natLE 1 (fn + 16 * sev) ++ natLE 2 code ++ natLE 8 s.eng.beat ++ coordBytes (originOf s (fn - 1)) ++ fit 48 body

/-- An event record at the bridge: it waits while CP0, which serves the event rings, is in reset (R22). -/
def eventAtBridge (s : State) (rec : Bytes) : State :=
  if cpDown s 0 then { s with mbx := { s.mbx with evHeld := s.mbx.evHeld ++ [rec] } } else deliverEvent s rec

/-- Raises an event with a body of its own (R403, R404). -/
def raiseRecord (s : State) (rec : Bytes) : State :=
  let s := if rd rec 1 1 / 16 = 2 then setAlert s 4 else s
  if s.fab.bridge then eventAtBridge s rec
  else emitMsg s (bridgePorts s) ⟨7, rd rec 1 3, rd rec 4 8, coordOf rec 12, slice rec 16 48⟩

/-- The generic body of Table 12.9. -/
def genericBody (step subject detail address : Nat) : Bytes :=
  natLE 8 step ++ natLE 4 subject ++ natLE 4 detail ++ natLE 8 address ++ zeros 24

/-- The running step that an event of function F(f + 1) names, all ones when none (Table 12.9). -/
def eventStep (s : State) (f : Nat) : Nat :=
  match jobAt s f with
  | some j => if j.run.isSome then j.committed.step else 2 ^ 64 - 1
  | none => 2 ^ 64 - 1

/-- Raises an event of compute function index f with the generic body. -/
def raiseFn (s : State) (f sev code subject detail address : Nat) : State :=
  raiseRecord s (eventRecord s (f + 1) sev code (genericBody (eventStep s f) subject detail address))

/-- Raises an event of function number n that is no compute function (0, 5 to 8) with the generic body. -/
def raiseDev (s : State) (n sev code subject detail address : Nat) : State :=
  raiseRecord s (eventRecord s n sev code (genericBody (2 ^ 64 - 1) subject detail address))

/-! ### Counters -/

/-- Adds one to an entry of the error counters of Table 14.11 group 4 (R459). -/
def countError (s : State) (i : Nat) : State :=
  { s with pow := { s.pow with errors := updNth s.pow.errors i fun n => sat (2 ^ 32 - 1) (n + 1) } }

/-- Draws a fresh index of a free value (log entry 8). -/
def drawFree (s : State) : Nat × State := (s.free, { s with free := s.free + 1 })

end Sys2Proof.Machine
end

