-- ==== Sys2Proof/Machine/Records.lean ====
section
/-! DEFINITION. The clock floor and the telemetry records (spec/14 R452, R459; spec/15 R477, R478, R487). -/
namespace Sys2Proof.Machine
open Sys2Proof

/-- Plan clocks of the loaded jobs. -/
def planClocks (s : State) : List Nat := s.fns.filterMap fun x => x.job.map fun j => j.hdr.planClock

/-- h of R452: the highest plan clock loaded, 800 MHz with none. -/
def highClock (s : State) : Nat := if (planClocks s).isEmpty then 800 else maxNat (planClocks s)

/-- The lowest 25 MHz step at or above h ÷ (1 + s) at a stretch level (R54, R452). -/
def floorAt (h level : Nat) : Nat :=
  25 * (if level = 0 then ceilDiv h 25 else if level = 1 then ceilDiv (8 * h) 225 else ceilDiv (4 * h) 125)

def clockFloor (s : State) : Nat := floorAt (highClock s) s.eng.level

/-- R478: rounded ties-away to a multiple of 2^(floor(log2 v) − 6). -/
def round64 (v : Nat) : Nat :=
  if v < 128 then v else let q := 2 ^ (Nat.log2 v - 6); (v + q / 2) / q * q

/-- Two bytes of a signed temperature. -/
def tempBytes (t : Int) : Bytes := natLE 2 (t % 65536).toNat

/-- The latest temperature of a sensor (log 18). -/
def tempOf (s : State) (n : Nat) : Int := lookupD s.pow.temps n 0

/-- Whether any function is confidential: the scope "module" of Table 15.5. -/
def confidentialAny (s : State) : Bool := s.fns.any fun x => x.confidential

/-- Mean of the last whole second, rounded ties-away to 25 W (Table 15.5). -/
def meanWatts (x : SecSum) : Nat := if x.samples = 0 then 0 else (2 * x.watts + 25 * x.samples) / (50 * x.samples) * 25

/-- A clock mean rounded down to 100 MHz (Table 15.5). -/
def meanClock (sum n : Nat) : Nat := if n = 0 then 0 else sum / n / 100 * 100

def telPower (s : State) : Bytes :=
  let r := s.pow.reading
  let tail := natLE 2 1400 ++ natLE 1 s.pow.throttle ++ natLE 1 s.eng.level ++ zeros 28
  if confidentialAny s then
    let w := meanWatts s.pow.lastSecond
    natLE 8 s.eng.beat ++ natLE 2 w ++ natLE 2 w ++ natLE 2 r.millivolts ++ zeros 2 ++ zeros 16 ++ tail
  else
    natLE 8 s.eng.beat ++ natLE 2 r.meanW ++ natLE 2 s.pow.peakW ++ natLE 2 r.millivolts ++ natLE 2 r.deciamps
      ++ ((List.range 8).map fun i => natLE 2 (r.consumers.getD i 0)).flatten ++ tail

def telTemperature (s : State) : Bytes :=
  let t (n : Nat) : Bytes := tempBytes (if confidentialAny s then 5 * (tempOf s n / 5) else tempOf s n)
  let state := if s.pow.stretchAsked then 2 else if bit s.pow.throttle 1 || !s.st.doubled.isEmpty then 1 else 0
  natLE 8 s.eng.beat ++ ((List.range 21).map t).flatten ++ t 22 ++ t 23 ++ t 21 ++ t 24 ++ natLE 1 state ++ zeros 5

/-- Group 2 of a function: cumulative per operator, or per-step totals in one entry after zero entries (Table 15.5, log 37). -/
def telOperators (s : State) (f : Nat) : Bytes :=
  match jobAt s f with
  | none => natLE 8 s.eng.beat ++ natLE 4 0 ++ natLE 4 0
  | some j =>
    let n := j.ops.length
    let free (i k n : Nat) : Nat := if n = 0 then 0 else Config.telemetryOpen [s.free, f, j.countedStep.getD 0, n, i, k]
    let head (k : Nat) : Bytes := natLE 8 s.eng.beat ++ natLE 4 k ++ natLE 4 (j.countedStep.getD 0)
    let entry (i : Nat) : Bytes :=
      let o := j.countsDone.getD i ⟨0, 0, 0⟩
      let d := j.ops[i]?
      natLE 2 ((d.map (·.layer)).getD 0) ++ natLE 2 ((d.map (·.opIndex)).getD 0) ++ natLE 4 (sat (2 ^ 32 - 1) o.slices)
        ++ natLE 8 (free i 0 o.slices) ++ natLE 8 (free i 1 o.slices) ++ natLE 4 (sat (2 ^ 32 - 1) o.carries)
        ++ natLE 4 (sat (2 ^ 32 - 1) o.tiles)
    if (fnAt s f).confidential then
      let tot (g : OpCount → Nat) : Nat := round64 (sumNat (j.countsDone.map g) - sumNat (j.countsBefore.map g))
      let blank (i : Nat) : Bytes := (entry i).take 4 ++ zeros 28
      head (n + 1) ++ ((List.range n).map blank).flatten ++ natLE 4 0xFFFFFFFF ++ natLE 4 (tot (·.slices))
        ++ natLE 8 (round64 (free n 0 (tot (·.slices)))) ++ natLE 8 (round64 (free n 1 (tot (·.slices))))
        ++ natLE 4 (tot (·.carries)) ++ natLE 4 (tot (·.tiles))
    else head n ++ ((List.range n).map entry).flatten

def telOccupancy (s : State) : Bytes :=
  let hide := confidentialAny s
  natLE 8 s.st.windowEnd ++ natLE 2 (if hide then 0 else s.st.imbalance) ++ zeros 6
    ++ ((List.range 128).map fun i => natLE 2 (if hide then 0 else s.st.occupancy.getD i 0)).flatten

def telErrors (s : State) : Bytes :=
  natLE 8 s.eng.beat ++ ((List.range 7).map fun i => natLE 4 (s.pow.corrected.getD i 0)).flatten
    ++ ((List.range 6).map fun i => natLE 4 (s.pow.errors.getD i 0)).flatten ++ zeros 4

def telLinks (s : State) : Bytes :=
  let one (x : PortSt) : Bytes :=
    natLE 1 x.code ++ zeros 3 ++ natLE 8 x.symbols ++ natLE 8 (if confidentialAny s then round64 x.flitsStep else x.flits)
      ++ natLE 4 x.retries ++ natLE 4 x.stale ++ natLE 4 x.laneFails
  natLE 8 s.eng.beat ++ zeros 8 ++ (s.fab.ports.map one).flatten

/-- Hold beats of every loaded job. -/
def holdBeats (s : State) : Nat := sumNat (s.fns.filterMap fun x => x.job.map fun j => j.holdBeats)

def telClocks (s : State) : Bytes :=
  let hide := confidentialAny s
  let l := s.pow.lastSecond
  let clk := if hide then meanClock l.clock l.samples else s.pow.clock
  let flo := if hide then meanClock l.floor l.samples else clockFloor s
  let cnt (i live : Nat) : Nat := sat (2 ^ 32 - 1) (if hide then round64 (s.pow.stepTotals.getD i 0) else live)
  natLE 8 s.eng.beat ++ natLE 2 clk ++ natLE 2 flo ++ natLE 2 (maxNat (planClocks s)) ++ natLE 1 s.eng.level
    ++ natLE 1 s.eng.hostFloor ++ natLE 4 s.eng.period
    ++ ((List.range 5).map fun i => natLE 4 (cnt i (s.pow.carries.getD i 0))).flatten
    ++ natLE 4 (cnt 5 (holdBeats s)) ++ natLE 4 (cnt 6 s.pow.requests) ++ zeros 16

/-- A record as it stands now (Table 14.11). -/
def telNow (s : State) (g f : Nat) : Bytes :=
  if g = 0 then telPower s else if g = 1 then telTemperature s else if g = 2 then telOperators s f
  else if g = 3 then telOccupancy s else if g = 4 then telErrors s else if g = 5 then telLinks s else telClocks s

/-- A record as a reader sees it: module-wide records stand still during a molt (R487). -/
def telRecord (s : State) (g f : Nat) : Bytes :=
  if molting s && g ≠ 2 then lookupD s.pow.frozen g (telNow s g f) else telNow s g f

/-- Freezes the module-wide records at the start of the first molt (R485). -/
def freezeTelemetry (s : State) : State :=
  if molting s then s
  else { s with pow := { s.pow with frozen := ([0, 1, 3, 4, 5, 6] : List Nat).map fun g => (g, telNow s g 0) } }

/-- Counters of a step end at its commit (Table 15.5). -/
def markStep (s : State) : State :=
  let now := s.pow.carries ++ [holdBeats s, s.pow.requests]
  let diff := (now.zip s.pow.stepMarks).map fun p => p.1 - p.2
  { s with pow := { s.pow with stepTotals := diff, stepMarks := now },
           fab := { s.fab with ports := s.fab.ports.map fun x => { x with flitsStep := x.flits - x.flitsMark, flitsMark := x.flits } } }

end Sys2Proof.Machine
end

