-- ==== Sys2Proof/Machine/Drives.lean ====
section
/-! DEFINITION. The keys of the DICE layers and level-2 images as they lie on the drives (spec/15 R463, R464, R480, R481; spec/11 R372, R376). -/
namespace Sys2Proof.Machine
open Sys2Proof

/-! ### Keys (R463, R464) -/

/-- The device image that runs, and an image's digest and security version. -/
def runningImage (s : State) : Option Image := if s.flash.runB then s.flash.slotB else s.flash.slotA
def imgDigest (i : Option Image) : Bytes := match i with | some x => fit 64 x.digest | none => zeros 64
def imgSvn (i : Option Image) : Nat := match i with | some x => x.svn | none => 0

/-- The unique device secret, 512 bits. -/
def uds : Bytes := fit 64 Config.uds

/-- Order of the base point of P-521. -/
def p521Order : Nat :=
  0x1FFFFFFFFFFFFFFFFFFFFFFFFFFFFFFFFFFFFFFFFFFFFFFFFFFFFFFFFFFFFFFFFFA51868783BF2F966B7FCC0148F709A5D03BB5C9B8899C47AEBB6FB71E91386409

/-- A private key from 585 bits of HKDF over a secret, by the extra-random-bits method of FIPS 186-5: the first 585 bits of the
output, most significant first (log 178). -/
def p521Private (secret info : Bytes) : Nat := beNat (hkdf (zeros 64) secret info 74) / 128 % (p521Order - 1) + 1

def deviceIdKey : Nat := p521Private uds (ascii "zk-deviceid")

/-- K_store: 256 bits. -/
def storeKey : Bytes := hkdf (zeros 64) uds (ascii "zk-store") 32

/-- The layer-0 measurements: the boot firmware body, then the configuration record. -/
def layer0 (s : State) : Bytes := imgDigest (runningImage s) ++ fit 64 (Config.configDigest s.flash.serial)

def cdi1 (s : State) : Bytes := hmac512 uds (layer0 s)

def aliasKey (s : State) : Nat := p521Private (cdi1 s) (ascii "zk-alias")

/-! ### The level-2 key in protected flash (R480) -/

/-- A key under K_store: nonce, wrapped key, tag. -/
def wrapKey (n : Nat) (key : Bytes) : Bytes :=
  let nonce := fit 12 (Config.wrapNonce n)
  let ct := gcmCrypt storeKey nonce (fit 32 key)
  nonce ++ ct ++ gcmTag storeKey nonce [] ct

def wrappedKey (w : Bytes) : Bytes := slice w 12 32

def unwrapStored (w : Bytes) : Bytes := gcmCrypt storeKey (w.take 12) (wrappedKey w)

/-- The key that the security processor draws at a draw. -/
def drawnKey (n : Nat) : Bytes := wrapKey n (Config.levelKey n)

/-! ### A stored image (R481) -/

def imageBlock : Nat := 2 ^ 20

/-- First bytes of SHA-512 over the wrapped key. -/
def keyIdent (w : Bytes) : Bytes := (sha512 (wrappedKey w)).take 8

/-- The 64-byte clear descriptor. -/
def imageDesc (who : Coord) (step stopBeat size : Nat) (w : Bytes) : Bytes :=
  coordBytes who ++ zeros 4 ++ natLE 8 step ++ natLE 8 stopBeat ++ natLE 8 size ++ keyIdent w ++ zeros 24

def descStep (b : Bytes) : Nat := rd b 8 8
def descStop (b : Bytes) : Nat := rd b 16 8
def descSize (b : Bytes) : Nat := rd b 24 8

/-- Nonce of block i. -/
def blockNonce (stopBeat i : Nat) : Bytes := natLE 8 stopBeat ++ natLE 4 i

/-- Descriptor, encrypted image, tags in block order. -/
def sealImage (desc w image : Bytes) : Bytes :=
  let k := unwrapStored w
  let nonce := blockNonce (descStop desc)
  let ct := (chunks image.length imageBlock image).zipIdx.map fun x => (gcmCrypt k (nonce x.2) x.1, x.2)
  desc ++ (ct.map (·.1)).flatten ++ (ct.map fun x => gcmTag k (nonce x.2) desc x.1).flatten

/-- Bytes of an image of a state of so many bytes: header, manifest, state (R372). -/
def imageLength (size : Nat) : Nat := 4096 + 8 * ceilDiv size imageBlock + size

/-- The image in clear, where its descriptor names the key and every tag holds. -/
def openImage (w b : Bytes) : Option Bytes :=
  let desc := b.take 64
  let k := unwrapStored w
  let nonce := blockNonce (descStop desc)
  let n := imageLength (descSize desc)
  let ct := (chunks n imageBlock (slice b 64 n)).zipIdx
  let tagAt (i : Nat) : Bytes := slice b (64 + n + 16 * i) 16
  if b.length = 64 + n + 16 * ct.length ∧ slice desc 32 8 = keyIdent w ∧ ct.all fun x => decide (gcmTag k (nonce x.2) desc x.1 = tagAt x.2) then
    some (ct.map fun x => gcmCrypt k (nonce x.2) x.1).flatten
  else none

/-! ### An image in clear (R372, R376) -/

/-- CRC-64 of each started MiB of a state. -/
def manifestOf (state : Bytes) : Bytes := ((chunks state.length imageBlock state).map fun b => natLE 8 (crc64 b)).flatten

/-- The header of Table 11.7. -/
def imageHeader (who : Coord) (planVersion : Nat) (planDigest : Bytes) (size : Nat) (record manifest : Bytes) : Bytes :=
  natLE 4 0x43595253 ++ natLE 2 1 ++ zeros 2 ++ coordBytes who ++ natLE 4 planVersion ++ fit 64 planDigest ++ natLE 8 size ++ natLE 8 manifest.length
    ++ fit 2240 record ++ sha512 manifest ++ zeros 1696

/-- The step record, the manifest and the state of an image. -/
def imageRecord (b : Bytes) : Bytes := slice b 96 2240
def imageManifest (b : Bytes) : Bytes := slice b 4096 (rd b 88 8)
def imageState (b : Bytes) : Bytes := slice b (4096 + rd b 88 8) (rd b 80 8)

/-- Whether the record digest, the manifest digest and the block CRCs hold (R376). -/
def imageChecks (b : Bytes) : Bool :=
  decide (sha512 ((imageRecord b).take 2176) = slice (imageRecord b) 2176 64) && decide (sha512 (imageManifest b) = slice b 2336 64)
    && decide (imageManifest b = manifestOf (imageState b))

/-- The image of a stop that a function's drives hold complete: it opens under the function's key and its checks hold (R376, R481). -/
def driveImage (x : FnSt) (step stopBeat : Nat) : Option Bytes :=
  match x.l2Key, x.drives.find? fun b => decide (descStep b = step) && decide (descStop b = stopBeat) with
  | some w, some b => (openImage w b).filter imageChecks
  | _, _ => none

/-- A job whose level-2 copies count only where their images are complete (R376, R481). -/
def testDrives (x : FnSt) (j : Job) : Job :=
  { j with chrysalises := j.chrysalises.map fun c => { c with level2 := c.level2 && (driveImage x c.record.step c.stopBeat).isSome } }

end Sys2Proof.Machine
end

