-- ==== Sys2Proof/Machine/Formats.lean ====
section
/-! DEFINITION. Number formats, rounding, conversion, group scales and codebooks (spec/03). -/
namespace Sys2Proof.Machine
open Sys2Proof

/-- An exact real, as a source of one rounding: NaN, infinity, zero, or ± num ÷ den × 2^e (R71, R79). -/
inductive Ex where
  | nan
  | inf (neg : Bool)
  | zero (neg : Bool)
  | ratio (neg : Bool) (num den : Nat) (e : Int)
  deriving DecidableEq, Repr

end Sys2Proof.Machine

namespace Sys2Proof

/-- A value as a source of one rounding (R71). -/
def Val.ex : Val → Machine.Ex
  | .nan => .nan
  | .inf s => .inf s
  | .zero s => .zero s
  | .fin s m e => if m = 0 then .zero s else .ratio s m 1 e

/-- A value times 2^k. -/
def Val.scale2 (k : Int) : Val → Val
  | .fin s m e => .fin s m (e + k)
  | v => v

def Val.isNan : Val → Bool | .nan => true | _ => false
def Val.isInf : Val → Bool | .inf _ => true | _ => false
def Val.isZero : Val → Bool | .zero _ => true | _ => false
def Val.isFin : Val → Bool | .fin _ _ _ => true | .zero _ => true | _ => false
def Val.neg? : Val → Bool | .inf s => s | .zero s => s | .fin s _ _ => s | .nan => false

end Sys2Proof

namespace Sys2Proof.Machine


/-- An exact dyadic value, zero where the significand is zero. -/
def mkFin (neg : Bool) (m : Nat) (e : Int) : Val := if m = 0 then .zero neg else .fin neg m e

/-! ### Floating-point formats (R65, R67) -/

/-- A floating-point format of Table 3.2; `special`: 0 none, 1 IEEE infinities and NaN, 2 the E4M3 NaN only. -/
structure FloatFmt where
  eBits : Nat
  mBits : Nat
  bias : Nat
  special : Nat
  deriving DecidableEq, Repr

def fp32 : FloatFmt := ⟨8, 23, 127, 1⟩
def bf16 : FloatFmt := ⟨8, 7, 127, 1⟩
def fp16 : FloatFmt := ⟨5, 10, 15, 1⟩
def e4m3 : FloatFmt := ⟨4, 3, 7, 2⟩
def e5m2 : FloatFmt := ⟨5, 2, 15, 1⟩
def e3m2 : FloatFmt := ⟨3, 2, 3, 0⟩
def e2m3 : FloatFmt := ⟨2, 3, 1, 0⟩
def e2m1 : FloatFmt := ⟨2, 1, 1, 0⟩
/-- The internal accumulator format (R107). -/
def e10m23 : FloatFmt := ⟨10, 23, 511, 1⟩

/-- The floating format of a code of Table 3.1, none for the integer, codebook and reserved codes. -/
def floatOf (code : Nat) : Option FloatFmt :=
  [fp32, bf16, fp16, e4m3, e5m2, e3m2, e2m3, e2m1][code]?

/-- Bits per element of a format code (Table 3.1), 0 for a reserved code. -/
def fmtBits (code : Nat) : Nat := [32, 16, 16, 8, 8, 6, 6, 4, 8, 4, 8, 4, 32].getD code 0

/-- Whether a format may carry E8M0 group scales (Table 3.1). -/
def canGroup (code : Nat) : Bool := 3 ≤ code && code ≤ 9

def isCodebook (code : Nat) : Bool := code = 10 || code = 11
def isInt (code : Nat) : Bool := code = 8 || code = 9

/-- Exponent of the smallest normal value. -/
def FloatFmt.emin (f : FloatFmt) : Int := 1 - (f.bias : Int)

/-- Largest exponent of a finite value. -/
def FloatFmt.emax (f : FloatFmt) : Int :=
  if f.special = 1 then (2 ^ f.eBits - 2 : Nat) - (f.bias : Int) else (2 ^ f.eBits - 1 : Nat) - (f.bias : Int)

/-- Largest finite significand, in units of 2^(emax − mBits): E4M3 loses its all-ones pattern (Table 3.2). -/
def FloatFmt.maxSig (f : FloatFmt) : Nat := 2 ^ (f.mBits + 1) - (if f.special = 2 then 2 else 1)

def FloatFmt.maxVal (f : FloatFmt) (neg : Bool) : Val := .fin neg f.maxSig (f.emax - f.mBits)

/-- The value of an encoding (R67); every NaN encoding is NaN (R68). -/
def FloatFmt.decode (f : FloatFmt) (w : Nat) : Val :=
  let m := w % 2 ^ f.mBits
  let e := (w >>> f.mBits) % 2 ^ f.eBits
  let s := (w >>> (f.mBits + f.eBits)) % 2 = 1
  if f.special = 1 ∧ e = 2 ^ f.eBits - 1 then (if m = 0 then .inf s else .nan)
  else if f.special = 2 ∧ e = 2 ^ f.eBits - 1 ∧ m = 2 ^ f.mBits - 1 then .nan
  else if e = 0 then mkFin s m (f.emin - f.mBits)
  else .fin s (2 ^ f.mBits + m) ((e : Int) - f.bias - f.mBits)

/-- floor(log2 (num ÷ den × 2^e)) of a positive ratio. -/
def floorLog2 (num den : Nat) (e : Int) : Int :=
  let d : Int := (Nat.log2 num : Int) - (Nat.log2 den : Int)
  let ok := if 0 ≤ d then decide (den <<< d.toNat ≤ num) else decide (den ≤ num <<< (-d).toNat)
  (if ok then d else d - 1) + e

/-- floor(num ÷ den × 2^k). -/
def scaleFloor (num den : Nat) (k : Int) : Nat :=
  if 0 ≤ k then (num <<< k.toNat) / den else num / (den <<< (-k).toNat)

/-- Exponent of the grid unit at a positive ratio: exponent unbounded above, subnormal grid below (R71, R73). -/
def FloatFmt.unitExp (f : FloatFmt) (num den : Nat) (e : Int) : Int :=
  max (floorLog2 num den e) f.emin - f.mBits

/-- Round to nearest, ties away from zero, onto the format's grid with the exponent unbounded above (R71 to R73). -/
def FloatFmt.round (f : FloatFmt) : Ex → Val
  | .nan => .nan
  | .inf s => .inf s
  | .zero s => .zero s
  | .ratio s n d e =>
    let u := f.unitExp n d e
    mkFin s ((scaleFloor n d (e + 1 - u) + 1) / 2) u

/-- Whether a value on the grid exceeds the largest finite value of the format (R74). -/
def FloatFmt.exceeds (f : FloatFmt) : Val → Bool
  | .fin _ m e =>
    let k := e - (f.emax - f.mBits)
    if 0 ≤ k then decide (f.maxSig < m <<< k.toNat) else decide (f.maxSig <<< (-k).toNat < m)
  | _ => false

/-- Stochastic rounding of a finite value with the 32-bit draw u (R82). -/
def FloatFmt.roundSR (f : FloatFmt) (u32 : Nat) : Ex → Val
  | .ratio s n d e =>
    let u := f.unitExp n d e
    let lo := scaleFloor n d (e - u)
    let f32 := scaleFloor n d (e - u + 32) % 2 ^ 32
    let exact := decide (scaleFloor n d (e - u) * d * 2 ^ (u - e).toNat = n * 2 ^ (e - u).toNat)
    if exact then mkFin s lo u
    else mkFin s (if 2 ^ 32 ≤ f32 + u32 then lo + 1 else lo) u
  | x => f.round x

/-- Rounding into a format whose overflow gives infinity (R109, R258, R290; vector results, log 22). -/
def FloatFmt.roundInf (f : FloatFmt) (x : Ex) : Val :=
  let r := f.round x
  if f.exceeds r then (match r with | .fin s _ _ => .inf s | v => v) else r

/-- The encoding of a value on the format's grid (R67, R68). -/
def FloatFmt.encode (f : FloatFmt) : Val → Nat
  | .nan => if f.special = 1 then (2 ^ f.eBits - 1) <<< f.mBits ||| 2 ^ (f.mBits - 1)
            else if f.special = 2 then 2 ^ (f.mBits + f.eBits) - 1 else 0
  | .inf s => b2n s <<< (f.mBits + f.eBits) ||| (2 ^ f.eBits - 1) <<< f.mBits
  | .zero s => b2n s <<< (f.mBits + f.eBits)
  | .fin s m e =>
    let l := floorLog2 m 1 e
    let top := b2n s <<< (f.mBits + f.eBits)
    if l < f.emin then top ||| scaleFloor m 1 (e - (f.emin - f.mBits))
    else top ||| ((l + f.bias).toNat <<< f.mBits) ||| (scaleFloor m 1 (e - (l - f.mBits)) % 2 ^ f.mBits)

def noCount : Counted := ⟨false, false, false, false, false⟩

/-- Range of an ungrouped integer format (R69). -/
def intRange (code : Nat) : Int × Int :=
  if code = 8 then (-128, 127) else if code = 9 then (-8, 7) else (-2147483648, 2147483647)

/-- Ties-away rounding of a finite exact value to an integer (R76). -/
def roundInt : Ex → Int
  | .ratio s n d e =>
    let q := (scaleFloor n d (e + 1) + 1) / 2
    if s then -(q : Int) else q
  | _ => 0

/-- Two's-complement pattern of an integer in a format of `w` bits. -/
def intPattern (w : Nat) (v : Int) : Nat := (v % (2 ^ w : Nat)).toNat

def intOfPattern (w v : Nat) : Int := if 2 ^ (w - 1) ≤ v then (v : Int) - 2 ^ w else v

/-- Result and counts of a rounded value in a format, by Table 3.3 (R74, R75). -/
def FloatFmt.finish (f : FloatFmt) (ovfInf : Bool) (src : Ex) (r : Val) : Nat × Counted :=
  let sgn (s : Bool) : Counted := { noCount with posInf := !s, negInf := s }
  match src with
  | .nan => (f.encode .nan, { noCount with nan := true })
  | .inf s =>
    if f.special = 1 then (f.encode (.inf s), sgn s)
    else if f.special = 2 ∧ ovfInf then (f.encode .nan, sgn s)
    else (f.encode (f.maxVal s), { noCount with saturated := true })
  | _ =>
    if f.exceeds r then
      match r with
      | .fin s _ _ =>
        if f.special = 1 ∧ ovfInf then (f.encode (.inf s), { sgn s with overflow := true })
        else if f.special = 2 ∧ ovfInf then (f.encode .nan, { sgn s with overflow := true })
        else (f.encode (f.maxVal s), { noCount with overflow := true, saturated := true })
      | v => (f.encode v, noCount)
    else (f.encode r, noCount)

/-- Conversion of an exact value into a floating or ungrouped integer format (R74, R76, R78, R79). -/
def convert (code : Nat) (ovfInf : Bool) (x : Ex) : Nat × Counted :=
  match floatOf code with
  | some f => f.finish ovfInf x (f.round x)
  | none =>
    let w := fmtBits code
    let (lo, hi) := intRange code
    match x with
    | .nan => (0, { noCount with nan := true })
    | .inf s => (intPattern w (if s then lo else hi), { noCount with saturated := true })
    | y =>
      let v := roundInt y
      if v < lo then (intPattern w lo, { noCount with overflow := true, saturated := true })
      else if hi < v then (intPattern w hi, { noCount with overflow := true, saturated := true })
      else (intPattern w v, noCount)

/-- Stochastic conversion into a floating format (R80, R82). -/
def convertSR (code : Nat) (ovfInf : Bool) (u : Nat) (x : Ex) : Nat × Counted :=
  match floatOf code with
  | some f => f.finish ovfInf x (f.roundSR u x)
  | none => convert code ovfInf x

/-- The value of an element's bits without group scale; codebook indices decode to their BF16 entry (R67, R69, R78, R99). -/
def elemVal (code w : Nat) (book : Nat → Nat) : Val :=
  match floatOf code with
  | some f => f.decode w
  | none =>
    if isCodebook code then bf16.decode (book w)
    else
      let v := intOfPattern (fmtBits code) w
      mkFin (decide (v < 0)) v.natAbs 0

/-! ### E8M0 group scales (R84 to R88) -/

/-- Group size of a group code; 0 means ungrouped (R85). -/
def groupSize (g : Nat) : Nat := if g = 1 then 32 else if g = 2 then 64 else if g = 3 then 128 else 0

/-- Fixed factor exponent of grouped integers (R69). -/
def intFactor (code : Nat) : Int := if code = 8 then -6 else if code = 9 then -2 else 0

/-- A grouped element's value under its scale byte (R84, R86). -/
def groupedVal (code w scale : Nat) : Val :=
  if scale = 255 then .nan
  else (elemVal code w fun _ => 0).scale2 ((scale : Int) - 127 + intFactor code)

/-- emax of Table 3.6. -/
def groupEmax (code : Nat) : Int :=
  if code = 3 then 8 else if code = 4 then 15 else if code = 5 then 4
  else if code = 6 then 2 else if code = 7 then 2 else 0

/-- |a| < |b| for values; infinities above, zeros below, NaN never. -/
def magLt : Val → Val → Bool
  | .fin _ m e, .fin _ n k => if e ≤ k then decide (m < n <<< (k - e).toNat) else decide (m <<< (e - k).toNat < n)
  | .zero _, .fin _ _ _ => true
  | .zero _, .inf _ => true
  | .fin _ _ _, .inf _ => true
  | _, _ => false

/-- The largest magnitude among finite values, zero when none (R88 step 1). -/
def amax (vs : List Val) : Val :=
  vs.foldl (fun a v => if v.isFin && magLt a v then v else a) (.zero false)

/-- The scale byte of a group (R88 steps 1 to 5). -/
def groupScale (code : Nat) (vs : List Val) : Nat :=
  if vs.any Val.isNan then 255
  else if vs.any Val.isInf && !(code = 3 || code = 4) then 255
  else match amax vs with
    | .fin _ m e => (max (-127) (min 127 (floorLog2 m 1 e - groupEmax code)) + 127).toNat
    | _ => 127

/-- One element of a grouped conversion (R88 steps 6 and 7, step 3 for infinities). -/
def groupElem (code scale : Nat) (ovfInf : Bool) (v : Val) : Nat × Counted :=
  if scale = 255 then (0, { noCount with nan := true })
  else
    let x := (v.scale2 (127 - (scale : Int) - intFactor code)).ex
    match v with
    | .inf _ => convert code ovfInf x
    | _ => convert code false x

/-- A grouped conversion: scale byte and elements with their counts (R88). -/
def quantGroup (code : Nat) (ovfInf : Bool) (vs : List Val) : Nat × List (Nat × Counted) :=
  let s := groupScale code vs
  (s, vs.map (groupElem code s ovfInf))

/-! ### Codebooks (R97 to R103) -/

/-- A codebook entry in its lane format code (R98, R99): finite overflow saturates, E4M3 infinities become ±448. -/
def laneEntry (lane : Nat) (entry : Nat) : Val :=
  match floatOf lane with
  | some f => f.decode (convert lane false (bf16.decode entry).ex).1
  | none => bf16.decode entry

/-- Lane format code of a codebook operand with a partner format (Table 3.7); none where it is not legal.
CB4 with CB4 uses BF16 entries through the product table. -/
def laneFormat (book partner : Nat) : Option Nat :=
  if book = 11 then
    if partner = 11 then some 1
    else if partner = 1 then some 1
    else if partner = 2 then some 2
    else if (3 ≤ partner && partner ≤ 7) || partner = 10 then some 3
    else none
  else if book = 10 then
    if partner = 1 || partner = 2 || (3 ≤ partner && partner ≤ 7) || partner = 10 || partner = 11 then some 3 else none
  else none

/-- Exact difference magnitude comparison |x − a| ? |x − b|, as an ordering: a, b dyadic. -/
def signedAt (u : Int) : Val → Int
  | .fin s m e => let q : Int := (m <<< (e - u).toNat : Nat); if s then -q else q
  | _ => 0

def minExp (vs : List Val) : Int :=
  vs.foldl (fun u v => match v with | .fin _ _ e => min u e | _ => u) 0

/-- Whether candidate entry b beats the best so far a for x, by R102; a infinite entry is farther than any finite one. -/
def bookBetter (x a b : Val) : Bool :=
  if b.isNan then false
  else if a.isNan then true
  else if b.isInf && a.isInf then (a.neg? && !b.neg?)
  else if b.isInf then false
  else if a.isInf then true
  else
    let u := minExp [x, a, b]
    let xi := signedAt u x
    let da := (xi - signedAt u a).natAbs
    let db := (xi - signedAt u b).natAbs
    if db < da then true
    else if da < db then false
    else if magLt a b then true
    else if magLt b a then false
    else (a.neg? && !b.neg?)

/-- Whether entry b is larger (up) or smaller than a, for infinite sources (R103). -/
def bookBeyond (up : Bool) (a b : Val) : Bool :=
  if b.isNan then false
  else if a.isNan then true
  else
    let gt (p q : Val) : Bool :=          -- p > q
      if p.neg? != q.neg? then q.neg? && !(p.isZero && q.isZero)
      else if p.neg? then magLt p q else magLt q p
    if up then gt b a else gt a b

/-- The index that quantises x to a codebook of decoded entries, and whether one NaN is counted (R102, R103). -/
def quantBook (entries : List Val) (x : Val) : Nat × Bool :=
  let pick (better : Val → Val → Bool) : Nat :=
    (entries.foldl (fun (st : Nat × Nat × Val) v =>
      if better st.2.2 v then (st.1 + 1, st.1, v) else (st.1 + 1, st.2.1, st.2.2)) (0, 0, Val.nan)).2.1
  if entries.all Val.isNan then (0, !x.isNan)
  else match x with
    | .nan =>
      match entries.findIdx? Val.isNan with
      | some i => (i, false)
      | none => (pick (bookBetter (.zero false)), true)
    | .inf s => (pick (bookBeyond (!s)), false)
    | v => (pick (bookBetter v), false)

/-! ### Packing (R70, R87) -/

/-- Bytes of one row of `cols` elements (R70). -/
def rowBytes (code cols : Nat) : Nat :=
  let b := fmtBits code
  if b = 4 then (cols + 1) / 2 else if b = 6 then 3 * ((cols + 3) / 4) else cols * (b / 8)

/-- Scale bytes of one row (R87). -/
def scaleBytes (group cols : Nat) : Nat := if groupSize group = 0 then 0 else ceilDiv cols (groupSize group)

/-- Unpacks `n` elements of a row as a little-endian bit string (R70; 6-bit elements fill 3-byte words the same way). -/
def unpack (b : Nat) : Nat → Nat → List Nat
  | 0, _ => []
  | n + 1, v => v % 2 ^ b :: unpack b n (v >>> b)

def unpackRow (code n : Nat) (bs : Bytes) : List Nat := unpack (fmtBits code) n (leNat bs)

def packNat (b : Nat) : List Nat → Nat
  | [] => 0
  | x :: r => x + (packNat b r <<< b)

/-- Packs one row (R70). -/
def packRow (code : Nat) (es : List Nat) : Bytes :=
  natLE (rowBytes code es.length) (packNat (fmtBits code) es)

/-! ### Hadamard rotation (R93) -/

def rotateLen (code : Nat) : Nat :=
  if code = 0 then 0 else if code = 1 then 32 else if code = 2 then 64 else if code = 3 then 128 else 256

def rotateLog (code : Nat) : Nat :=
  if code = 0 then 0 else if code = 1 then 5 else if code = 2 then 6 else if code = 3 then 7 else 8

end Sys2Proof.Machine
end

