-- ==== Sys2Proof/Machine/Arith.lean ====
section
/-! DEFINITION. Exact sums and products, and FP32 vector operations that round once (spec/05 R149, R150). -/
namespace Sys2Proof.Machine
open Sys2Proof

/-- Exact sum of two values; an exact cancellation is +0 (log 23). -/
def vAdd : Val → Val → Val
  | .nan, _ => .nan
  | _, .nan => .nan
  | .inf a, .inf b => if a = b then .inf a else .nan
  | .inf a, _ => .inf a
  | _, .inf b => .inf b
  | .zero a, .zero b => .zero (a && b)
  | .zero _, y => y
  | x, .zero _ => x
  | .fin a m e, .fin b n k =>
    let u := min e k
    let p : Int := (m <<< (e - u).toNat : Nat)
    let q : Int := (n <<< (k - u).toNat : Nat)
    let t := (if a then -p else p) + (if b then -q else q)
    if t = 0 then .zero false else .fin (decide (t < 0)) t.natAbs u

def vNeg : Val → Val
  | .inf s => .inf (!s)
  | .zero s => .zero (!s)
  | .fin s m e => .fin (!s) m e
  | .nan => .nan

def vAbs : Val → Val
  | .inf _ => .inf false
  | .zero _ => .zero false
  | .fin _ m e => .fin false m e
  | .nan => .nan

/-- Exact product; infinity times zero is NaN. -/
def vMul : Val → Val → Val
  | .nan, _ => .nan
  | _, .nan => .nan
  | .inf _, .zero _ => .nan
  | .zero _, .inf _ => .nan
  | .inf a, y => .inf (a != y.neg?)
  | x, .inf b => .inf (x.neg? != b)
  | .zero a, y => .zero (a != y.neg?)
  | x, .zero b => .zero (x.neg? != b)
  | .fin a m e, .fin b n k => .fin (a != b) (m * n) (e + k)

/-- Exact quotient as a source of one rounding. -/
def vDiv : Val → Val → Ex
  | .nan, _ => .nan
  | _, .nan => .nan
  | .inf _, .inf _ => .nan
  | .zero _, .zero _ => .nan
  | .inf a, y => .inf (a != y.neg?)
  | x, .inf b => .zero (x.neg? != b)
  | .zero a, y => .zero (a != y.neg?)
  | x, .zero b => .inf (x.neg? != b)
  | .fin a m e, .fin b n k => .ratio (a != b) m n (e - k)

/-- Whether x < y as numbers; false with NaN, and −0 equals +0. -/
def vLt (x y : Val) : Bool :=
  match x, y with
  | .nan, _ => false
  | _, .nan => false
  | .zero _, .zero _ => false
  | _, _ =>
    if x.neg? && !y.neg? then true
    else if !x.neg? && y.neg? then false
    else if x.neg? then magLt y x else magLt x y

def vMax (x y : Val) : Val :=
  match x, y with
  | .nan, _ => .nan
  | _, .nan => .nan
  | .zero a, .zero b => .zero (a && b)
  | _, _ => if vLt x y then y else x

def vMin (x y : Val) : Val :=
  match x, y with
  | .nan, _ => .nan
  | _, .nan => .nan
  | .zero a, .zero b => .zero (a || b)
  | _, _ => if vLt y x then y else x

/-- One rounding into FP32, infinite on overflow (R71, R149; log 22). -/
def rnd (x : Val) : Val := fp32.roundInf x.ex
def rndEx (x : Ex) : Val := fp32.roundInf x

def dec32 (w : F32) : Val := fp32.decode w.toNat
def enc32 (v : Val) : F32 := BitVec.ofNat 32 (fp32.encode v)

/-- An integer as a value. -/
def vInt (i : Int) : Val := mkFin (decide (i < 0)) i.natAbs 0

def vOne : Val := .fin false 1 0
def vZero : Val := .zero false

def rAdd (x y : Val) : Val := rnd (vAdd x y)
def rSub (x y : Val) : Val := rnd (vAdd x (vNeg y))
def rMul (x y : Val) : Val := rnd (vMul x y)
def rDiv (x y : Val) : Val := rndEx (vDiv x y)
/-- x × y + z with one rounding. -/
def rFma (x y z : Val) : Val := rnd (vAdd (vMul x y) z)

/-- Clamps to [lo, hi]; NaN stays. -/
def vClamp (lo hi x : Val) : Val := if vLt x lo then lo else if vLt hi x then hi else x

/-! ### Tree reductions (R150) -/

/-- One stage: neighbours combine at the lower index. -/
def pairUp (f : Val → Val → Val) : List Val → List Val
  | a :: b :: r => f a b :: pairUp f r
  | [a] => [a]
  | [] => []

def treeFold (f : Val → Val → Val) : Nat → List Val → List Val
  | 0, l => l
  | n + 1, l => treeFold f n (pairUp f l)

/-- Pads to the next power of two and combines in log2 stages (R150). -/
def treeWith (f : Val → Val → Val) (pad : Val) (l : List Val) : Val :=
  let n := pow2Up l.length
  ((treeFold f (Nat.log2 n) (l ++ List.replicate (n - l.length) pad)).head?).getD pad

def treeSum (l : List Val) : Val := treeWith rAdd vZero l
def treeMax (l : List Val) : Val := treeWith vMax (.inf true) l

end Sys2Proof.Machine
end

