-- ==== Sys2Proof/Machine/Contract.lean ====
section
/-! DEFINITION. Commands, their tests, their order and their completions (spec/12 R387 to R409, spec/13 R413 to R420). -/
namespace Sys2Proof.Machine
open Sys2Proof

/-! ### Descriptor fields (Table 12.4) -/

def cOp (c : Cmd) : Nat := rd c.desc 0 2
def cCat (c : Cmd) : Nat := rd c.desc 1 1
def cFlags (c : Cmd) : Nat := rd c.desc 2 2
def cTag (c : Cmd) : Nat := rd c.desc 4 4
def cFunction (c : Cmd) : Nat := rd c.desc 8 1
def cTarget (c : Cmd) : Coord := coordOf c.desc 9
def cPayLen (c : Cmd) : Nat := rd c.desc 24 8
def cFence (c : Cmd) : Bool := bit (cFlags c) 0
def cPhys (c : Cmd) : Bool := bit (cFlags c) 1
def cImmediate (c : Cmd) : Bool := bit (cFlags c) 2
/-- An inline parameter: `n` bytes at descriptor offset `off` (R413). -/
def cArg (c : Cmd) (off n : Nat) : Nat := rd c.desc off n

/-- The compute function that a command names: `job_function` for SNAP on ring 6, else `function` (R432). -/
def cJobFn (c : Cmd) : Nat := if c.ring = 6 ∧ cCat c = 6 then bits (cFlags c) 11 8 else cFunction c

/-- Its index: F1 is 0. -/
def cIx (c : Cmd) : Nat := cJobFn c - 1

def isBroadcast (c : Cmd) : Bool := (slice c.desc 9 4).any fun b => decide (b = 0xFF)

/-! ### Replies and completions (R398, R414) -/

/-- What a command answers: status, reason, beats of `retry_after`, effective bytes 16 to 31 and a result (R398, R414). -/
structure Reply where
  status : Nat
  reason : Nat
  retry : Nat
  eff : Bytes
  res : Option Bytes
  deriving DecidableEq, Repr

def replyOk (eff : Bytes) : Reply := ⟨0, 0, 0, eff, none⟩
def replyAccepted (eff : Bytes) : Reply := ⟨1, 0, 0, eff, none⟩
def replyDeferred (eff : Bytes) : Reply := ⟨3, 0, 0, eff, none⟩
def replyFailed (reason : Nat) (eff : Bytes) : Reply := ⟨7, reason, 0, eff, none⟩
def replyRes (eff res : Bytes) : Reply := ⟨0, 0, 0, eff, some res⟩
/-- `BUSY`: beats clamped to 1 to 65,535 (R398). -/
def replyBusy (beats : Nat) : Reply := ⟨2, 0, clamp 1 65535 beats, [], none⟩
/-- `REFUSED` with a reason, the refusing offset (0xFFFF for a state) and the function state (R417). -/
def replyRefused (s : State) (c : Cmd) (reason off : Nat) : Reply :=
  let st := if 1 ≤ cJobFn c ∧ cJobFn c ≤ 4 then fnState s (cIx c) else 0
  ⟨4, reason, 0, natLE 2 off ++ natLE 1 st ++ natLE 1 reason, none⟩
/-- `ABSENT` with the missing address, coordinate and function (R417). -/
def replyAbsent (addr : Nat) (coord : Coord) (fn : Nat) : Reply :=
  ⟨6, 0, 0, natLE 8 addr ++ coordBytes coord ++ natLE 1 fn, none⟩

def isInterim (status : Nat) : Bool := status = 1 || status = 3

/-- Whether the result area is too short for a full result (R414). -/
def tooShort (c : Cmd) (res : Option Bytes) : Bool :=
  match res with
  | some r => decide (cArg c 48 8 ≠ 0) && decide (cArg c 56 8 < r.length)
  | none => false

/-- The effective bytes 16 to 31, with the full result size in 24 to 31 (R414). -/
def effOf (r : Reply) : Bytes :=
  match r.res with
  | some x => fit 8 r.eff ++ natLE 8 x.length
  | none => fit 16 r.eff

def reasonOf (c : Cmd) (r : Reply) : Nat := if r.status = 0 ∧ tooShort c r.res then 1 else r.reason

/-- The bytes that reach the result area (R413, R414). -/
def areaBytes (c : Cmd) (r : Reply) : Bytes :=
  if cArg c 48 8 = 0 then [] else (r.res.getD []).take (cArg c 56 8)

/-- A completion (Table 12.7). -/
def cplBytes (tag status reason retry beat : Nat) (eff : Bytes) : Bytes :=
  natLE 4 tag ++ natLE 1 status ++ natLE 1 reason ++ natLE 2 retry ++ natLE 8 beat ++ fit 16 eff

/-! ### Flights -/

def flightOf (s : State) (req : Nat) : Option Flight := s.mbx.flights.find? fun f => decide (f.cmd.req = req)

def setFlight (s : State) (req : Nat) (g : Flight → Flight) : State :=
  { s with mbx := { s.mbx with flights := s.mbx.flights.map fun f => if f.cmd.req = req then g f else f } }

def dropFlight (s : State) (req : Nat) : State :=
  { s with mbx := { s.mbx with flights := s.mbx.flights.filter fun f => !decide (f.cmd.req = req) } }

/-- Puts a completion into the queue of its ring (R390). -/
def holdCpl (s : State) (x : Cpl) : State := { s with mbx := { s.mbx with held := s.mbx.held ++ [x] } }

/-- Prefix bytes 1 to 3 of a FORWARD message: the linear rank of its destination, all ones for the bridge, wherever it is (log 26). -/
def forwardRank (s : State) (dst : Coord) : Nat := if dst = noCoord then 2 ^ 24 - 1 else coordRank (mapLengths s) dst

/-- Ports on which a FORWARD message leaves. -/
def forwardPorts (s : State) (dst : Coord) : List Nat :=
  if dst = noCoord then bridgePorts s
  else match routeTo s dst with | some c => [portIndex c] | none => bridgePorts s

/-- A FORWARD message to a device (Table 12.11). Its origin is the physical coordinate, with a job loaded too (log 153). -/
def forwardTo (s : State) (dst : Coord) (req kind ring piece : Nat) (bridge : Coord) (data : Bytes) : State :=
  emitMsg s (forwardPorts s dst) ⟨8, forwardRank s dst, s.eng.beat, selfPhys s,
    natLE 4 req ++ natLE 1 kind ++ natLE 1 ring ++ zeros 2 ++ natLE 4 piece ++ coordBytes bridge ++ data⟩

/-- Whether a port has data-phase time in this beat that no planned slice uses, for one piece (R409): certainly where no job
is loaded, else a free value (log 108). -/
def spareTime (s : State) (port req piece : Nat) : Bool :=
  s.fns.all (fun x => x.job.isNone) || Config.spareDataTime s.eng.beat port req piece

/-- Hops to a physical coordinate, axis by axis the shorter way (R295). -/
def physHops (s : State) (dst : Coord) : Nat :=
  sumNat (([0, 1, 2, 3] : List Nat).map fun a =>
    (shortWay (coordOn (mapLengths s) a) (coordOn (selfPhys s) a) (coordOn dst a) (lineGap s a)).1)

/-- One piece: an item of class 6 in spare data-phase time, else a FORWARD message (R405, R409). -/
def forwardPiece (s : State) (dst : Coord) (req kind ring piece : Nat) (bridge : Coord) (data : Bytes) : State :=
  match flightOf s req, routeTo s dst with
  | some f, some p =>
    let item := natLE 4 req ++ natLE 1 kind ++ natLE 1 ring ++ zeros 2 ++ natLE 4 piece ++ coordBytes bridge ++ data
    if dst ≠ noCoord ∧ (kind = 1 ∨ !isBroadcast f.cmd) ∧ spareTime s (portIndex p) req piece then
      sendItem s (portIndex p) (natLE 1 6 ++ natLE 1 (physHops s dst) ++ natLE 1 (cFunction f.cmd) ++ zeros 1 ++ coordBytes (itemCoord s (fnIx (cFunction f.cmd)) dst)
        ++ natLE 4 item.length ++ zeros 4) item
    else forwardTo s dst req kind ring piece bridge data
  | _, _ => forwardTo s dst req kind ring piece bridge data

/-- Pieces of 4,096 bytes (R405). -/
def forwardPieces (s : State) (dst : Coord) (req kind ring first : Nat) (bridge : Coord) (data : Bytes) : State :=
  ((List.range (ceilDiv data.length 4096)).foldl (fun s i =>
    forwardPiece s dst req kind ring (first + i) bridge ((data.drop (4096 * i)).take 4096)) s)

/-- The order in which R407 chooses a broadcast's final status. -/
def statusOrder : List Nat := [7, 8, 6, 4, 5, 0]

/-- The final reply of a broadcast from its targets in ascending rank (R407). -/
def broadcastReply (ts : List Target) : Reply :=
  let st (t : Target) : Nat := (t.final.getD (0, [])).1 % 256
  let status := ((statusOrder.find? fun k => ts.any fun t => decide (st t = k))).getD 0
  let first := ts.find? fun t => decide (st t = status)
  let bad := ts.filter fun t => !decide (st t = 0)
  let eff := match first with | some t => fit 8 (t.final.getD (0, [])).2 | none => zeros 8
  let reason := match first with | some t => (t.final.getD (0, [])).1 / 256 | none => 0
  let low := match bad.head? with | some t => coordBytes t.coord | none => natLE 4 0xFFFFFFFF
  ⟨status, reason, 0, eff ++ natLE 4 bad.length ++ low, none⟩

/-- The result area of a broadcast: one part per target (R415). -/
def broadcastArea (c : Cmd) (ts : List Target) : Bytes :=
  (ts.map fun t =>
    coordBytes t.coord ++ natLE 2 (t.final.getD (0, [])).1 ++ zeros 2 ++ fit 16 (t.final.getD (0, [])).2 ++ zeros 8
      ++ fit (cArg c 56 8) t.result).flatten

/-- Writes the host completion of a flight whose targets have answered, when it is due (R407). -/
def settle (s : State) (req : Nat) : State :=
  match flightOf s req with
  | none => s
  | some f =>
    let c := f.cmd
    let ts := sortBy (fun t => t.rank) f.targets
    if ts.all (fun t => t.final.isSome) then
      let s := setFlight s req fun f => { f with phase := .final }
      if isBroadcast c then
        let r := broadcastReply ts
        let area := if cArg c 48 8 = 0 then [] else broadcastArea c ts
        holdCpl s ⟨c.ring, req, cplBytes (cTag c) r.status r.reason 0 s.eng.beat r.eff, area, cArg c 48 8, true⟩
      else
        match ts.head? with
        | some t =>
          let w := (t.final.getD (0, [])).1
          holdCpl s ⟨c.ring, req, cplBytes (cTag c) (w % 256) (w / 256 % 256) (w / 65536) s.eng.beat (t.final.getD (0, [])).2,
            (if cArg c 48 8 = 0 then [] else t.result.take (cArg c 56 8)), cArg c 48 8, true⟩
        | none => s
    else if !f.interimSent && ts.all (fun t => t.final.isSome || t.interim.isSome) && ts.any (fun t => t.interim.isSome) then
      let st := if ts.any (fun t => decide ((t.interim.getD (0, [])).1 = 3)) then 3 else 1
      let eff := match ts.find? (fun t => t.interim.isSome) with | some t => (t.interim.getD (0, [])).2 | none => []
      let s := setFlight s req fun f => { f with interimSent := true }
      holdCpl s ⟨c.ring, req, cplBytes (cTag c) st 0 0 s.eng.beat eff, [], 0, false⟩
    else s

/-- Records one target's completion at the bridge (R407): a target of a broadcast that answers BUSY is asked again. -/
def recordTarget (s : State) (req : Nat) (coord : Coord) (status reason retry : Nat) (eff result : Bytes) : State :=
  let upd (f : Flight) (t : Target) : Target :=
    if t.coord ≠ coord then t
    else if isInterim status then { t with interim := some (status, fit 16 eff) }
    else if status = 2 ∧ isBroadcast f.cmd then { t with retryAt := some (s.eng.beat + retry), result := [] }
    else { t with final := some (status + 256 * reason + 65536 * retry, fit 16 eff), result := t.result ++ result, retryAt := none }
  settle (setFlight s req fun f => { f with targets := f.targets.map (upd f) }) req

/-- The coordinate by which a command's completion names this device: logical with a loaded job unless `phys` (R394). -/
def ownName (s : State) (c : Cmd) : Coord :=
  if cPhys c then selfPhys s else
  match jobAt s (cIx c) with
  | some j => if 1 ≤ cFunction c ∧ cFunction c ≤ 4 then j.coord else selfPhys s
  | none => selfPhys s

/-- Gives a reply of this device to a command (R398 to R400, R405 to R407). -/
def answer (s : State) (c : Cmd) (r : Reply) : State :=
  let eff := effOf r
  let reason := reasonOf c r
  match flightOf s c.req with
  | none => s
  | some f =>
    if f.phase = .final then s
    else
      let s1 := setFlight s c.req fun f => { f with phase := if isInterim r.status then .interim else .final }
      match f.bridge with
      | some b =>
        let bytes := cplBytes (cTag c) r.status reason r.retry s.eng.beat eff
        let s2 := if isInterim r.status then s1 else forwardPieces s1 b c.req 2 c.ring 0 b (areaBytes c r)
        let s3 := forwardTo s2 b c.req 3 c.ring 0 b bytes
        if isInterim r.status then s3
        else { s3 with mbx := { s3.mbx with kept := s3.mbx.kept ++ [⟨c.ring, c.req, bytes, areaBytes c r, cArg c 48 8, true⟩] } }
      | none =>
        if f.targets.isEmpty then
          holdCpl s1 ⟨c.ring, c.req, cplBytes (cTag c) r.status reason r.retry s.eng.beat eff, areaBytes c r, cArg c 48 8,
            !isInterim r.status⟩
        else
          let s2 := setFlight s c.req fun f =>
            { f with phase := if isInterim r.status then .interim else if r.status = 2 ∧ isBroadcast c then .fetched else .interim }
          recordTarget s2 c.req (ownName s c) r.status reason r.retry eff (areaBytes c r)

/-- A reply to a command known by its request number. -/
def answerReq (s : State) (req : Nat) (r : Reply) : State :=
  match flightOf s req with
  | some f => answer s f.cmd r
  | none => s

def answerOpt (s : State) (req : Option Nat) (r : Reply) : State :=
  match req with
  | some q => answerReq s q r
  | none => s

def answerAll (s : State) (reqs : List Nat) (r : Reply) : State := reqs.foldl (fun s q => answerReq s q r) s

/-! ### Tests (R392, R399) -/

/-- Commands per category of contract 1.0 (Table 12.6). -/
def opcodeKnown (op : Nat) : Bool :=
  let n := ([0, 6, 5, 5, 7, 4, 5, 4, 3, 2, 2, 2, 2] : List Nat).getD (op / 256) 0
  decide (1 ≤ op % 256) && decide (op % 256 ≤ n)

/-- Table 12.3. -/
def ringAccepts (ring op : Nat) : Bool :=
  let cat := op / 256
  if ring = 0 then true
  else if ring ≤ 4 then (cat = 3 && op != 0x0305) || cat = 4 || cat = 5 || cat = 6 || cat = 9 || cat = 10
  else if ring = 5 then cat = 7 || cat = 9
  else if ring = 6 then cat = 6 || cat = 9
  else if ring = 7 then op = 0x0305 || cat = 9
  else cat = 12 || cat = 9

def isJobBound (op : Nat) : Bool := let cat := op / 256; cat = 3 || cat = 4 || cat = 5 || cat = 6

/-- Whether function number n exists (Table 14.1, Table 14.2). -/
def functionExists (s : State) (n : Nat) : Bool :=
  n = 0 || (5 ≤ n && n ≤ 8) || (1 ≤ n && n ≤ 4 && fnExists s (n - 1))

/-- Tests 1 to 4 of R399 with R392, R412, R419 and R432, for this device as the target; none when all pass. A JOB.LOAD broadcast for a
function that this device's partition mode lacks is refused (R442); DEV.INFO is served in every state (R421; log 176). -/
def preTest (s : State) (c : Cmd) : Option Reply :=
  let op := cOp c
  let fn := cFunction c
  if !opcodeKnown op then some ⟨5, 0, 0, [1, 0], none⟩
  else if !functionExists s fn then
    some (if op = 0x0401 ∧ isBroadcast c ∧ fn ≤ 4 then replyRefused s c 2 0xFFFF else replyAbsent 0 ⟨255, 255, 255, 255⟩ fn)
  else if c.ring = 6 ∧ cCat c = 6 ∧ !(1 ≤ cJobFn c && cJobFn c ≤ 4 && functionExists s (cJobFn c)) then
    some (replyAbsent 0 ⟨255, 255, 255, 255⟩ (cJobFn c))
  else if op = 0x0101 ∧ ringAccepts c.ring op then none
  else if s.pow.state = 5 then some (replyFailed 0 [])
  else if s.pow.state ≠ 1 ∧ s.pow.state ≠ 2 then
    some (replyBusy (match s.flash.activation with
      | some e => if op = 0x0A01 ∨ op = 0x0105 then e - s.eng.beat else s.pow.readyBy - s.eng.beat
      | none => s.pow.readyBy - s.eng.beat))
  else if !ringAccepts c.ring op then some (replyRefused s c 3 0)
  else if c.ring ≠ 0 ∧ fn ≠ c.ring then some (replyRefused s c 3 8)
  else if (c.ring = 0 ∨ c.ring = 6) ∧ isJobBound op ∧ 1 ≤ cJobFn c ∧ cJobFn c ≤ 4 ∧ (fnAt s (cIx c)).confidential then
    some (replyRefused s c 3 0xFFFF)
  else if isJobBound op ∧ op ≠ 0x0305 ∧ !(1 ≤ cJobFn c && cJobFn c ≤ 4) then some (replyRefused s c 2 8)
  else if 1 ≤ cJobFn c ∧ cJobFn c ≤ 4 then
    match (fnAt s (cIx c)).reset with
    | some r => if op = 0x0901 then none else some (replyBusy (r.ends - s.eng.beat))
    | none =>
      match (fnAt s (cIx c)).molt with
      | some m => if op = 0x0901 then some (replyBusy (m.ends - s.eng.beat)) else some (replyRefused s c 2 0xFFFF)
      | none => none
  else
    match s.env.resets.find? (fun x => decide (x.1 = fn)) with
    | some (_, r) => if op = 0x0901 then none else some (replyBusy (r.ends - s.eng.beat))
    | none => none

/-! ### Order (R391) -/

/-- Whether an earlier command of the same ring keeps a command from starting (R391, R412; log entry 11). -/
def waitsFor (c : Cmd) (f : Flight) : Bool :=
  decide (f.cmd.ring = c.ring) &&
  (if cFence c then !decide (f.phase = .final)
   else decide (f.phase = .fetched) && decide (cFunction f.cmd = cFunction c) && decide (cTarget f.cmd = cTarget c)
     && decide (cCat f.cmd = cCat c))

/-- The flights fetched before a request. -/
def before (s : State) (req : Nat) : List Flight := s.mbx.flights.takeWhile fun f => !decide (f.cmd.req = req)

/-- Whether a control processor in reset holds the duty that a command of a category needs: CP0 every command, CP1 TIME, CP2 SNAP, CP3
TEL and PANEL (R22, Table 1.10; log 151). -/
def dutyHeld (s : State) (c : Cmd) : Bool :=
  cpDown s 0 || (cpDown s 1 && decide (cCat c = 8)) || (cpDown s 2 && decide (cCat c = 6)) ||
    (cpDown s 3 && (decide (cCat c = 9) || decide (cCat c = 11)))

/-- Whether a command may not start yet, or has started (R391, R405, R22). -/
def blocked (s : State) (c : Cmd) : Bool :=
  match flightOf s c.req with
  | none => dutyHeld s c
  | some f =>
    dutyHeld s c || !decide (f.phase = .fetched) || (before s c.req).any (waitsFor c) || (f.bridge.isSome && decide (f.moved < cPayLen c))

/-- Adds a command that no fetch or FORWARD has brought (log entry 11). -/
def track (s : State) (c : Cmd) : State :=
  match flightOf s c.req with
  | some _ => s
  | none => { s with mbx := { s.mbx with flights := s.mbx.flights ++ [⟨c, s.eng.beat, .fetched, none, [], false, 0⟩] } }

/-- Starts a command on this device: order, tests 1 to 4, then its own effect (R391, R399). -/
def startCmd (s : State) (c : Cmd) (body : State → State) : State :=
  let s := track s c
  if blocked s c then s
  else match preTest s c with
    | some r => answer s c r
    | none => body s

/-! ### Device status (Table 12.2) -/

def devStatus (s : State) : Nat :=
  s.pow.state + 16 * s.pow.stage + 256 * b2n s.fab.bridge + 512 * b2n s.mbx.armed + 1024 * b2n (molting s)
    + 2048 * b2n (s.fns.any fun x => x.confidential) + 65536 * (ringAt s 0).cmdHead + 2 ^ 32 * s.mbx.eventsLost

/-! ### Acceptance by function state (Table 13.3) -/

/-- Whether the state code is in a list; otherwise REFUSED with a reason. -/
def needState (s : State) (c : Cmd) (ok : List Nat) (body : State) : State :=
  if ok.contains (fnState s (cIx c)) then body else answer s c (replyRefused s c 2 0xFFFF)

/-- REFUSED with a reason and an offset unless a condition holds. -/
def unlessRefused (s : State) (c : Cmd) (ok : Bool) (reason off : Nat) (body : State) : State :=
  if ok then body else answer s c (replyRefused s c reason off)

end Sys2Proof.Machine
end

