-- ==== Sys2Proof/Machine/Forward.lean ====
section
/-! DEFINITION. Targets of commands, forwarding and the staging window (spec/12 R394, R405 to R409). -/
namespace Sys2Proof.Machine
open Sys2Proof

/-- Whether a target names a coordinate: 0xFF widens an axis (R394). -/
def targetNames (t c : Coord) : Bool :=
  ([0, 1, 2, 3] : List Nat).all fun a => decide (coordOn t a = 255) || decide (coordOn t a = coordOn c a)

/-- Whether this device reaches a physical coordinate of a live module (R399 test 2). -/
def reaches (s : State) (p : Coord) : Bool :=
  decide (p = selfPhys s) || ((liveModules s).any (fun m => decide (m.phys = p)) && !(intactPorts s).isEmpty)

/-- The devices that a command targets, in ascending linear rank (R394). -/
def resolveTargets (s : State) (c : Cmd) : List Target :=
  let t := cTarget c
  let mk (rank : Nat) (name phys : Coord) : Target := ⟨rank, name, phys, none, none, [], some 0⟩
  let physical : List Target :=
    ((liveModules s).filter fun m => targetNames t m.phys && reaches s m.phys).map fun m =>
      mk (coordRank (mapLengths s) m.phys) m.phys m.phys
  let all :=
    if cPhys c ∨ cFunction c = 0 ∨ 4 < cFunction c then physical
    else match jobAt s (cFunction c - 1) with
      | some j =>
        ((boxCoords j.lengths).filter fun l => targetNames t l && reaches s (logicalToPhys j l)).map fun l =>
          mk (coordRank j.lengths l) l (logicalToPhys j l)
      | none => physical
  sortBy (fun t => t.rank) all

/-! ### Members and the barrier tree (R304) -/

/-- Whether the module at a physical coordinate is lost, or absent for the membership of a job (R13, R358). -/
def physGone (s : State) (p : Coord) : Bool :=
  match s.fab.map with
  | some m => m.modules.any fun x => decide (x.phys = p) && (m.gone.contains x.serial || m.absent.contains x.serial)
  | none => false

/-- Whether the module at a physical coordinate serves a job no longer: the module is lost or absent, or its function was reset (R358, R445). -/
def memberGone (s : State) (j : Job) (p : Coord) : Bool := physGone s p || j.lost.contains p

/-- Live members of a job in ascending linear rank (R304). -/
def liveMembers (s : State) (j : Job) : List Coord :=
  (boxCoords j.lengths).filter fun c => !memberGone s j (logicalToPhys j c)

def jobRoot (s : State) (j : Job) : Coord := ((liveMembers s j).head?).getD ⟨0, 0, 0, 0⟩

/-- One hop from a coordinate toward another along an axis, the shorter way (R295). -/
def hopToward (n a b : Nat) (gap : Option Nat) : Nat :=
  if (shortWay n a b gap).2 = 0 then (a + 1) % max 1 n else (a + n - 1) % max 1 n

/-- The gap of this device's ring on a logical axis under the plan in force (R309). -/
def axisLine (j : Job) (a : Nat) : Option Nat := j.plan.bind fun p => p.map.lines.getD a none

/-- The parent on the barrier tree: along E to the root's e, then T, P, D. -/
def barrierParent (s : State) (j : Job) (c : Coord) : Option Coord :=
  let r := jobRoot s j
  (([0, 1, 2, 3] : List Nat).find? fun a => decide (coordOn c a ≠ coordOn r a)).map fun a =>
    coordPut c a (hopToward (coordOn j.lengths a) (coordOn c a) (coordOn r a) (axisLine j a))

def barrierKids (s : State) (j : Job) (c : Coord) : List Coord :=
  (liveMembers s j).filter fun x => decide (barrierParent s j x = some c)

def portsTo (s : State) (j : Job) (c : Coord) : List Nat :=
  match routeTo s (logicalToPhys j c) with
  | some p => [portIndex p]
  | none => []

/-- Sends the descriptor to every target that is due for it, again after BUSY (R405, R407); what came of the payload stays at
the target (log 108). -/
def dispatchFlight (s : State) (f : Flight) : State :=
  if cpDown s 0 || f.targets.isEmpty || f.bridge.isSome || (before s f.cmd.req).any (waitsFor f.cmd) then s
  else
    let due (t : Target) : Bool :=
      match t.retryAt with
      | some b => decide (b ≤ s.eng.beat) && !decide (t.phys = selfPhys s)
      | none => false
    let send (s : State) (t : Target) : State :=
      if due t then forwardTo s t.phys f.cmd.req 0 f.cmd.ring 0 (selfPhys s) f.cmd.desc else s
    let s1 := f.targets.foldl send s
    setFlight s1 f.cmd.req fun g =>
      { g with targets := g.targets.map fun t => if due t then { t with retryAt := none } else t,
               phase := if g.phase = .fetched ∧ !(g.targets.any fun t => decide (t.phys = selfPhys s)) then .interim else g.phase }

def dispatchFlights (s : State) : State := s.mbx.flights.foldl dispatchFlight s

/-! ### The way of a payload's pieces (R304, R408) -/

/-- The nearest target above a member on the barrier tree; none where the bridge itself feeds the member. -/
def feederFrom (s : State) (j : Job) (bridge : Coord) (ts : List Coord) : Nat → Coord → Option Coord
  | 0, _ => none
  | n + 1, c =>
    match barrierParent s j c with
    | none => none
    | some p =>
      if logicalToPhys j p = bridge then none
      else if ts.contains p then some (logicalToPhys j p)
      else feederFrom s j bridge ts n p

/-- From which target a target takes the pieces of a payload: the job's barrier tree for a broadcast to its members (R408). -/
def feederOf (s : State) (c : Cmd) (bridge : Coord) (ts : List Target) (t : Target) : Option Coord :=
  if !isBroadcast c ∨ cPhys c ∨ cFunction c = 0 ∨ 4 < cFunction c then none
  else match jobAt s (cFunction c - 1) with
    | some j => feederFrom s j bridge (ts.map (·.coord)) (j.lengths.e + j.lengths.t + j.lengths.p + j.lengths.d) t.coord
    | none => none

/-- The targets that take their pieces from a target, or (none) from the bridge itself. -/
def fedBy (s : State) (c : Cmd) (bridge : Coord) (ts : List Target) (who : Option Coord) : List Coord :=
  (ts.filter fun t => !decide (t.phys = bridge) && decide (feederOf s c bridge ts t = who)).map (·.phys)

/-- The targets that this device feeds, as a hub of the tree. -/
def fedHere (s : State) (f : Flight) : List Coord :=
  match f.bridge with
  | some b => fedBy s f.cmd b (resolveTargets s f.cmd) (some (selfPhys s))
  | none => []

/-- Acknowledges a chunk to the hub above, or to the bridge (R408). -/
def ackUp (s : State) (req : Nat) : State :=
  match flightOf s req with
  | some f =>
    match f.bridge with
    | some b =>
      let ts := resolveTargets s f.cmd
      let up := (ts.find? fun t => decide (t.phys = selfPhys s)).bind (feederOf s f.cmd b ts)
      forwardTo s (up.getD b) req 4 f.cmd.ring 0 b []
    | none => s
  | none => s

/-- Fills free halves of the staging window with the next chunks, in fetch order (R408). -/
def pumpFlight (s : State) (f : Flight) : State :=
  let first := fedBy s f.cmd (selfPhys s) f.targets none
  let moved := match flightOf s f.cmd.req with | some g => g.moved | none => f.cmd.payload.length
  if cpDown s 0 || first.isEmpty || decide (f.cmd.payload.length ≤ moved) || decide (2 ≤ s.mbx.chunks.length) then s
  else
    let upto := min (moved + s.mbx.window / 2) f.cmd.payload.length
    let part := (f.cmd.payload.drop moved).take (upto - moved)
    let s1 := first.foldl (fun s p => forwardPieces s p f.cmd.req 1 f.cmd.ring (moved / 4096) (selfPhys s) part) s
    let s2 := setFlight s1 f.cmd.req fun g => { g with moved := upto }
    { s2 with mbx := { s2.mbx with chunks := s2.mbx.chunks ++ [⟨f.cmd.req, upto, first⟩] } }

def pumpPayload (s : State) : State :=
  let pass (s : State) : State := (s.mbx.flights.filter fun f => f.bridge.isNone).foldl pumpFlight s
  pass (pass s)

/-- Strikes a device from the oldest chunk of a command that still waits for it. -/
def strike (req : Nat) (who : Coord) : List Chunk → List Chunk
  | [] => []
  | c :: cs => if c.req = req ∧ c.waiting.contains who then { c with waiting := c.waiting.erase who } :: cs else c :: strike req who cs

/-- An acknowledgement of a chunk from below: a hub passes the last one up, the bridge reuses the half (R408). -/
def ackChunk (s : State) (req : Nat) (who : Coord) : State :=
  let cs := strike req who s.mbx.chunks
  let s1 := { s with mbx := { s.mbx with chunks := cs.filter fun c => !c.waiting.isEmpty } }
  pumpPayload ((cs.filter fun c => c.waiting.isEmpty).foldl (fun s c => ackUp s c.req) s1)

end Sys2Proof.Machine
end

