-- ==== Sys2Proof/Machine/JobQ.lean ====
section
/-! DEFINITION. Questions about a loaded job: members, barrier tree, experts, owners (spec/07 R201, spec/08 R243, spec/09 R304). -/
namespace Sys2Proof.Machine
open Sys2Proof

/-! ### Operators and parameters -/

/-- A field of an operator's parameter block (R153). -/
def opArg (o : OpD) (off n : Nat) : Nat := rd o.params off n
def opNth (j : Job) (i : Nat) : Option OpD := j.ops[i]?
def refAt (o : OpD) (i : Nat) : TRef := o.refs.getD i ⟨0, 0, 0, 0, 0, 0, 0, 0⟩
/-- The i-th output reference: outputs follow inputs (Table 5.2). -/
def outAt (o : OpD) (i : Nat) : TRef := refAt o (o.nIn + i)
def flagOvf (o : OpD) : Bool := bit o.flags 0
def flagBack (o : OpD) : Bool := bit o.flags 1
def flagTransA (o : OpD) : Bool := bit o.flags 2
def flagTransB (o : OpD) : Bool := bit o.flags 3
def flagComplex (o : OpD) : Bool := bit o.flags 4

/-- The forward ROUTER of a layer (Table 5.4). -/
def routerOf (j : Job) (layer : Nat) : Option OpD :=
  j.ops.find? fun o => decide (o.cls = 6) && decide (o.layer = layer) && !flagBack o

def routerK (o : OpD) : Nat := clamp 1 8 (opArg o 0 1)
def routerUseBias (o : OpD) : Bool := decide (opArg o 3 1 ≠ 0)
def routerExperts (o : OpD) : Nat := clamp 1 512 (opArg o 8 2)

def expertsOf (j : Job) (layer : Nat) : Nat := match routerOf j layer with | some o => routerExperts o | none => 1
def exchOf (j : Job) (layer : Nat) : Option ExchEntry := j.exch.find? fun x => decide (x.layer = layer)

/-- Block share of index d of n among k: first index and count (R201, R243). -/
def blockShare (n k d : Nat) : Nat × Nat :=
  let q := n / max 1 k
  let m := n % max 1 k
  (d * q + min d m, if d < m then q + 1 else q)

/-- Device of a block share that holds index x (R201). -/
def blockOwner (n k x : Nat) : Nat :=
  let q := n / max 1 k
  let m := n % max 1 k
  if x < m * (q + 1) then x / (q + 1) else m + (x - m * (q + 1)) / max 1 q

/-- Parameter-table flags (Table 8.1): replicated over T, expert weight, frozen. -/
def paramRepT (p : ParamEntry) : Bool := bit p.flags 0
def paramExpert (p : ParamEntry) : Bool := bit p.flags 1
def paramFrozen (p : ParamEntry) : Bool := bit p.flags 2
def paramNmax (j : Job) (p : ParamEntry) : Nat := ceilDiv p.rows (max 1 j.lengths.d)
def ownRows (j : Job) (p : ParamEntry) : Nat × Nat := blockShare p.rows j.lengths.d j.coord.d

/-- Bias registers cut or padded to the experts of each layer's ROUTER (R205). -/
def fitBiases (j : Job) : Job :=
  { j with committed := { j.committed with biases := j.committed.biases.map fun b => (b.1, (List.range (expertsOf j b.1)).map fun i => b.2.getD i 0) } }

/-- UPDATE descriptors in order: update group n is the n-th (R256). -/
def updateOps (j : Job) : List OpD := j.ops.filter fun o => decide (o.cls = 0x0E)

/-- Warm slabs that R359 gives a job by its devices, warm ones included. -/
def warmDefault (n dPhys : Nat) : Nat := if n ≤ 1024 then 0 else ceilDiv dPhys 64

/-- The newest version that a plan in force, a plan that waits, or a compilation under way has (R49). -/
def newestVersion (j : Job) : Nat :=
  max j.planVersion (max (match j.next with | some (_, v, _) => v | none => 0) (match j.compiling with | some (_, v) => v | none => 0))

/-- The version that the next recompilation makes (R49). -/
def nextVersion (j : Job) : Nat := newestVersion j + 1

/-- A recompilation begins: its request, if one waits already, stays (R49). -/
def beginCompile (j : Job) (req : Option Nat) : Job :=
  let waiting := match j.compiling with | some (r, _) => r | none => none
  { j with compiling := some (if req.isSome then req else waiting, nextVersion j), next := none }

/-- Every later plan beat shifts by z: the anchor, and the real beats that exchanges and work lists hold (R51, R365). -/
def shiftPlan (now z : Nat) (j : Job) : Job :=
  let later (b : Nat) : Nat := if now ≤ b then b + z else b
  { j with anchor := j.anchor.map (· + (z : Int)),
           exchanges := j.exchanges.map fun x => { x with release := x.release.map fun r => (r.1, later r.2) },
           workLists := j.workLists.map fun w => { w with lastBeat := later w.lastBeat } }

/-- Cut lengths in the ranges of R5. -/
def clampCuts (c : Coord) : Coord := ⟨clamp 1 8 c.e, clamp 1 4 c.t, clamp 1 16 c.p, clamp 1 128 c.d⟩

def isRoot (s : State) (j : Job) : Bool := decide (jobRoot s j = j.coord)

end Sys2Proof.Machine
end

