-- ==== Sys2Proof/Machine/Memory.lean ====
section
/-! DEFINITION. The device address map, allocations, the stripe hash and error words (spec/06 R173 to R199). -/
namespace Sys2Proof.Machine
open Sys2Proof

/-- Regions of Table 6.2. -/
inductive Region where
  | reserved | core | cluster | near | far
  deriving DecidableEq, Repr

def nearBase : Nat := 0x10000000000
def nearDie : Nat := 0x800000000
def farBase : Nat := 0x20000000000
def farSize : Nat := 1536 * 2 ^ 30
def coreBase : Nat := 0x40000000
def clusterBase : Nat := 0x80000000

/-- The region of an address; bytes beyond 6 MiB or 24 MiB of an SRAM stride are reserved (R173). -/
def regionOf (a : Nat) : Region :=
  if coreBase ≤ a ∧ a < 0x70000000 then (if (a - coreBase) % 0x800000 < 6 * 2 ^ 20 then .core else .reserved)
  else if clusterBase ≤ a ∧ a < 0xA0000000 then (if (a - clusterBase) % 0x2000000 < 24 * 2 ^ 20 then .cluster else .reserved)
  else if nearBase ≤ a ∧ a < nearBase + 4 * nearDie then .near
  else if farBase ≤ a ∧ a < farBase + farSize then .far
  else .reserved

/-- Whether a whole range lies in regions of Table 6.2; ranges do not cross SRAM strides. -/
def rangeExists (a n : Nat) : Bool :=
  n = 0 || (regionOf a != .reserved && decide (regionOf a = regionOf (a + n - 1)) &&
    (match regionOf a with
     | .core => decide ((a - coreBase) / 0x800000 = (a + n - 1 - coreBase) / 0x800000)
     | .cluster => decide ((a - clusterBase) / 0x2000000 = (a + n - 1 - clusterBase) / 0x2000000)
     | _ => true))

/-- Compute dies of a function (Table 14.2). -/
def fnDies (mode f : Nat) : List Nat :=
  if mode = 0 then [0, 1, 2, 3] else if mode = 1 then [2 * f, 2 * f + 1] else [f]

/-- Clusters of a function (Table 14.2). -/
def fnClusters (mode f : Nat) : List Nat := (fnDies mode f).flatMap fun d => (List.range 4).map fun i => 4 * d + i

/-- First far address and size of a function's share (R176). -/
def fnFar (mode f : Nat) : Nat × Nat :=
  let n := farSize / fnCount mode
  (farBase + f * n, n)

/-- Whether an address belongs to a function's own ranges (R176). -/
def ownsAddr (s : State) (f a : Nat) : Bool :=
  match regionOf a with
  | .near => (fnDies s.flash.partMode f).contains ((a - nearBase) / nearDie)
  | .far => decide ((fnFar s.flash.partMode f).1 ≤ a) && decide (a < (fnFar s.flash.partMode f).1 + (fnFar s.flash.partMode f).2)
  | .core => (fnClusters s.flash.partMode f).contains ((a - coreBase) / 0x800000 / 6)
  | .cluster => (fnClusters s.flash.partMode f).contains ((a - clusterBase) / 0x2000000)
  | .reserved => false

/-- Where a byte of near memory lies: its tier, its pseudo-channel and its position in it. -/
structure NearPlace where
  tier : Nat
  channel : Nat
  pos : Nat
  deriving DecidableEq, Repr

/-- The place of the byte at offset `a` of the near memory of die `c` (R177). -/
def nearPlace (c a : Nat) : NearPlace :=
  let pc := bits a 12 8 ^^^ bits a 17 13
  ⟨2 * c + pc / 16, pc, (a >>> 13) * 256 + a % 256⟩

/-- The die whose near memory holds an address (R173). -/
def dieOf (a : Nat) : Nat := (a - nearBase) / nearDie

/-- The place of a near-memory address. -/
def nearPlaceOf (addr : Nat) : NearPlace := nearPlace (dieOf addr) ((addr - nearBase) % nearDie)

/-- The dies that traffic from a die to the near memory at an address enters, in order: none on its own die, one hop to a neighbour, two to
the opposite die, clockwise when bit 12 of the address is 0 (R18). -/
def ringRoute (from_ addr : Nat) : List Nat :=
  let home := dieOf addr
  let way := (home + 4 - from_) % 4
  if way = 0 then [] else if way = 2 then [(from_ + (if bit addr 12 then 3 else 1)) % 4, home] else [home]

/-- Where a granule of far memory lies: channel, bank, and row and column within them (R179). -/
structure FarPlace where
  channel : Nat
  bank : Nat
  row : Nat
  col : Nat
  deriving DecidableEq, Repr

/-- The place of a far granule under the AES output of its 16 stripes (R179). -/
def farPlaceUnder (f g : Nat) : FarPlace :=
  let q := g >>> 7
  let i := q % 16
  let pos := q >>> 4
  ⟨g % 128 ^^^ bits f (7 * i + 6) (7 * i), i ^^^ bits f 115 112, pos >>> 6, pos % 64⟩

/-- The hash output that the 16 stripes of a granule share: AES-128 of q >> 4 under the hash key, little-endian (R179). -/
def stripeHash (key : BitVec 128) (g : Nat) : Nat := leNat (aesBlock (natLE 16 key.toNat) (natLE 16 (g >>> 11)))

/-- The place of a far-memory address under a function's hash key (R179). -/
def farPlace (key : BitVec 128) (addr : Nat) : FarPlace :=
  let g := (addr - farBase) >>> 6
  farPlaceUnder (stripeHash key g) g

/-- Bytes of a granule of interleaving: 64 in far memory, 256 in near memory (R177, R179). -/
def granuleLen (a : Nat) : Nat := if regionOf a = .far then 64 else 256

/-- A stripe (R175). -/
def stripe : Nat := 8192

/-- A size in whole stripes, clamped to 1 to 2^63 first (R175). -/
def stripes (n : Nat) : Nat := ceilDiv (clamp 1 (2 ^ 63) n) stripe * stripe

def overlaps (a n b m : Nat) : Bool := decide (a < b + m) && decide (b < a + n)

/-- The lowest free address for `n` bytes in [lo, lo + size). -/
def findHole (lo size n : Nat) (l : List Alloc) : Option Nat :=
  let cands := lo :: l.map fun x => x.addr + x.size
  let ok (c : Nat) : Bool :=
    decide (lo ≤ c) && decide (c + n ≤ lo + size) && l.all fun x => !overlaps c n x.addr x.size
  (sortBy id cands).find? ok

/-- Whether a range lies in one allocation of the function (R425). -/
def inOneAlloc (s : State) (f a n : Nat) : Bool :=
  let x := fnAt s f
  (x.near ++ x.far).any fun l => decide (l.addr ≤ a) && decide (a + n ≤ l.addr + l.size) && decide (a < l.addr + l.size)

/-- The parameter region of a function (R242). -/
def paramRegion (s : State) (f : Nat) : Option Alloc := (fnAt s f).far.find? fun l => l.param

/-- Protected word length: 32 bytes in far memory, 8 elsewhere (Table 6.6). -/
def wordLen (a : Nat) : Nat := if regionOf a = .far then 32 else 8

/-- The first uncorrectable word that a read of a range meets (R198). -/
def badIn (s : State) (a n : Nat) : Option Nat := (s.st.bad.find? fun b => overlaps a n b.1 b.2).map (·.1)

/-- The first uncorrectable word that a write covers only in part (R198). -/
def badPartial (s : State) (a n : Nat) : Option Nat :=
  (s.st.bad.find? fun b => overlaps a n b.1 b.2 && !(decide (a ≤ b.1) && decide (b.1 + b.2 ≤ a + n))).map (·.1)

/-- Stores bytes; a write over a whole word clears its uncorrectable error (R198). -/
def storeBytes (s : State) (a : Nat) (b : Bytes) : State :=
  { s with st := { s.st with mem := memWrite s.st.mem a b,
                             bad := s.st.bad.filter fun w => !(decide (a ≤ w.1) && decide (w.1 + w.2 ≤ a + b.length)) } }

/-- Zeroes a range and clears its errors (R443, R485). -/
def zeroRange (s : State) (a n : Nat) : State :=
  { s with st := { s.st with mem := memClear s.st.mem a n,
                             bad := s.st.bad.filter fun w => !(decide (a ≤ w.1) && decide (w.1 + w.2 ≤ a + n)) } }

/-- Whether any function holds far memory: an allocation, or what a plan reserves (R190, Table 13.10). -/
def anyFar (s : State) : Bool := s.fns.any fun x => !x.far.isEmpty || (match x.job with | some j => j.planArea.isSome | none => false)

/-- Turns the far groups off when no function holds far memory (R190, Table 14.7). -/
def farOffIfUnused (s : State) : State :=
  if anyFar s then s
  else { s with st := { s.st with farState := 0 },
                pow := { s.pow with domains := s.pow.domains.filter fun d => !(decide (72 ≤ d) && decide (d < 80)) } }

/-! ### High and low halves of master weights (R244 to R247) -/

def roundUp (n k : Nat) : Nat := ceilDiv n k * k

/-- Bytes of the high-half array and offset of the low halves in a bank of n elements (R244). -/
def lowOffset (n : Nat) : Nat := roundUp (2 * n) stripe

/-- The address of the low half that belongs to a high-half byte address, for the banks of a parameter (R247). -/
def lowOf (region nmax : Nat) (p : ParamEntry) (a : Nat) : Option Nat :=
  let n := nmax * p.cols
  ([p.bank0, p.bank1] : List Nat).findSome? fun b =>
    let base := region + b
    if base ≤ a ∧ a < base + 2 * n then some (base + lowOffset n + 2 * ((a - base) / 2)) else none

/-- Zeroes the low halves of the elements whose high half a host write touched, but for bytes it wrote itself (R247). -/
def clearLows (s : State) (f a : Nat) (b : Bytes) : State :=
  match (fnAt s f).job, paramRegion s f with
  | some j, some r =>
    if j.hdr.weightMode ≠ 0 then s
    else
      let step (s : State) (x : Nat) : State :=
        j.params.foldl (fun s p =>
          match lowOf r.addr (ceilDiv p.rows (max 1 j.lengths.d)) p x with
          | some lo => ([lo, lo + 1] : List Nat).foldl (fun s y =>
              if a ≤ y ∧ y < a + b.length then s else storeBytes s y [0]) s
          | none => s) s
      ((List.range b.length).map (a + ·)).foldl step s
  | _, _ => s

end Sys2Proof.Machine
end

