-- ==== Sys2Proof/Machine/Recover.lean ====
section
/-! DEFINITION. Commits, abandonment, barriers and recovery as shared operations (spec/08 R270 to R276, spec/09 R304,
R305, spec/11 R349 to R381). -/
namespace Sys2Proof.Machine
open Sys2Proof

/-! ### Small parts -/

/-- Whether a plan uses the path over a port (R322). -/
def planUsesPort (p : Plan) (code : Nat) : Bool := p.map.usedPorts.contains code


/-- Physical cores of a cluster are 7c to 7c + 6; logical cores 6c to 6c + 5 (R9, R10). -/
def coreOfFn (s : State) (f core : Nat) : Bool := (fnClusters s.flash.partMode f).contains (core / 6)

/-- Whether the holding buffer has a shard of every non-frozen tensor that this device owns (R252). -/
def holdingComplete (j : Job) : Bool :=
  (j.params.filter fun p => !paramFrozen p).all fun p =>
    j.holding.any (fun h => decide (h.tensor = p.tensorId)) || decide ((ownRows j p).2 = 0)

/-- Whether every shard in the holding buffer was complete before the origin beat of the ABORT (R275). -/
def heldBefore (j : Job) : Bool := match j.abortOrigin with | some b => j.holding.all fun h => decide (h.beat < b) | none => true

/-- Drops the partial tiles of a function's cores (R63, R105). -/
def dropPartials (s : State) (f : Nat) : State :=
  { s with st := { s.st with partials := s.st.partials.filter fun p => !coreOfFn s f p.core } }

/-- Votes without those on a commit, which an abandoned attempt has cast (R270, R274). -/
def dropCommitVotes (l : List (Nat × List (Coord × Nat))) : List (Nat × List (Coord × Nat)) := l.filter fun v => !decide (v.1 >>> 30 = 1)

/-- The fields of a job that a running step has built up, as at the step's start (R63, R274). The holding buffer stays, and with it
the clip factor, the loads and the staged and parked state that an update-only replay needs (R275, R276; log 59, 168). -/
def clearStepWork (j : Job) : Job :=
  { j with running := j.running.filter (fun r => r.slice.reserved), accums := [], collectives := [], exchanges := [],
           checks := [], workLists := [], windowsDone := [], released := [], votes := dropCommitVotes j.votes, updated := [], holders := [], tags := [],
           lossParts := [], factor := [], arrivals := [], nonfinite := false, voted := false,
           barriersDone := [], hold := none, replay := none, updateOnly := false,
           nextNonfinite := false, stats := StepStats.init j.committed.step j.sigma j.committed.version,
           nextStats := StepStats.init (j.committed.step + 1) j.committed.lsExp j.committed.version }

/-- Values before a commit come back when its reversal is due (R273). -/
def reverseCommit (j : Job) (origin : Nat) : Job :=
  match j.commit with
  | none => j
  | some ci =>
    if ci.beat < origin then j
    else if !ci.applied then { j with commit := none }
    else
      let j1 := { j with committed := ci.prev, holding := ci.prevHolding, commit := none, history := j.history.drop 1,
                         clipFactor := ci.prevClip, gradNorm := ci.prevNorm, normTotal := ci.prevTotal, loads := ci.prevLoads,
                         clipKnown := ci.prevClipKnown, lsBefore := ci.prevLs, prevBiases := ci.prevOldBiases,
                         stopFrom := none, sigma := ci.prevSigma, attempt := ci.prevAttempt, abandoned := ci.prevAbandoned }
      if ci.planSwitch then
        { j1 with lengths := ci.prevLengths, coord := ci.prevCoord, slabs := ci.prevSlabs, warm := ci.prevWarm,
                  newLengths := if j.lengths = ci.prevLengths then none else some j.lengths, plan := ci.prevPlan, axes := ci.prevAxes,
                  next := j.plan.map fun p => (p, j.planVersion, true), planVersion := ci.prevVersion, nextOps := some (j.ops, j.hdr),
                  ops := ci.prevOps, planArea := ci.prevArea, l1Slots := ci.prevL1, hdr := { ci.prevHdr with policy := j.hdr.policy } }
      else j1

/-- Attempt, epochs and abandonment count (R234, R302, R350). -/
def bumpAttempt (j : Job) : Job :=
  { j with attempt := (j.attempt + 1) % 256, abandoned := j.abandoned + 1, epochs := j.epochs.map fun e => (e + 1) % 65536 }

/-- Discards the chrysalis of a stop that a fault ends (R379). -/
def dropStop (j : Job) : Job :=
  if j.stopEnd.isSome then { j with stopEnd := none, chrysalises := (j.chrysalises.drop 1).map fun c => { c with level0 := false } }
  else j

/-! ### COMMIT messages (R271) -/

/-- Body of Table 8.7. -/
def commitBody (beat step : Nat) (planSwitch skip : Bool) (kind ls : Nat) : Bytes :=
  natLE 8 beat ++ natLE 4 (step % 2 ^ 32) ++ natLE 1 (b2n planSwitch + 2 * b2n skip + 4 * kind) ++ natLE 1 ls ++ zeros 2

/-- Takes a COMMIT message: a commit (R271) or a replay anchor (R275). -/
def acceptCommit (s : State) (f : Nat) (body : Bytes) : State :=
  let beat := rd body 0 8
  let flags := rd body 12 1
  let kind := bits flags 3 2
  setJob s f fun j =>
    if rd body 8 4 ≠ j.committed.step % 2 ^ 32 then j
    else if kind = 0 then
      if j.recovery ≠ .none ∨ j.commit.isSome then j
      else
        let ci : CommitInfo :=
               { beat, step := j.committed.step, planSwitch := bit flags 0, skip := bit flags 1, lsExp := rd body 13 1,
                 prev := j.committed, prevHolding := j.holding, prevPlan := j.plan, prevVersion := j.planVersion, prevOps := j.ops, prevHdr := j.hdr,
                 prevArea := j.planArea, prevAxes := j.axes, prevL1 := j.l1Slots, prevLengths := j.lengths,
                 prevCoord := j.coord, prevSlabs := j.slabs, prevWarm := j.warm, prevClip := j.clipFactor, prevNorm := j.gradNorm,
                 prevTotal := j.normTotal, prevClipKnown := j.clipKnown, prevLoads := j.loads, prevGone := j.gone, prevOldBiases := j.prevBiases,
                 prevSigma := j.sigma, prevLs := j.lsBefore, prevAttempt := j.attempt,
                 prevAbandoned := j.abandoned, applied := false }
        { j with commit := some ci }
    else if kind = 3 then j
    else { j with replay := some (kind, beat), recovery := .none }

/-- Sends a COMMIT message down the barrier tree. -/
def passCommit (s : State) (f : Nat) (m : Msg) : State :=
  match jobAt s f with
  | none => s
  | some j => (barrierKids s j j.coord).foldl (fun s k => emitMsg s (portsTo s j k) m) s

/-- The root's announcement, which the root takes too (R271). -/
def announce (s : State) (f : Nat) (body : Bytes) : State :=
  acceptCommit (passCommit s f ⟨3, f + 1, s.eng.beat, originOf s f, body⟩) f body

/-- `ls_exp` and `clean_run` after a commit (R255). -/
def scaleAfter (j : Job) (flag : Bool) : Nat × Nat :=
  let c := j.committed
  if flag then (if j.sigma = c.lsExp then c.lsExp - 1 else c.lsExp, 0)
  else if j.hdr.cleanSteps ≤ c.cleanRun + 1 then (min 24 (c.lsExp + 1), 0)
  else (c.lsExp, c.cleanRun + 1)

/-! ### Axis ranking (R335) -/

/-- Whether some ring of a physical axis runs as a line, here or elsewhere in the system (R309, R335). -/
def lineAnywhere (s : State) (a : Nat) : Bool := (lineGap s a).isSome || (match s.fab.map with | some m => m.others.contains a | none => false)

/-- Key (state, ℓ_max rounded up to 10 ns, code) of a physical axis, as one number. -/
def axisKey (s : State) (a : Nat) : Nat :=
  let l := max (portAt s a).latencyPs (portAt s (a + 4)).latencyPs
  b2n (lineAnywhere s a) * 2 ^ 48 + ceilDiv l 10000 * 16 + a

def rerank (s : State) : State :=
  let r := sortBy (axisKey s) [0, 1, 2, 3]
  { s with fab := { s.fab with map := s.fab.map.map fun m => { m with ranking := r } } }

/-! ### Restoring and losing devices (R376 to R381) -/

/-- Whether this device can supply its image of a chrysalis on the plan in force (R376, R377). -/
def restorable (j : Job) (c : Chrysalis) (levels : Nat) : Bool :=
  let same := match j.loss, j.plan with
    | some l, _ => decide (l.digest = c.planDigest)
    | none, some p => decide (p.digest = c.planDigest)
    | none, none => false
  (same && ((bit levels 0 && c.level0) || (bit levels 1 && c.level1) || (bit levels 2 && c.level2))) || (bit levels 3 && c.level3)

/-- Level that supplies the image: the first complete one (R376). -/
def restoreLevel (c : Chrysalis) (levels : Nat) : Nat :=
  if bit levels 0 && c.level0 then 0 else if bit levels 1 && c.level1 then 1 else if bit levels 2 && c.level2 then 2 else 3

/-- Starts the restore of the newest restorable chrysalis for a recovery (R349, R376). -/
def startRestore (s : State) (f : Nat) : State :=
  setJob s f fun k =>
    let j := testDrives (fnAt s f) k
    match j.chrysalises.findIdx? fun c => restorable j c 15 with
    | some i =>
      let c := j.chrysalises.getD i ⟨j.committed, [], 0, [], 0, 0, 0, [], [], false, false, false, false, 0⟩
      { j with restoring := some (none, i, 2 ^ restoreLevel c 15), recovery := .transfers, abandoned := 0, causes := [], transfersDue := j.loss.isSome }
    | none => { j with recovery := .waitModule }

/-- Logical d positions of a job that have lost a member (R380). -/
def lostD (s : State) (j : Job) : List Nat :=
  (((boxCoords j.lengths).filter fun c => memberGone s j (logicalToPhys j c)).map (·.d)).eraseDups

/-- Physical index along the D cut's axis of the lowest warm slab (R360). -/
def warmIndex (s : State) (j : Job) : Option Nat :=
  (List.range (coordOn (mapLengths s) (j.axes.getD 3 3))).find? fun i => !j.slabs.contains i && decide (j.lengths.d ≤ i)

/-- Chooses the case of R380 for one lost d; after a shrink the members are counted from the one that follows the lost one (R337). -/
def loseSlab (s : State) (j : Job) (d : Nat) : Option Job :=
  if j.hdr.policy.onLoss = 1 then none
  else match (if 0 < j.warm then warmIndex s j else none) with
    | some w => some { j with slabs := setNth j.slabs d w, warm := j.warm - 1, ownersChange := true }
    | none =>
      if j.lengths.d ≤ 1 then none
      else some { j with
        slabs := j.slabs.drop (d + 1) ++ j.slabs.take d, lengths := { j.lengths with d := j.lengths.d - 1 }, ownersChange := true,
        chrysalises := j.chrysalises.map fun c => { c with cursors := updNth c.cursors d fun x => (x.1, true) } }

/-- Device-loss recovery after the replay vote (R380, R381): the axes ranked again, a new map and its
recompilation, or the wait for a module (R335). -/
def startLoss (s : State) (f : Nat) : State :=
  setJob (rerank s) f fun i =>
    let digest := match i.plan with | some p => p.digest | none => []
    let j := { i with loss := some (i.loss.getD ⟨i.lengths, i.coord, i.slabs, i.axes, digest, i.gone⟩) }
    match (lostD s j).reverse.foldl (fun (o : Option Job) d => o.bind fun k => loseSlab s k d) (some j) with
    | none => { j with recovery := .waitModule }
    | some k => { beginCompile k none with recovery := .recompile 0, verified := false, ranked := some true }

/-! ### Barriers (R304, R305) -/

/-- Combination of two votes of a class (Table 9.5). -/
def combineVotes (cls a b : Nat) : Nat :=
  if cls = 0 then a % 2 &&& b % 2
  else if cls = 3 then sat 0x7FFF (a >>> 17 + b >>> 17) <<< 17 + min (a % 2 ^ 17) (b % 2 ^ 17)
  else (a % 2 &&& b % 2) + 2 * ((a >>> 1) % 2 ||| (b >>> 1) % 2)

/-- The root's act on a complete commit vote: C = max(a_s + c, v + A) (R271). -/
def rootCommit (s : State) (f : Nat) (j : Job) (vote : Nat) : State :=
  let skip := bit vote 1
  let point : Int := match j.anchor, j.plan with
    | some a, some p => a + p.commitPoint
    | _, _ => 0
  let c := max point.toNat (s.eng.beat + announceDist s)
  let switch := match j.next with | some (_, _, ok) => ok | none => false
  announce s f (commitBody c j.committed.step switch skip 0 (scaleAfter j skip).1)

/-- What the replay vote's result starts (R275, R349): loss recovery, a restore, or the root's replay anchor. -/
def afterReplayVote (s : State) (f : Nat) (j : Job) (vote : Nat) : State :=
  if bit vote 1 then
    if (lostD s j).isEmpty then startRestore s f else startLoss s f
  else
    let kind := if bit vote 0 then 1 else 2
    if !j.verified then setJob s f fun j => { j with recovery := .recompile kind }
    else if isRoot s j then
      announce s f (commitBody (s.eng.beat + announceDist s) j.committed.step false false kind j.committed.lsExp)
    else s

/-- Whether the newest plan that waits has a version whose low 30 bits are n; else whether the plan in force has. -/
def nextHas (j : Job) (n : Nat) : Bool := match j.next with | some (_, v, _) => decide (v % 2 ^ 30 = n) | none => false
def currentHas (j : Job) (n : Nat) : Bool := j.plan.isSome && decide (j.planVersion % 2 ^ 30 = n)

/-- The combined class-11 vote on a version: the plan is verified, or JOB.VERIFY reports who dissents (R47, R305). In a recovery the
restore or the replay's announcement follows (R381). -/
def afterVerify (s : State) (f : Nat) (j : Job) (ver vote : Nat) : State :=
  let n := vote >>> 17
  let version := match j.next with | some (_, v, _) => if nextHas j ver then v else j.planVersion | none => j.planVersion
  let req := j.verifying
  let s1 := setJob s f fun j => { j with verifying := none }
  if !(nextHas j ver || currentHas j ver) then s
  else if n = 0 then
    let s2 := setJob s1 f fun j =>
      match j.next with
      | some (p, v, ok) => if nextHas j ver then { j with next := some (p, v, true) } else { j with next := some (p, v, ok), verified := true }
      | none => { j with verified := true }
    let s3 := match j.recovery with
      | .recompile 0 => if currentHas j ver then startRestore s2 f else s2
      | .recompile k =>
        if isRoot s2 j && currentHas j ver then
          announce s2 f (commitBody (s2.eng.beat + announceDist s2) j.committed.step false false k j.committed.lsExp)
        else s2
      | _ => s2
    answerOpt s3 req (replyOk (natLE 4 version))
  else
    answerOpt s1 req ⟨8, 0, 0, natLE 4 n ++ coordBytes (coordOfRank j.lengths (vote % 2 ^ 17)), none⟩

/-- A barrier's result at a member (R305). -/
def barrierResult (s : State) (f id vote : Nat) : State :=
  match jobAt s f with
  | none => s
  | some j =>
    let s1 := setJob s f fun j => { j with votes := j.votes.filter fun v => !decide (v.1 = id) }
    let cls := id >>> 30
    if cls = 0 then setJob s1 f fun j => { j with barriersDone := id % 2 ^ 30 :: j.barriersDone }
    else if cls = 1 then
      if isRoot s j ∧ id % 2 ^ 30 = j.committed.step % 2 ^ 30 ∧ bit vote 0 ∧ j.recovery = .none then rootCommit s1 f j vote else s1
    else if cls = 2 then (if j.recovery = .voting then afterReplayVote s1 f j vote else s1)
    else afterVerify s1 f j (id % 2 ^ 30) vote

/-- Body of a BARRIER message (R305). -/
def barrierBody (id vote : Nat) : Bytes := natLE 4 id ++ natLE 4 vote

/-- Sends a result down the tree and takes it (R304). -/
def passResult (s : State) (f id vote : Nat) : State :=
  match jobAt s f with
  | none => s
  | some j =>
    let s1 := (barrierKids s j j.coord).foldl (fun s k => sendMsg s (portsTo s j k) 4 f (barrierBody id vote)) s
    barrierResult s1 f id vote

/-- Combines a subtree's votes once all of them have arrived (R304). -/
def combineBarrier (s : State) (f id : Nat) : State :=
  match jobAt s f with
  | none => s
  | some j =>
    let got := lookupD j.votes id []
    let need := j.coord :: barrierKids s j j.coord
    if need.all fun c => got.any fun v => decide (v.1 = c) then
      let vs := need.map fun c => ((got.find? fun v => decide (v.1 = c)).getD (c, 0)).2
      let vote := vs.tail.foldl (combineVotes (id >>> 30)) (vs.headD 0)
      match barrierParent s j j.coord with
      | none => passResult s f id vote
      | some p => sendMsg s (portsTo s j p) 4 f (barrierBody id vote)
    else s

/-- Records a vote of this device or of a child's subtree (R304). -/
def recordVote (s : State) (f id : Nat) (who : Coord) (vote : Nat) : State :=
  let s1 := setJob s f fun j =>
    let old := lookupD j.votes id []
    { j with votes := insertK j.votes id ((who, vote) :: old.filter fun v => !decide (v.1 = who)) }
  combineBarrier s1 f id

/-- Casts this device's own vote. -/
def castVote (s : State) (f cls n vote : Nat) : State :=
  match jobAt s f with
  | none => s
  | some j => recordVote s f (cls * 2 ^ 30 + n % 2 ^ 30) j.coord vote

/-! ### Abandonment (R63, R274, R349, R350) -/

/-- This device's view of R275 and R349 as a class-10 vote (Table 9.5). -/
def replayVote (s : State) (j : Job) : Nat :=
  let lost := !(lostD s j).isEmpty
  let restore := lost || j.committedHit || decide (j.hdr.policy.replayLimit ≤ j.abandoned)
  let update := !lost && holdingComplete j && heldBefore j && !j.committedHit && !j.holdingHit && !j.sentinelHit
  b2n update + 2 * b2n restore

/-- Sends the replay vote unless the device is suspended, has left, still tests cores, or its CP1 or CP2 is in reset (R22, R34, R356). -/
def voteReplay (s : State) (f : Nat) : State :=
  match jobAt s f with
  | none => s
  | some j =>
    if cpDown s 1 || cpDown s 2 || s.eng.suspended || j.testing || j.gone || j.stopped || !decide (j.recovery = .voting) then s
    else
      let s1 := castVote s f 2 j.committed.step (replayVote s j)
      setJob s1 f fun j => { j with committedHit := false, holdingHit := false, sentinelHit := false }

/-- Completes the pending STEP.RUN (R430, R350). -/
def finishRun (s : State) (f : Nat) (status reason : Nat) : State :=
  match jobAt s f with
  | some j =>
    match j.run with
    | some r =>
      let s1 := setJob s f fun j => { j with run := none }
      answerReq s1 r.req ⟨status, reason, 0, natLE 8 r.lastCommitted ++ natLE 8 r.irrevocableBeat, none⟩
    | none => s
  | none => s

/-- Stops the job after a second run of `replay_limit` abandonments; the event names the step and the newest seven causes (R350; log 133). -/
def stopJob (s : State) (f : Nat) : State :=
  let l := match jobAt s f with | some j => j.causes | none => []
  let code (i : Nat) : Nat := l.getD i 0
  let s1 := raiseFn s f 2 0x0104 (code 0) (code 1 + 2 ^ 16 * code 2) (code 3 + 2 ^ 16 * code 4 + 2 ^ 32 * code 5 + 2 ^ 48 * code 6)
  finishRun (setJob s1 f fun j => { j with stopped := true, recovery := .none }) f 7 0

/-- Abandons the step in progress of a function's job; `stop` ends the run without a replay (R274, R349, R430). With no run, only the
snapshot of a stop that is being taken is discarded (Table 6.7). -/
def abandonStep (s : State) (f reason origin : Nat) (stop : Bool) : State :=
  match jobAt s f with
  | none => s
  | some j =>
    if j.run.isNone then setJob s f dropStop
    else
      let again := j.hdr.policy.replayLimit ≤ j.abandoned + 1 && j.restoredOnce
      let restore := j.hdr.policy.replayLimit ≤ j.abandoned + 1 && !j.restoredOnce
      let s1 := setJob (dropPartials s f) f fun j =>
        let k := bumpAttempt (clearStepWork (dropStop (reverseCommit j origin)))
        { k with anchor := none, causes := reason :: k.causes, abortOrigin := some origin, recovery := if stop then .none else .voting, restoredOnce := k.restoredOnce || restore }
      let s2 := raiseFn s1 f 2 0x0101 0 (match jobAt s1 f with | some k => k.attempt | none => 0) 0
      if stop then finishRun s2 f 0 0
      else if again then stopJob s2 f
      else voteReplay s2 f

/-- Reason of an ABORT whose origin's function has been reset, and so has left the job (R445; log 27). -/
def functionLeft : Nat := 0x20601

/-- Body of an ABORT message: job, step, reason (Table 2.3; log 27). -/
def abortBody (j : Job) (reason : Nat) : Bytes := natLE 4 (rd j.digest8 0 4) ++ natLE 8 j.committed.step ++ natLE 4 reason

/-- Raises an ABORT for the running step of a function, or for its snapshot stop when no step runs (Table 6.7): it floods every intact port
(R308), then R274 applies here. -/
def raiseAbort (s : State) (f reason : Nat) : State :=
  match jobAt s f with
  | none => s
  | some j =>
    if j.run.isNone && j.stopEnd.isNone then s
    else
      let s1 := sendMsg s (intactPorts s) 1 f (abortBody j reason)
      let s2 := { s1 with eng := { s1.eng with abortsSeen := (originOf s f, s.eng.beat) :: s1.eng.abortsSeen } }
      abandonStep s2 f reason s.eng.beat false

/-- Raises an ABORT for every running step of the device. -/
def abortAll (s : State) (reason : Nat) : State := ([0, 1, 2, 3] : List Nat).foldl (fun s f => raiseAbort s f reason) s

/-! ### Leaving the job (R358) -/

/-- This device leaves the job of a function: event, ABORT, and no further part in it (R358). -/
def leaveJob (s : State) (f reason : Nat) : State :=
  match jobAt s f with
  | none => s
  | some j =>
    if j.gone then s
    else
      let s1 := raiseFn s f 2 0x0601 reason 0 s.flash.serial
      let s2 := raiseAbort s1 f 0x0601
      let s3 := setJob s2 f fun j => { j with gone := true, left := s.flash.serial :: j.left, recovery := .none, verified := false }
      finishRun s3 f 7 0

def leaveAll (s : State) (reason : Nat) : State := ([0, 1, 2, 3] : List Nat).foldl (fun s f => leaveJob s f reason) s

/-- Marks a module of the map as lost (R358). -/
def markLost (s : State) (serial : Nat) : State :=
  { s with fab := { s.fab with map := s.fab.map.map fun m =>
      { m with gone := if m.gone.contains serial then m.gone else serial :: m.gone } } }

/-- A module has left its jobs, as `marked` says: running steps are abandoned, other jobs recover at once (R358, R380). -/
def dropModule (marked : State) (serial : Nat) : State :=
  ([0, 1, 2, 3] : List Nat).foldl (fun s f =>
    match jobAt s f with
    | none => s
    | some j =>
      if (lostD s j).isEmpty || j.left.contains serial then s
      else
        let s1 := setJob s f fun j => { j with left := serial :: j.left }
        if j.run.isSome then raiseAbort s1 f 0x0402 else startLoss s1 f) marked

/-- Whether a flight of this bridge waits for a target at a physical coordinate. -/
def awaits (phys : Coord) (f : Flight) (t : Target) : Bool := f.bridge.isNone && decide (t.phys = phys) && t.final.isNone

/-- A target is lost: the bridge completes what it executes with FAILED, and what it has not been sent with ABSENT, naming its coordinate
(R412; log 175). -/
def failTarget (s : State) (phys : Coord) : State :=
  s.mbx.flights.foldl (fun s f => (f.targets.filter (awaits phys f)).foldl (fun s t =>
    if t.retryAt.isSome && t.interim.isNone then recordTarget s f.cmd.req t.coord 6 0 0 (zeros 8 ++ coordBytes t.coord ++ natLE 1 255) []
    else recordTarget s f.cmd.req t.coord 7 0 0 (coordBytes t.coord) []) s) s

/-- A module has left its jobs or been lost (R358). -/
def loseModule (s : State) (serial : Nat) : State :=
  let s1 := match s.fab.map with
    | some m => (match m.modules.find? fun x => decide (x.serial = serial) with | some x => failTarget s x.phys | none => s)
    | none => s
  dropModule (markLost s1 serial) serial

/-- What an identity record says of its sender: a module with a short cluster is absent for jobs, until a record says otherwise (R13). -/
def noteAbsent (s : State) (serial : Nat) (absent : Bool) : State :=
  let put (l : List Nat) : List Nat := if absent then serial :: l.filter (fun x => !decide (x = serial)) else l.filter fun x => !decide (x = serial)
  let was := match s.fab.map with | some m => m.absent.contains serial | none => false
  let s1 := { s with fab := { s.fab with map := s.fab.map.map fun m => { m with absent := put m.absent } } }
  if absent && !was then dropModule s1 serial else s1

end Sys2Proof.Machine
end

