-- ==== Sys2Proof/Machine/Reset.lean ====
section
/-! DEFINITION. Power domains, clearing a function, molts and device reset as shared operations (spec/14 R443 to R451,
spec/15 R484 to R487). -/
namespace Sys2Proof.Machine
open Sys2Proof

/-! ### Power domains (Table 14.7) -/

/-- The function that owns a cluster in the partition mode (Table 14.2). -/
def fnOfCluster (mode c : Nat) : Nat := if mode = 0 then 0 else if mode = 1 then c / 8 else c / 4

def loadedState (n : Nat) : Bool := n = 2 || n = 3 || n = 4

/-- Physical core 6 of a cluster is active unless it is the spare (R12, R15). -/
def core6Active (s : State) (c : Nat) : Bool := !decide (s.st.spares.getD c none = some 6)

/-- Whether a switched domain may be on (Table 14.7). -/
def domainWanted (s : State) (d : Nat) : Bool :=
  let mode := s.flash.partMode
  if d < 64 then
    (loadedState (fnState s (fnOfCluster mode (d / 4))) || s.pow.selftest.isSome || decide (s.pow.stage = 5)) && (d % 4 ≠ 3 || core6Active s (d / 4))
  else if d < 72 then (let f := fnOfCluster mode (2 * (d - 64)); fnExists s f && decide (fnState s f ≠ 0))
  else if d < 80 then decide (s.st.farState ≠ 0)
  else if d < 88 then (portAt s (d - 80)).present
  else if d = 88 then (portAt s 8).present
  else if d < 93 then (List.range 4).any fun f => loadedState (fnState s f)
  else if d = 93 then decide (4 ≤ s.pow.stage)
  else if d = 94 then s.env.running || s.env.booting
  else s.pow.domains.contains 95

/-- Switches off the domains that are no longer wanted (R450, R451). -/
def dropDomains (s : State) : State :=
  { s with pow := { s.pow with domains := s.pow.domains.filter fun d => domainWanted s d } }

/-- Physical number of a logical core: active cores of a cluster in ascending order (R10, Table 1.5). -/
def physCore (s : State) (n : Nat) : Nat :=
  let c := n / 6
  let active := (List.range 7).filter fun i => !decide (s.st.spares.getD c none = some i)
  7 * c + active.getD (n % 6) (n % 6)

/-- The switched domain that a logical core lies in (Table 14.7). -/
def coreDomain (s : State) (n : Nat) : Nat := 4 * (n / 6) + physCore s n % 7 / 2

/-- A core loses its local SRAM and its registers: the SRAM reads as memory that nothing has written (Table 14.7; log 179). -/
def loseCore (s : State) (n : Nat) : State :=
  let s1 := zeroRange s (coreBase + n * 0x800000) (6 * 2 ^ 20)
  { s1 with st := { s1.st with cores := s1.st.cores.filter (fun c => !decide (c.1 = n)),
                               partials := s1.st.partials.filter (fun p => !decide (p.core = n)) } }

/-- Logical cores of a function whose domain is off. -/
def darkCores (s : State) (f : Nat) : List Nat :=
  (List.range 96).filter fun n => coreOfFn s f n && !s.pow.domains.contains (coreDomain s n)

/-- The cores of a function whose domain is off hold nothing (R450, Table 14.7). -/
def loseCores (s : State) (f : Nat) : State := (darkCores s f).foldl loseCore s

/-- Whether an address lies in the local SRAM of a core of the function whose domain is off. -/
def isDark (s : State) (f a : Nat) : Bool :=
  decide (regionOf a = .core) && (darkCores s f).contains ((a - coreBase) / 0x800000)

/-! ### Clearing (Table 14.3, Table 15.7) -/

def clearCores (s : State) (f : Nat) : State :=
  { s with st := { s.st with cores := s.st.cores.filter (fun c => !coreOfFn s f c.1),
                             partials := s.st.partials.filter (fun p => !coreOfFn s f p.core) } }

/-- Core and cluster SRAM to zero; scale banks, codebooks and product tables to their reset values (R92, R101). -/
def clearSram (s : State) (f : Nat) : State :=
  let cs := fnClusters s.flash.partMode f
  let s1 := cs.foldl (fun s c => zeroRange s (clusterBase + c * 0x2000000) (24 * 2 ^ 20)) s
  let s2 := (cs.flatMap fun c => (List.range 6).map fun i => 6 * c + i).foldl
    (fun s i => zeroRange s (coreBase + i * 0x800000) (6 * 2 ^ 20)) s1
  clearCores s2 f

/-- Near memory of the function's dies to zero, its allocations freed. -/
def clearNear (s : State) (f : Nat) : State :=
  let s1 := (fnDies s.flash.partMode f).foldl (fun s d => zeroRange s (nearBase + d * nearDie) nearDie) s
  setFn s1 f fun x => { x with near := [] }

/-- Far ranges freed and the hash key destroyed; `wipe` overwrites the whole share with zeros (R443, R485). -/
def clearFar (s : State) (f : Nat) (wipe : Bool) : State :=
  let s1 := if wipe then zeroRange s (fnFar s.flash.partMode f).1 (fnFar s.flash.partMode f).2 else s
  setFn s1 f fun x => { x with far := [], hashKey := none }

/-- The environment stops when it is bound to F(f + 1): its near range is zeroed (R437, Table 14.5). -/
def stopEnv (s : State) : State :=
  if s.env.running || s.env.booting then
    let r := if s.env.booting then replyFailed 0 [] else replyOk (natLE 8 s.eng.beat)
    let s1 := answerOpt (zeroRange s s.env.addr s.env.size) s.env.req r
    dropDomains { s1 with env := { s1.env with running := false, booting := false, graceEnd := none, watchdogMs := 0, req := none } }
  else s

def stopEnvOf (s : State) (f : Nat) : State := if s.env.func = f + 1 then stopEnv s else s

/-- A ring pair becomes unconfigured (R412, R443). -/
def unconfigure (s : State) (n : Nat) : State :=
  let s1 := setRing s n fun _ => RingPair.off
  if n = 0 then { s1 with mbx := { s1.mbx with armed := false } } else s1

/-- Every command in flight that meets a condition completes with FAILED (R412). -/
def failFlights (s : State) (p : Flight → Bool) : State :=
  (s.mbx.flights.filter p).foldl (fun s f =>
    let c := f.cmd
    let s1 := setFlight s c.req fun g => { g with targets := [] }
    answer s1 c (replyFailed 0 [])) s

/-- Key agreement starts on a port (R338, R339): its KEYX flit carries a fresh ephemeral key. -/
def startKeyx (s : State) (p : Nat) : State :=
  let (n, s1) := drawFree s
  let s2 := setPort s1 p fun x => { x with keying := true, keyOwn := Config.keyxFlit n p s.eng.beat deviceIdKey }
  { s2 with fab := { s2.fab with sent := s2.fab.sent ++ [.keyx p] } }

/-- Whether this device runs a confidential function or molts one (R338). -/
def ownConf (s : State) : Bool := s.fns.any fun x => x.confidential

/-- Starts encryption on every trained port while a function is confidential, and ends it after the last molt (R338). -/
def refreshCrypto (s : State) : State :=
  (List.range 9).foldl (fun s p =>
    let x := portAt s p
    if x.pstate = 2 ∨ x.pstate = 5 then
      if (ownConf s || x.partnerConf) then (if x.enc || x.keying then s else startKeyx s p)
      else setPort s p fun x => { x with enc := false, keying := false }
    else s) s

/-! ### Safe to remove (R345, R512) -/

/-- Reports SAFE_TO_REMOVE: event, alert and the drain command's completion; held back while a molt runs (R512). -/
def reportSafe (s : State) : State :=
  if molting s then { s with fab := { s.fab with safeHeld := true } }
  else
    let req := match s.fab.drain with | some (_, _, r) => r | none => none
    let s1 := { s with fab := { s.fab with safe := true, safeBeat := s.eng.beat, safeHeld := false, drain := none } }
    answerOpt (setAlert (raiseDev s1 5 0 0x0603 0 0 s.flash.serial) 6) req (replyOk (natLE 8 s.eng.beat))

/-! ### Device reset (R446, Table 14.4) -/

/-- Writes the completions that have room before a reset, then drops the rest (R412; log 29). -/
def flushHeld (s : State) : State :=
  let step (s : State) (x : Cpl) : State :=
    let r := ringAt s x.ring
    if !r.configured || decide (2 * r.slots ≤ ringCount r.cplHead r.cplTail) then s
    else
      let a := r.cplBase + 32 * (r.cplTail % max 1 (2 * r.slots))
      let s1 := if x.result.isEmpty then s else hostWrite s x.resultAddr x.result
      let s2 := hostWrite (hostWrite (hostWrite s1 a (slice x.bytes 0 8)) (a + 16) (slice x.bytes 16 16)) (a + 8) (slice x.bytes 8 8)
      hostNotice (setRing s2 x.ring fun r => { r with cplTail := (r.cplTail + 1) % 65536 })
  let s1 := s.mbx.held.foldl step s
  { s1 with mbx := { s1.mbx with held := [], flights := [] } }

/-- SPDM sessions end on the connections that a condition names (R471). -/
def endSessions (s : State) (p : Nat → Bool) : State :=
  { s with sec := { s.sec with conns := s.sec.conns.map fun x => if p x.conn then { x with session := none } else x } }

/-- The level-2 images of a function are freed; its job keeps the other levels (R482, Table 15.7). -/
def freeDrives (s : State) (f : Nat) : State :=
  setJob (setFn s f fun x => { x with drives := [] }) f fun j =>
    { j with l2Busy := false, chrysalises := j.chrysalises.map fun c => { c with level2 := false } }

/-- The mailbox after a device reset (R386). -/
def resetMailbox (m : Mailbox) : Mailbox :=
  { m with cmdBase := 0, cmdSize := 0, cmdTail := 0, cplBase := 0, armed := false, eventsLost := 0, overfills := 0,
           rings := List.replicate 9 RingPair.off, flights := [], held := [], kept := [], window := 0x400000, chunks := [],
           pieces := [], evHeld := [], cpHeld := [] }

/-- A port after power or reset: down, with its code. -/
def downPort (x : PortSt) : PortSt :=
  { PortSt.init x.code with present := x.present, power := x.power }

/-- Stops everything that a reset or standby ends: jobs, near memory, SRAM, far memory, environment, ports (Table 14.4). -/
def clearDevice (s : State) : State :=
  let s1 := leaveAll s 0
  let s2 := ([0, 1, 2, 3] : List Nat).foldl (fun s f =>
    let s := clearFar (clearNear (clearSram s f) f) f false
    setFn s f fun x => { x with job := none, reset := none }) (stopEnv s1)
  { s2 with
    st := { s2.st with cores := [], partials := [], farState := 0, bad := [], occupancy := List.replicate 128 0, doubled := [] },
    env := { s2.env with resets := [], req := none },
    fab := { s2.fab with ports := s2.fab.ports.map downPort, map := none, bridge := false, drain := none, drainWaits := none, safe := false,
                         safeHeld := false },
    eng := { s2.eng with queue := [], periodAsks := [], below := 0, belowLast := 0, inLock := false, lockBeats := 0, upstream := none, master := none,
                         suspended := false, lockAbort := none } }

/-- The device reset itself: boot stages 4 to 10 follow (R446), once MOD_RST_N is released (R493); READY within 57 s. -/
def deviceReset (s : State) : State :=
  let s1 := flushHeld (failFlights s fun f => !decide (f.phase = .final))
  let s2 := endSessions (clearDevice s1) fun _ => true
  { s2 with
    mbx := resetMailbox s2.mbx,
    pow := { s2.pow with state := 4, stage := if s2.pow.rstHeld then 3 else 4, readyBy := s2.eng.beat + beatsOf s2 57000000000, standby := none,
                         domains := if s2.pow.rstHeld then [] else [93], resetWaits := false, selftest := none,
                         corrected := List.replicate 7 0, errors := List.replicate 6 0, cpReset := [] },
    flash := { s2.flash with staging := none } }

/-! ### Molts (R484 to R486) -/

/-- Starts a molt of F(f + 1): MOLT_BEGIN, state 5, end at 2.5 s (R485). -/
def startMolt (s : State) (f : Nat) (req : Option Nat) (cause : Nat) : State :=
  let s1 := raiseFn (freezeTelemetry s) f 0 0x0801 (f + 1) 0 0
  setFn s1 f fun x => { x with failed := false, molt := some ⟨s.eng.beat, s.eng.beat + beatsOf s 2500000000, req, cause⟩ }

/-- Resets the device, after the molts of its confidential functions and of any molt that runs (R421, Table 14.13). -/
def requestReset (s : State) : State :=
  let s1 := ([0, 1, 2, 3] : List Nat).foldl (fun s f =>
    if ((fnAt s f).confidential || (fnAt s f).failed) && (fnAt s f).molt.isNone && fnExists s f then startMolt s f none 2 else s) s
  if molting s1 then { s1 with pow := { s1.pow with state := 4, resetWaits := true, readyBy := s1.eng.beat + beatsOf s1 60000000000 } }
  else deviceReset s1

end Sys2Proof.Machine
end

