-- ==== Sys2Proof/Machine/Time.lean ====
section
/-! DEFINITION. TIME commands, beat period and stretch announcements (spec/02 R30, R31, R53 to R58, spec/13 R436). -/
namespace Sys2Proof.Machine
open Sys2Proof

/-- Whether this device is the beat master (R32). -/
def isMaster (s : State) : Bool := decide (s.eng.master = some s.flash.serial)

/-- R36, R436. -/
def timeSync (s : State) (c : Cmd) : State :=
  let mode := cArg c 32 1
  unlessRefused s c (mode ≤ 2) 4 32 <|
  let e := s.eng
  let s1 := if mode = e.refMode then s
            else { s with eng := { e with refMode := mode, refSignal := false, refLocked := false, masterLocked := e.masterLocked && !isMaster s } }
  let s2 := if bit (cArg c 34 1) 0 then { s1 with eng := { s1.eng with priority := cArg c 33 1 } } else s1
  answer s2 c (replyOk (natLE 8 s2.eng.ppsBeat ++ natLE 4 s2.eng.ppsOffset
    ++ natLE 1 (b2n (isMaster s2) + 2 * b2n (s2.eng.refSignal && s2.eng.refLocked))))

def execTimeSync (c : Cmd) (s : State) : Host.Outcome State Fault Refusal :=
  .next (startCmd s c fun s => timeSync s c)

/-- R30: clamped to 2,000 to 32,000, then the nearest multiple of 500, ties to the larger. -/
def periodInForce (v : Nat) : Nat := (clamp 2000 32000 v + 250) / 500 * 500

/-- Whether any function of this device holds a job. -/
def jobLoaded (s : State) : Bool := s.fns.any fun x => x.job.isSome

/-- Body of a STRETCH message about the base period: kind (3 request, 4 announcement, 5 refusal), period, effective beat (log 30). -/
def periodBody (kind period beat : Nat) : Bytes := [0] ++ natLE 1 kind ++ natLE 4 period ++ zeros 2 ++ natLE 8 beat

def periodMsg (s : State) (kind period beat : Nat) : Msg := ⟨2, 0, s.eng.beat, selfPhys s, periodBody kind period beat⟩

/-- The completion of TIME.BEAT_SET (R436). -/
def periodReply (p at_ : Nat) : Reply := replyOk (natLE 4 p ++ zeros 4 ++ natLE 8 at_)

/-- An announced period is kept for its beat, and the commands that waited for it complete (R31). -/
def keepPeriod (s : State) (p at_ : Nat) : State :=
  let asks := s.eng.periodAsks
  let s1 := { s with eng := { s.eng with periodPending := some (p, at_), periodAsks := [] } }
  asks.foldl (fun s a => answerOpt s a.req (periodReply p at_)) s1

/-- The master announces a period, effective A beats later at the old period (R31). -/
def announcePeriod (s : State) (p : Nat) : State :=
  let at_ := s.eng.beat + announceDist s
  keepPeriod (emitMsg s (intactPorts s) (periodMsg s 4 p at_)) p at_

/-- A job is loaded where the request has come to: every device that has passed it on says so to the one that asked (R31). -/
def refusePeriod (s : State) : State :=
  let asks := s.eng.periodAsks
  asks.foldl (fun s a =>
    let s1 := match a.port with | some p => emitMsg s [p] (periodMsg s 5 a.period 0) | none => s
    answerOpt s1 a.req ⟨4, 2, 0, natLE 2 0xFFFF ++ [0, 2], none⟩) { s with eng := { s.eng with periodAsks := [] } }

/-- A change of period: refused where a job is loaded, announced by the master, asked for upstream by any other device (R31). -/
def askPeriod (s : State) (a : PeriodAsk) : State :=
  let s1 := { s with eng := { s.eng with periodAsks := s.eng.periodAsks ++ [a] } }
  if jobLoaded s then refusePeriod s1
  else if isMaster s then announcePeriod s1 a.period
  else emitMsg s1 s.eng.upstream.toList (periodMsg s 3 a.period 0)

/-- R31: refused while a job is loaded; the master announces the period, and the command completes with its beat (log 30). -/
def timeBeatSet (s : State) (c : Cmd) : State :=
  let p := periodInForce (cArg c 32 4)
  unlessRefused s c (!jobLoaded s) 2 0xFFFF <|
  if isMaster s then
    let at_ := s.eng.beat + announceDist s
    answer (announcePeriod s p) c (periodReply p at_)
  else askPeriod (setFlight s c.req fun f => { f with phase := .interim }) ⟨p, some c.req, none⟩

/-- A STRETCH message about the period: a request goes upstream to the master, an announcement is kept and goes on, a refusal goes back
the way the request came (R31; log 30). -/
def takePeriod (s : State) (p : Nat) (m : Msg) (others : List Nat) : State :=
  let kind := rd m.body 1 1
  let v := periodInForce (rd m.body 2 4)
  let b := rd m.body 8 8
  if kind = 3 then askPeriod s ⟨v, none, some p⟩
  else if kind = 4 then
    if s.eng.periodPending = some (v, b) ∨ b ≤ s.eng.beat then s else keepPeriod (emitMsg s others m) v b
  else refusePeriod s

/-- Requests that a lost master has not answered go to the new one (R31, R35). -/
def renewAsks (s : State) : State :=
  s.eng.periodAsks.foldl askPeriod { s with eng := { s.eng with periodAsks := [] } }

def execTimeBeatSet (c : Cmd) (s : State) : Host.Outcome State Fault Refusal :=
  .next (startCmd s c fun s => timeBeatSet s c)

/-- Body of a STRETCH message: level, kind (0 request, 1 announcement, 2 host floor), effective beat (Table 2.3; log 27). -/
def stretchBody (level kind beat : Nat) : Bytes := natLE 1 level ++ natLE 1 kind ++ zeros 6 ++ natLE 8 beat

/-- The master announces a change of level at origin beat n, effective at n + A (R55). The message's origin is the physical coordinate,
with a job loaded too (log 153). -/
def announceLevel (s : State) (level : Nat) : State :=
  let at_ := s.eng.beat + announceDist s
  let s1 := { s with eng := { s.eng with levelPending := s.eng.levelPending.filter (fun p => !decide (p.2 = at_)) ++ [(level, at_)], idleBeats := 0 } }
  emitMsg s1 (intactPorts s1) ⟨2, 0, s1.eng.beat, selfPhys s1, stretchBody level 1 at_⟩

/-- The level in force or already announced (R56). -/
def coveredLevel (s : State) : Nat :=
  s.eng.levelPending.foldl (fun m p => max m p.1) s.eng.level

/-- The level after every announced change. -/
def finalLevel (s : State) : Nat := s.eng.levelPending.foldl (fun _ p => p.1) s.eng.level

/-- A request for a level: announced by the master unless covered, sent upstream by any other device (R55, R56). -/
def requestLevel (s : State) (level : Nat) : State :=
  if level ≤ coveredLevel s then s
  else if isMaster s then announceLevel s level
  else emitMsg s (s.eng.upstream.toList) ⟨2, 0, s.eng.beat, selfPhys s, stretchBody level 0 0⟩

/-- The master's act on a new host floor: the higher of floor and requests, announced when it differs (R55, R58). -/
def setHostFloor (s : State) (l : Nat) : State :=
  let s1 := { s with eng := { s.eng with hostFloor := l } }
  let want := max l s.eng.requested
  if isMaster s then (if want = finalLevel s then s1 else announceLevel s1 want)
  else emitMsg s1 (s.eng.upstream.toList) ⟨2, 0, s.eng.beat, selfPhys s, stretchBody l 2 0⟩

/-- R58: the host floor; the higher of floor and requests is asked for (log 27). -/
def timeBeatStretch (s : State) (c : Cmd) : State :=
  let l := min 2 (cArg c 32 1)
  let s1 := setHostFloor s l
  let at_ := s1.eng.levelPending.foldl (fun _ p => p.2) 0
  answer s1 c (replyOk (natLE 1 s1.eng.level ++ zeros 7 ++ natLE 8 at_))

def execTimeBeatStretch (c : Cmd) (s : State) : Host.Outcome State Fault Refusal :=
  .next (startCmd s c fun s => timeBeatStretch s c)

/-- The clock after the floor has risen: at the floor at once, unless the 1,400 W limit holds it below; then the fault of R59 is raised
(R40, R54, R455; log 150). -/
def clockToFloor (s : State) : State :=
  if clockFloor s ≤ s.pow.clock then s
  else if 1400 ≤ s.pow.reading.meanW then abortAll (raiseDev s 0 2 0x0105 0 s.pow.clock 0) 0x0105
  else { s with pow := { s.pow with clock := clockFloor s } }

/-- R53, R55, R64: a change of level takes effect at its announced beat, and the clock's floor with it (R54). -/
def stretchEffective (s : State) : State :=
  match s.eng.levelPending with
  | (l, b) :: r =>
    if b ≤ s.eng.beat then clockToFloor { s with eng := { s.eng with level := l, levelPending := r, idleBeats := 0 } } else s
  | [] => s

def execStretchEffective (s : State) : Host.Outcome State Fault Refusal := .next (stretchEffective s)

/-- R57: after 4,096 beats in which no device asserted the level in force, the master announces one lower. -/
def stretchLowering (s : State) : State :=
  if isMaster s && decide (4096 ≤ s.eng.idleBeats) && decide (0 < s.eng.level) && s.eng.levelPending.isEmpty
      && decide (s.eng.hostFloor < s.eng.level) then
    announceLevel { s with eng := { s.eng with requested := s.eng.level - 1 } } (s.eng.level - 1)
  else s

def execStretchLowering (s : State) : Host.Outcome State Fault Refusal := .next (stretchLowering s)

/-- R31: the announced period takes effect, and the latency classes with it (R44); the stretch level stays. -/
def execPeriodEffective (s : State) : Host.Outcome State Fault Refusal :=
  .next (match s.eng.periodPending with
    | some (p, b) =>
      if b ≤ s.eng.beat then refreshLambda { s with eng := { s.eng with period := p, periodPending := none } } else s
    | none => s)

/-- R36: at a 1PPS edge the locked master records the beat count and the offset. -/
def execReferenceEdge (offsetNs : Nat) (s : State) : Host.Outcome State Fault Refusal :=
  .next (
    let s1 := { s with eng := { s.eng with refSignal := decide (s.eng.refMode ≠ 0) } }
    if s.eng.refMode = 2 && isMaster s then { s1 with eng := { s1.eng with ppsBeat := s.eng.beat, ppsOffset := offsetNs } }
    else s1)

/-- R36: the reference logic has locked to the signal of the selected mode. -/
def execReferenceLocked (s : State) : Host.Outcome State Fault Refusal :=
  .next (if s.eng.refMode = 0 then s
    else { s with eng := { s.eng with refSignal := true, refLocked := true, masterLocked := s.eng.masterLocked || isMaster s } })

/-- R36: no signal is present, so the device ranks as unlocked. -/
def execReferenceSignalLost (s : State) : Host.Outcome State Fault Refusal :=
  .next { s with eng := { s.eng with refSignal := false, refLocked := false,
                                     masterLocked := s.eng.masterLocked && !isMaster s } }

/-- R460, R497, Table 14.12: a pulse at each whole second while `ref_mode` is 0. -/
def execPpsOutput (s : State) : Host.Outcome State Fault Refusal :=
  .next (if s.eng.refMode = 0 then { s with eng := { s.eng with ppsOut := s.eng.ppsOut + 1 } } else s)

end Sys2Proof.Machine
end

