-- ==== Sys2Proof/Machine/Wire.lean ====
section
/-! DEFINITION. Flits, checks, encryption, port loss, identity records and recompilation (spec/10 R317 to R327, R335 to R341). -/
namespace Sys2Proof.Machine
open Sys2Proof

/-! ### Flits (R317, R340) -/

/-- Nonce of a flit: the direction's salt, then the counter (R340); keys hold 32 key bytes and 4 salt bytes. -/
def flitNonce (key : Bytes) (ctr : Nat) : Bytes := (key.drop 32).take 4 ++ natLE 8 ctr

/-- The salt XOR 0x8000_0000 that SYNC flits use (R340). -/
def syncNonce (key : Bytes) (beat : Nat) : Bytes := natLE 4 (leNat ((key.drop 32).take 4) ^^^ 0x80000000) ++ natLE 8 beat

/-- The 64-bit check of a flit's first 248 bytes: CRC, or the truncated tag on an encrypted port (R317, R340). -/
def flitCheck (enc : Bool) (key : Bytes) (ctr : Nat) (b : Bytes) : Bytes :=
  if !enc then natLE 8 (crc64 (b.take 248))
  else if rd b 0 1 % 16 = 1 then (gcmTag (key.take 32) (syncNonce key ctr) (b.take 248) []).take 8
  else (gcmTag (key.take 32) (flitNonce key ctr) (b.take 8) ((b.drop 8).take 240)).take 8

/-- Builds a flit of a port (Table 10.2); a retry request names the missing sequence number in `ack` (R320). -/
def makeFlit (x : PortSt) (lstate ftype : Nat) (last : Bool) (nak : Option Nat) (payload : Bytes) : Bytes :=
  let head := natLE 1 (ftype + 16 * b2n last + 32 * b2n nak.isSome + 64 * b2n x.enc) ++ natLE 1 lstate ++ natLE 2 (x.seqTx % 65536)
    ++ natLE 2 (nak.getD (x.seqRx + 65535) % 65536) ++ zeros 2
  let body := fit 240 payload
  let b := head ++ (if x.enc then gcmCrypt (x.keyTx.take 32) (flitNonce x.keyTx x.ctrTx) body else body)
  b ++ flitCheck x.enc x.keyTx x.ctrTx b

/-- The link state of this device's flits: 1 during a molt, 2 while draining past its switch (Table 10.2, R345, R487). -/
def ownLstate (s : State) : Nat := if molting s then 1 else if s.fab.safe then 2 else 0

/-- Whether a flit type is retried: SYNC never, IDLE only on an encrypted port (Table 10.3). -/
def retried (enc : Bool) (ftype : Nat) : Bool := if ftype = 1 then false else if ftype = 0 then enc else true

/-- Sends one flit; a retried one enters the retry buffer and takes a sequence number (R317, R320; log 171). -/
def sendFlit (s : State) (p ftype : Nat) (last : Bool) (nak : Option Nat) (payload : Bytes) : State :=
  setPort s p fun x =>
    let fl := makeFlit x (ownLstate s) ftype last nak payload
    let x1 := { x with flits := sat (2 ^ 64 - 1) (x.flits + 1) }
    if retried x.enc ftype then
      { x1 with retry := (x.retry ++ [(x.seqTx, fl)]).drop ((x.retry.length + 1) - 12288), seqTx := (x.seqTx + 1) % 65536, ctrTx := x.ctrTx + 1 }
    else x1

/-- Sends bytes as flits of a type: the last one carries `last` and zero padding. -/
def sendFlits (s : State) (p ftype : Nat) (b : Bytes) : State :=
  let n := max 1 (ceilDiv b.length 240)
  (List.range n).foldl (fun s i => sendFlit s p ftype (decide (i + 1 = n)) none ((b.drop (240 * i)).take 240)) s

/-- Cuts one transmission into flits (R318, R319). Control messages are packed by `wireRun`; a SYNC flit is not retried, a resent flit
stands as it was, and a retry request has left at once. -/
def wireOne (s : State) (x : Sent) : State :=
  match x with
  | .msg _ _ => s
  | .express p m => sendFlits s p 3 (msgBytes m)
  | .item p d b => sendFlits s p 4 (d ++ b)
  | .ident p r => sendFlits s p 5 r
  | .keyx p => sendFlits s p 6 (portAt s p).keyOwn
  | .sync p _ => setPort s p fun x => { x with flits := sat (2 ^ 64 - 1) (x.flits + 1) }
  | .resend _ _ _ => s
  | .nak _ _ => s

/-- The control messages of a port, packed back to back into one run of MESSAGE flits (R333). -/
def wireRun (l : List Sent) (s : State) (p : Nat) : State :=
  let b := (l.map fun x => match x with | .msg q m => if q = p then msgBytes m else [] | _ => []).flatten
  if b.isEmpty then s else sendFlits s p 2 b

/-- Cuts every transmission since the last call into flits (log 13). -/
def wireAll (s : State) : State :=
  let fresh := s.fab.sent.drop s.fab.wired
  let s1 := (List.range 9).foldl (wireRun fresh) (fresh.foldl wireOne s)
  { s1 with fab := { s1.fab with wired := s1.fab.sent.length } }

/-- Whether a flit type may be sent again in a phase: MESSAGE in the message phase and in guard time, EXPRESS in the data phase and in guard
time, DATA in the data phase (R318, Table 10.3). -/
def mayResend (ph : Phase) (ftype : Nat) : Bool :=
  if ftype = 2 then decide (ph = .message) || decide (ph = .guard)
  else if ftype = 3 then decide (ph = .data) || decide (ph = .guard)
  else if ftype = 4 then decide (ph = .data)
  else true

/-- Whether 16-bit sequence number a lies at or before b (R317). -/
def seqLe (a b : Nat) : Bool := decide ((b + 65536 - a) % 65536 < 32768)

/-- Sends again, as first sent, the flits that the partner has asked for, in order, as far as the phase lets them go; the others wait
(R318, R320). -/
def resendPort (s : State) (p : Nat) : State :=
  match (portAt s p).resendDue with
  | none => s
  | some n =>
    let l := (portAt s p).retry.filter fun e => seqLe n e.1
    let now := l.takeWhile fun e => mayResend s.eng.phase (rd e.2 0 1 % 16)
    let s1 := setPort s p fun x => { x with resendDue := ((l.drop now.length).head?).map (·.1) }
    { s1 with fab := { s1.fab with sent := s1.fab.sent ++ now.map fun e => Sent.resend p e.1 e.2 } }

/-- Goes on with resending where a phase begins (R318). -/
def resendAll (s : State) : State := (List.range 9).foldl resendPort s

/-! ### Recompilation (R49) -/

/-- A recompilation of every job with a plan begins on the host-class cores (R49). -/
def recompileJob (s : State) (f : Nat) : State :=
  setJob s f fun j =>
    if j.plan.isNone || j.left.contains s.flash.serial || s.fab.safe then j else beginCompile j none

def recompileAll (s : State) : State := ([0, 1, 2, 3] : List Nat).foldl recompileJob s

/-! ### Port loss (R309, R316, R321, R322) -/

def portCode (s : State) (p : Nat) : Nat := (portAt s p).code

/-- Direction ports that the map lists: those of axes longer than 1. -/
def listedPorts (s : State) : List Nat :=
  (List.range 8).filter fun p => decide (1 < coordOn (mapLengths s) (p % 4))

/-- Diameter of the live system in hops, with line axes at full length (R39). -/
def diameter (s : State) : Nat :=
  sumNat (([0, 1, 2, 3] : List Nat).map fun a =>
    let n := coordOn (mapLengths s) a
    if lineAnywhere s a then n - 1 else n / 2)

/-- τ_abort of the map in force; above 80 hops 2.44 µs a hop, with the SYNC_DEPTH event (R39, R308). -/
def refreshAbortBound (s : State) : State :=
  let d := diameter s
  if d ≤ 80 then { s with eng := { s.eng with tauAbort := 200000 } }
  else
    let s1 := { s with eng := { s.eng with tauAbort := 2440 * d } }
    if s.eng.tauAbort = 2440 * d then s1 else raiseDev s1 5 1 0x0502 0 d 0

/-- The gap that a port of this device leaves in its ring: the + port's link follows its own index (R309). -/
def gapOfPort (me len : Coord) (p : Nat) : Nat :=
  let n := max 1 (coordOn len (p % 4))
  if p < 4 then coordOn me (p % 4) else (coordOn me (p % 4) + n - 1) % n

/-- The map with a gap in this device's ring on an axis (R309). -/
def addGap (s : State) (a g : Nat) : State :=
  if (lineGap s a).isSome then s
  else { s with fab := { s.fab with map := s.fab.map.map fun m => { m with lines := (a, g) :: m.lines } } }

/-- R322: the port goes down; the step is abandoned when the plan uses the port, and the plans recompile with a line. -/
def portDown (s : State) (p : Nat) : State :=
  let x := portAt s p
  let served := x.pstate = 2 || x.pstate = 5
  let s1 := setPort s p fun x => { downPort x with retries := x.retries, integrity := x.integrity }
  let s2 := raiseDev s1 5 2 0x0402 x.code 0 0
  if p = 8 then { s2 with fab := { s2.fab with bridge := false } }
  else if !served then s2
  else
    let s3 := addGap s2 (p % 4) (gapOfPort (selfPhys s2) (mapLengths s2) p)
    let s4 := rerank (refreshAbortBound s3)
    let s5 := ([0, 1, 2, 3] : List Nat).foldl (fun s f =>
      match jobAt s f with
      | none => s
      | some j =>
        let used := match j.plan with | some pl => planUsesPort pl x.code | none => false
        let s1 := recompileJob s f
        if used then raiseAbort (setJob s1 f fun j => { j with verified := false }) f 0x0402 else s1) s4
    if (listedPorts s5).all (fun q => (portAt s5 q).pstate = 0) && !(listedPorts s5).isEmpty then leaveAll s5 0x0402 else s5

/-! ### Identity (R326, R327) -/

/-- This device's identity record for a port (Table 10.5). -/
def ownIdent (s : State) (p : Nat) : Bytes :=
  let sysId := match s.fab.map with | some m => m.systemId | none => 0
  let img := if s.flash.runB then s.flash.slotB else s.flash.slotA
  let logical := match s.fns.findSome? fun x => x.job with | some j => j.coord | none => noCoord
  let flags := b2n s.eng.inLock + 2 * b2n s.fab.bridge + 4 * b2n s.fab.drain.isSome + 8 * b2n (decide (s.pow.state = 2))
    + 16 * b2n (ownConf s)
  natLE 8 s.flash.serial ++ ascii "ZK961536" ++ natLE 1 0xB0 ++ natLE 1 1 ++ natLE 1 0 ++ natLE 1 (portCode s p)
    ++ natLE 4 (match img with | some i => i.version | none => 0) ++ natLE 8 sysId ++ coordBytes ((mapCoord s).getD noCoord)
    ++ coordBytes logical ++ natLE 8 s.eng.beat ++ natLE 8 (s.eng.master.getD 0) ++ natLE 1 flags ++ natLE 1 s.pow.slotId
    ++ zeros 6 ++ fit 64 (Config.certDigest s.flash.serial)

/-- An identity record with its beat count left out, which changes by itself. -/
def identKey (r : Bytes) : Bytes := r.take 40 ++ r.drop 48

def sendIdent (s : State) (p : Nat) : State :=
  let r := ownIdent s p
  let s1 := setPort s p fun x => { x with identSent := identKey r }
  { s1 with fab := { s1.fab with sent := s1.fab.sent ++ [.ident p r] } }

/-- Sends the record again on every port where a field has changed since it was sent (R326; log 171). -/
def refreshIdents (s : State) : State :=
  (List.range 8).foldl (fun s p =>
    if decide (6 ≤ (portAt s p).stage) && !decide ((portAt s p).identSent = identKey (ownIdent s p)) then sendIdent s p else s) s

/-- Sends the record again on every port that has exchanged identities (R326). -/
def resendIdents (s : State) : State :=
  (List.range 8).foldl (fun s p => if 6 ≤ (portAt s p).stage then sendIdent s p else s) s

end Sys2Proof.Machine
end

