-- ==== Sys2Proof/Machine/Dot.lean ====
section
/-! DEFINITION. The dot product bit for bit: passes, split pieces, the tail, integer products, the eyespot
(spec/04 R107 to R132). -/
namespace Sys2Proof.Machine
open Sys2Proof

/-! ### One pass (R109 steps 1 to 6, R110 to R112) -/

/-- Rounding into E10M23; a zero result is +0 (R107, R112). -/
def e10 (x : Ex) : Val :=
  match e10m23.roundInf x with
  | .zero _ => vZero
  | v => v

def AccElem.start : AccElem := ⟨vZero, ⟨false, false, false, none⟩⟩

/-- One reduction index: the operand elements as wholes, and the pieces that the pass multiplies (R120, R123). -/
structure Pair where
  a : Val
  b : Val
  pa : Val
  pb : Val
  deriving DecidableEq, Repr

/-- The state after judging one pair of whole elements (R109 step 2, Table 4.2 ranks 1 to 4). -/
def judge (st : SpecialState) (a b : Val) : SpecialState :=
  if a.isNan || b.isNan then { st with nan := true }
  else if (a.isZero && b.isInf) || (a.isInf && b.isZero) then { st with nan := true }
  else if a.isInf || b.isInf then
    if a.neg? = b.neg? then { st with posInf := true } else { st with negInf := true }
  else st

/-- The finite nonzero product of a pair, as sign, significand and exponent (R108). -/
def finProduct (p : Pair) : Option (Bool × Nat × Int) :=
  if p.a.isNan || p.b.isNan || p.a.isInf || p.b.isInf then none
  else match p.pa, p.pb with
    | .fin s m e, .fin t n k => some (s != t, m * n, e + k)
    | _, _ => none

/-- The block's sum of products truncated to 2^(emax − 39) (R110). -/
def blockSum (ps : List (Bool × Nat × Int)) : Val :=
  let top := ps.foldl (fun (o : Option Int) p =>
    let l := floorLog2 p.2.1 1 p.2.2
    match o with | none => some l | some k => some (max k l)) none
  let unit := top.getD 0 - 39
  let s : Int := ps.foldl (fun (a : Int) p =>
    let t : Int := (scaleFloor p.2.1 1 (p.2.2 - unit) : Nat)
    if p.1 then a - t else a + t) 0
  mkFin (decide (s < 0)) s.natAbs unit

/-- One block of at most 32 pairs into an accumulated element; special values count in the lead pass only (R109, R123). -/
def passBlock (lead : Bool) (x : AccElem) (ps : List Pair) : AccElem :=
  let st := if lead then ps.foldl (fun st p => judge st p.a p.b) x.st else x.st
  let fs := ps.filterMap finProduct
  if fs.isEmpty then { x with st }
  else
    let acc := if x.acc.isInf then x.acc else e10 (vAdd x.acc (e10 (blockSum fs).ex)).ex
    { acc, st := if acc.isInf && st.ovf.isNone then { st with ovf := some acc.neg? } else st }

/-- Cuts a list into runs of n. -/
def cutRuns {α : Type} (n : Nat) : Nat → List α → List (List α)
  | 0, _ => []
  | k + 1, l => if l.isEmpty then [] else l.take n :: cutRuns n k (l.drop n)

/-- A run of whole blocks of one pass; padding contributes nothing (R109 step 1). -/
def runPass (lead : Bool) (x : AccElem) (ps : List Pair) : AccElem :=
  (cutRuns 32 ps.length ps).foldl (passBlock lead) x

/-! ### Split pieces (R120 to R123) -/

/-- Piece 0 to 2 of an FP32 element. -/
def splitPiece (i : Nat) (a : Val) : Val :=
  if !a.isFin then (if i = 0 then a else vZero)
  else
    let a1 := bf16.round a.ex
    let r1 := vAdd a (vNeg a1)
    let a2 := bf16.round r1.ex
    if i = 0 then a1 else if i = 1 then a2 else bf16.round (vAdd r1 (vNeg a2)).ex

/-- Passes of Table 4.3 in summation order, as piece numbers of A and B; those with a structural zero are left out (R121). -/
def splitPasses (level : Nat) (a32 b32 : Bool) : List (Nat × Nat) :=
  if !a32 && !b32 then [(0, 0)]
  else
    let l : List (Nat × Nat) :=
      if level = 1 then [(0, 0)] else if level = 2 then [(1, 0), (0, 1), (0, 0)]
      else [(2, 0), (1, 1), (0, 2), (1, 0), (0, 1), (0, 0)]
    l.filter fun p => (a32 || decide (p.1 = 0)) && (b32 || decide (p.2 = 0))

/-- R122: 0 selects level 3, larger values clamp to 3. -/
def splitLevel (v : Nat) : Nat := if v = 0 ∨ 3 < v then 3 else v

/-- A pair of whole elements as the pieces of one pass. -/
def mkPair (a32 b32 : Bool) (pass : Nat × Nat) (x : Val × Val) : Pair :=
  ⟨x.1, x.2, if a32 then splitPiece pass.1 x.1 else x.1, if b32 then splitPiece pass.2 x.2 else x.2⟩

/-- First of two overflow signs. -/
def firstSign (a b : Option Bool) : Option Bool := match a with | some s => some s | none => b

/-- Two results added or subtracted, with the first overflow: earlier states first, then the addition (R123, R124). -/
def joinWith (sub : Bool) (x y : AccElem) : Val × Option Bool :=
  if x.acc.isInf then (x.acc, none)
  else
    let v := if sub then vNeg y.acc else y.acc
    if v.isInf then (v, none)
    else
      let r := e10 (vAdd x.acc v).ex
      (r, if r.isInf then some r.neg? else none)

/-- The states of several passes as one (R123), with the overflow of the additions last. -/
def joinStates (x y : SpecialState) : SpecialState :=
  ⟨x.nan || y.nan, x.posInf || y.posInf, x.negInf || y.negInf, firstSign x.ovf y.ovf⟩

/-- Pass results summed in order, smallest first (R123). -/
def sumPasses : List AccElem → AccElem
  | [] => AccElem.start
  | x :: r =>
    let st := r.foldl (fun st y => joinStates st y.st) x.st
    let (acc, ovf) := r.foldl (fun (a : Val × Option Bool) y =>
      let j := joinWith false ⟨a.1, st⟩ y
      (j.1, firstSign a.2 j.2)) (x.acc, none)
    { acc, st := { st with ovf := firstSign st.ovf ovf } }

/-- The two terms of a complex part combined (R124). -/
def joinParts (sub : Bool) (x y : AccElem) : AccElem :=
  let j := joinWith sub x y
  { acc := j.1, st := let st := joinStates x.st y.st; { st with ovf := firstSign st.ovf j.2 } }

/-! ### The tail (R109 steps 7 to 9, R112 to R116) -/

/-- sc of step 7: the exact product of the channel scales ÷ 2^rot, rounded once into FP32 (R95, R113). -/
def channelScale (row col : Val) (rot : Nat) : Val := rnd ((vMul row col).scale2 (-(rot : Int)))

/-- Table 4.2 over the accumulated value, the channel scale and the bias: the result before output conversion. -/
def tail (x : AccElem) (sc : Val) (bias : Option Val) : Val :=
  let st := x.st
  let one := decide (enc32 sc = 0x3F800000)
  let scaled := if one then x.acc else e10 (vMul x.acc sc).ex
  let scaleOvf := x.acc.isFin && sc.isFin && scaled.isInf
  let b := bias.getD vZero
  let summed := if bias.isSome then e10 (vAdd scaled b).ex else scaled
  let biasOvf := scaled.isFin && b.isFin && summed.isInf
  let scInf := sc.isInf && !x.acc.isZero
  let scSign := x.acc.neg? != sc.neg?
  if st.nan then .nan
  else if st.posInf && st.negInf then .nan
  else if st.posInf then .inf false
  else if st.negInf then .inf true
  else if sc.isNan then .nan
  else if sc.isInf && x.acc.isZero then .nan
  else if b.isNan then .nan
  else if scInf && b.isInf && scSign != b.neg? then .nan
  else if scInf then .inf scSign
  else if b.isInf then b
  else match st.ovf with
    | some s => .inf s
    | none => if scaleOvf then scaled else if biasOvf then summed else (match summed with | .zero _ => vZero | v => v)

/-! ### Integer products (R117 to R119) -/

/-- Exact integer sum of products; operand values are integers. -/
def intDot (ps : List (Val × Val)) : Val :=
  ps.foldl (fun a p => vAdd a (vMul p.1 p.2)) vZero

/-- The accumulator of an integer product as the tail takes it (R119). -/
def intAcc (v : Val) : AccElem := { AccElem.start with acc := e10 v.ex }

/-! ### The eyespot (R129, R130, R132) -/

/-- Bits [31:27] of one element (Table 4.7): its result before conversion and what the conversion counted. -/
def eyeBits (r : Val) (c : Counted) : Nat :=
  let pos := c.posInf || decide (r = .inf false)
  let neg := c.negInf || decide (r = .inf true)
  2 ^ 31 * b2n (c.nan || r.isNan) + 2 ^ 30 * b2n pos + 2 ^ 29 * b2n neg + 2 ^ 28 * b2n c.overflow + 2 ^ 27 * b2n c.saturated

/-- The eyespot of a tile from its elements in row-major order as (row, column, bits [31:27]). -/
def eyespot (es : List (Nat × Nat × Nat)) : BitVec 32 :=
  let sp := es.filter fun e => !decide (e.2.2 = 0)
  let flags := sp.foldl (fun a e => a ||| e.2.2) 0
  match sp.head? with
  | none => 0
  | some f => BitVec.ofNat 32 (flags + f.1 * 2 ^ 20 + f.2.1 * 2 ^ 13 + sat 8191 sp.length)

/-- A summary with one more tile's eyespot (Table 4.8). -/
def EyeSum.add (x : EyeSum) (t : Nat) (e : BitVec 32) : EyeSum :=
  let n := e.toNat % 8192
  let x1 := { x with flags := x.flags ||| (e.toNat / 2 ^ 27 * 2 ^ 27), total := sat (2 ^ 32 - 1) (x.total + n) }
  if n ≠ 0 ∧ t < x.firstTile then { x1 with firstTile := t, firstEye := e } else x1

end Sys2Proof.Machine
end

