-- ==== Sys2Proof/Machine/Operands.lean ====
section
/-! DEFINITION. Operand forms: tensors in memory, register banks, draws, and the writing of results
(spec/03 R70, R80 to R83, R87, R90 to R101; spec/05 R152). -/
namespace Sys2Proof.Machine
open Sys2Proof

/-- What a slice of a job sees: the state at its start, its function, step, micro-batch and logical core. -/
structure SliceCtx where
  s : State
  f : Nat
  j : Job
  step : Nat
  mb : Option Nat
  core : Nat
  deriving Repr

def SliceCtx.mem (x : SliceCtx) : Memory := x.s.st.mem
def SliceCtx.regs (x : SliceCtx) : CoreRegs := lookupD x.s.st.cores x.core CoreRegs.init

/-! ### Sentinel tiles and duplicated updates (R353 to R359) -/

/-- Default sentinel shift by the number of devices (Table 11.3). -/
def sentinelDefault (n : Nat) : Nat := if n ≤ 64 then 8 else if n ≤ 1024 then 7 else if n ≤ 16384 then 6 else 5

/-- Devices of a job, warm ones included (R359). -/
def jobDevices (j : Job) : Nat := coordSize { j.lengths with d := j.lengths.d + j.warm }

/-- The sentinel shift in force: the policy's, or the default (R359, Table 11.4). -/
def sentinelShift (j : Job) : Nat :=
  if j.hdr.policy.sentinelShift = 0 then sentinelDefault (jobDevices j) else j.hdr.policy.sentinelShift

/-- Whether tile t of an operator is a sentinel tile in a step (R353). -/
def isSentinel (j : Job) (step : Nat) (o : OpD) (t : Nat) : Bool :=
  decide ((t + step + 5 * o.layer + o.opIndex) % 2 ^ sentinelShift j = 0)

/-- Default shift of the duplicate updates; 0 for none (Table 11.3). -/
def dupDefault (n : Nat) : Nat := if n ≤ 1024 then 0 else if n ≤ 16384 then 4 else 3

/-- The shift of the duplicated updates in force, 0 for none: the policy's, or the default (R359, Table 11.4). -/
def dupShift (j : Job) : Nat := if j.hdr.policy.dupShift = 0 then dupDefault (jobDevices j) else j.hdr.policy.dupShift

/-- Whether an update range of 2^20 elements is duplicated in a step (R357). -/
def isDuplicated (j : Job) (step range : Nat) : Bool :=
  !decide (dupShift j = 0) && decide ((range + step) % 2 ^ dupShift j = 0)

/-- Whether some update range that elements e0 to e0 + n − 1 of a shard meet is duplicated (R357). -/
def meetsDuplicate (j : Job) (step e0 n : Nat) : Bool :=
  (List.range (ceilDiv (e0 + n) (2 ^ 20))).any fun r => decide (e0 / 2 ^ 20 ≤ r) && isDuplicated j step r

/-! ### Elements -/

/-- The bits of element (i, j) of a tensor reference (R70, R152). -/
def elemRaw (m : Memory) (r : TRef) (i j : Nat) : Nat :=
  let b := fmtBits r.fmt
  let p := b * j
  (leNat (memRead m (r.addr + i * rowBytes r.fmt r.cols + p / 8) ((b + 7) / 8 + 1)) >>> (p % 8)) % 2 ^ b

/-- Whether a reference's elements carry group scales (R85, R152). -/
def groupedRef (r : TRef) : Bool := canGroup r.fmt && decide (groupSize r.group ≠ 0)

/-- The E8M0 scale byte of element (i, j) (R87). -/
def scaleByte (m : Memory) (r : TRef) (i j : Nat) : Nat :=
  (memGet m (r.scaleAddr + i * scaleBytes r.group r.cols + j / max 1 (groupSize r.group))).toNat

/-- A codebook register of a bank, as its BF16 pattern; +0 before a load (R97, R101). -/
def bookEntry (c : CoreRegs) (bank i : Nat) : Nat := ((if bank = 0 then c.book0 else c.book1).getD i 0).toNat

/-- Index of a codebook element in its bank: CB4 adds its window (R97). -/
def bookIndex (r : TRef) (w : Nat) : Nat := if r.fmt = 11 then 16 * min 15 r.cbWin + w else w

/-- The value of element (i, j); `lane` names the format of a codebook operand inside the array (R67, R69, R86, R98, R99). -/
def elemOf (x : SliceCtx) (bank : Nat) (lane : Option Nat) (r : TRef) (i j : Nat) : Val :=
  let w := elemRaw x.mem r i j
  if isCodebook r.fmt then
    let e := bookEntry x.regs bank (bookIndex r w)
    match lane with
    | some l => laneEntry l e
    | none => bf16.decode e
  else if groupedRef r then groupedVal r.fmt w (scaleByte x.mem r i j)
  else elemVal r.fmt w fun _ => 0

/-- One row of a tensor as values, codebooks decoded to their BF16 entries (R99). -/
def rowOf (x : SliceCtx) (r : TRef) (i : Nat) : List Val := (List.range r.cols).map fun j => elemOf x 0 none r i j

/-- The n-th FP32 word of an array. -/
def f32At (m : Memory) (a n : Nat) : F32 := BitVec.ofNat 32 (leNat (memRead m (a + 4 * n) 4))
def valAt (m : Memory) (a n : Nat) : Val := dec32 (f32At m a n)
def u32At (m : Memory) (a n : Nat) : Nat := leNat (memRead m (a + 4 * n) 4)

/-- The n-th element in row-major order of a reference (R169). -/
def flatOf (x : SliceCtx) (r : TRef) (n : Nat) : Val := elemOf x 0 none r (n / max 1 r.cols) (n % max 1 r.cols)

/-! ### Register banks (R90, R125) -/

/-- The row-bank or column-bank scale of output row or column n under the slice's base: 1.0 when the operator names none (R90, R91). -/
def bankScale (regs : List F32) (addr base n : Nat) : Val := if addr = 0 then vOne else dec32 (regs.getD (n - base) 0x3F800000)

/-- The value of a product-table word (R125). -/
def tableVal (w : BitVec 32) : Val :=
  let n := w.toNat
  let s := bit n 31
  let cls := bits n 30 29
  if cls = 0 then vZero else if cls = 2 then .inf s else if cls = 3 then .nan
  else mkFin s (n % 65536) (intOfPattern 10 (bits n 25 16))

/-- The product-table word of two BF16 entries (R125, R126). -/
def tableWord (a b : Nat) : BitVec 32 :=
  let x := bf16.decode a
  let y := bf16.decode b
  let sign := b2n (x.neg? != y.neg?) * 2 ^ 31
  if x.isNan || y.isNan || (x.isZero && y.isInf) || (x.isInf && y.isZero) then BitVec.ofNat 32 (3 * 2 ^ 29)
  else if x.isInf || y.isInf then BitVec.ofNat 32 (sign + 2 * 2 ^ 29)
  else match x, y with
    | .fin _ m e, .fin _ n k => BitVec.ofNat 32 (sign + 2 ^ 29 + intPattern 10 (e + k) * 65536 + m * n)
    | _, _ => BitVec.ofNat 32 sign

/-! ### Draws (R81 to R83) -/

/-- One draw of the generator: stream class, layer, tensor, micro-batch, step and logical coordinate (Table 3.5). -/
def drawBytes (seed : Bytes) (cls layer tensor mb step coord : Nat) : Bytes :=
  let id := natLE 2 cls ++ natLE 2 layer ++ natLE 4 tensor ++ natLE 2 mb ++ zeros 6
  aesBlock (xorBytes (fit 16 seed) id) (natLE 8 step ++ natLE 8 coord)

/-- The micro-batch index of stream classes 0x0002 and 0x0004, 0 for a slice that serves none (Table 3.5). -/
def SliceCtx.mbIx (x : SliceCtx) : Nat := x.mb.getD 0

/-- The logical coordinate of element (i, j) of this device's shard of a tensor, as the plan places it (R81). -/
def logicalIndex (j : Job) (tensor cols i c : Nat) : Nat :=
  match j.plan.bind fun p => p.places.find? fun q => decide (q.tensor = tensor) with
  | some q => (q.row + i) * q.cols + q.col + c
  | none => i * cols + c

/-! ### Results (R74, R77, R80) -/

/-- One result converted into an output reference; a gradient in 16 bits takes `ovf_inf` 1 and the job's stochastic cast. -/
def castOut (x : SliceCtx) (o : OpD) (grad : Bool) (r : TRef) (i c : Nat) (v : Ex) : Nat × Counted :=
  let half := r.fmt = 1 ∨ r.fmt = 2
  if grad ∧ half then
    if x.j.hdr.gradSr = 1 then
      convertSR r.fmt true (rd (drawBytes x.j.hdr.seed 2 o.layer r.tensorId x.mbIx x.step (logicalIndex x.j r.tensorId r.cols i c)) 0 4) v
    else convert r.fmt true v
  else convert r.fmt (flagOvf o) v

/-- Bytes of elements j0 onward of a row: the start is on a byte boundary (R70). -/
def rowWrite (r : TRef) (i j0 : Nat) (es : List Nat) : Effect :=
  .mem (r.addr + i * rowBytes r.fmt r.cols + fmtBits r.fmt * j0 / 8)
    (if j0 = 0 ∧ es.length = r.cols then packRow r.fmt es else natLE ((fmtBits r.fmt * es.length + 7) / 8) (packNat (fmtBits r.fmt) es))

def f32Bytes (v : Val) : Bytes := natLE 4 (fp32.encode v)

/-- Largest finite value of a destination as a value (R167). -/
def destMax (code : Nat) : Val :=
  match floatOf code with
  | some f => f.maxVal false
  | none => vInt (intRange code).2

/-- s_c of R167 mode 2. -/
def rowScaleOf (code : Nat) (vs : List Val) : Val :=
  match amax vs with
  | .zero _ => vOne
  | a => match rDiv (vAbs a) (destMax code) with
    | .zero _ => .fin false 1 (-149)
    | v => v

/-- The exact quotient that mode 2 rounds once (R79, R167). -/
def quantEx (s v : Val) : Ex := if v.isFin then vDiv v s else v.ex

/-- The codebook of a codebook output, from the core's bank 0 (R97, R167; log 44). -/
def outBook (x : SliceCtx) (r : TRef) : List Val :=
  (List.range (if r.fmt = 11 then 16 else 256)).map fun i => bf16.decode (bookEntry x.regs 0 (bookIndex r i))

/-- What a value counts as (R75): NaN, or an infinity of its sign. -/
def valCount (v : Val) : Counted := { noCount with nan := v.isNan, posInf := decide (v = .inf false), negInf := decide (v = .inf true) }

/-- A row quantised to a codebook: indices, each counted by the entry that it stands for, or as the NaN of R103 (R75, R102, R103). -/
def quantBookRow (book : List Val) (vs : List Val) : List (Nat × Counted) :=
  vs.map fun v => let q := quantBook book v; (q.1, if q.2 then valCount .nan else valCount (book.getD q.1 .nan))

/-- A grouped row: elements and scale bytes (R87, R88). -/
def quantGroups (r : TRef) (ovf : Bool) (vs : List Val) : List (Nat × Counted) × List Nat :=
  let gs := (cutRuns (groupSize r.group) vs.length vs).map (quantGroup r.fmt ovf)
  (gs.flatMap (·.2), gs.map (·.1))

/-- A store with the counts of the results in it. -/
abbrev Stored := Effect × List Counted

/-- One whole row of converted results with the conversion that its reference calls for: codebook indices, groups with their scale
bytes, or elements (R77, R78, R88, R102). -/
def putRow (x : SliceCtx) (o : OpD) (grad : Bool) (r : TRef) (i : Nat) (vs : List Val) : List Stored :=
  if isCodebook r.fmt then
    let q := quantBookRow (outBook x r) vs
    [(rowWrite r i 0 (q.map (·.1)), q.map (·.2))]
  else if groupedRef r then
    let q := quantGroups r (flagOvf o) vs
    [(rowWrite r i 0 (q.1.map (·.1)), q.1.map (·.2)),
     (.mem (r.scaleAddr + i * scaleBytes r.group r.cols) ((q.2.map (natLE 1)).flatten), [])]
  else
    let es := vs.zipIdx.map fun v => castOut x o grad r i v.2 v.1.ex
    [(rowWrite r i 0 (es.map (·.1)), es.map (·.2))]

/-- Whether a conversion between two references is the identity of Table 3.4: one ungrouped format that is no codebook (R78). -/
def sameBits (a r : TRef) : Bool := decide (a.fmt = r.fmt) && !groupedRef a && !groupedRef r && !isCodebook r.fmt

/-- Row k of a reference copied bit for bit into row i of another: the identity of Table 3.4, counted by its values (R75, R78). -/
def copyBits (x : SliceCtx) (a r : TRef) (k i : Nat) : Stored :=
  (rowWrite r i 0 ((List.range a.cols).map (elemRaw x.mem a k)), (List.range a.cols).map fun j => valCount (elemOf x 0 none a k j))

/-- Completion counts of a non-product operator: NaN, infinite, saturated, others (R75). -/
def countsOf (op : Nat) (cs : List Counted) (others : Nat) : List Effect :=
  let n (p : Counted → Bool) : Nat := (cs.filter p).length
  [.stats op (n (·.nan)) (n fun c => c.posInf || c.negInf) (n (·.saturated)) others]

/-- A backward operator other than a product sets the nonfinite flag on a NaN or an infinity (R253). -/
def backwardFlag (grad : Bool) (cs : List Counted) : List Effect :=
  if grad && cs.any (fun c => c.nan || c.posInf || c.negInf) then [.nonfinite] else []

end Sys2Proof.Machine
end

