-- ==== Sys2Proof/Machine/SpecialFn.lean ====
section
/-! DEFINITION. The special-function unit: exact values rounded once into FP32 (spec/05 R149).
Numbers x stand as integers in units of 2^-320, which holds every FP32 operand exactly; each function gives an
approximation and a bound on its error, and the result is the rounding that both ends of that interval share. -/
namespace Sys2Proof.Machine
open Sys2Proof

/-- One, with the 320 fraction bits of the working numbers. -/
def fxOne : Int := 2 ^ 320
/-- Error bound of one approximation, in units of 2^-320. -/
def fxErr : Int := 2 ^ 40

def fxMul (a b : Int) : Int := a * b / 2 ^ 320

/-- An FP32 value that is not huge as a working number; exact for exponents from −149 up. -/
def fxOf : Val → Int
  | .fin s m e => let v : Int := ((m <<< (e + 320).toNat : Nat) : Int); if s then -v else v
  | _ => 0

/-- Σ x^k ÷ k! over `n` terms from the k-th term `t`. -/
def expTerms (x : Int) : Nat → Int → Int → Int
  | 0, _, _ => 0
  | n + 1, k, t => t + expTerms x n (k + 1) (fxMul t x / (k + 1))

/-- Σ ±z^(2i+1) ÷ (2i+1) over `n` terms; `q` is ±z² and `p` the running odd power. -/
def atanTerms (q : Int) : Nat → Int → Int → Int
  | 0, _, _ => 0
  | n + 1, i, p => p / (2 * i + 1) + atanTerms q n (i + 1) (fxMul p q)

/-- Inverse hyperbolic tangent for |z| ≤ 1/3. -/
def fxAtanh (z : Int) : Int := atanTerms (fxMul z z) 110 0 z
/-- Arctangent of 1/n for n ≥ 5. -/
def fxAtanInv (n : Int) : Int := atanTerms (-(fxOne / (n * n))) 75 0 (fxOne / n)

/-- ln 2. -/
def fxLn2 : Int := 2 * fxAtanh (fxOne / 3)
/-- π, by Machin's formula. -/
def fxPi : Int := 16 * fxAtanInv 5 - 4 * fxAtanInv 239

/-- Integer square root by binary digits from bit k down. -/
def isqrtGo (n : Nat) : Nat → Nat → Nat
  | 0, r => if (r + 1) * (r + 1) ≤ n then r + 1 else r
  | k + 1, r => let t := r + 2 ^ (k + 1); isqrtGo n k (if t * t ≤ n then t else r)
def isqrt (n : Nat) : Nat := isqrtGo n (Nat.log2 n / 2 + 1) 0

/-- An interval lo ÷ den × 2^e to hi ÷ den × 2^e of one sign, and its rounding where both ends agree. -/
def settleRound (fn : Nat) (x : Val) (neg : Bool) (lo hi den : Int) (e : Int) : Val :=
  let r (v : Int) : Val := rndEx (if v ≤ 0 then .zero neg else .ratio neg v.toNat den.toNat e)
  if enc32 (r lo) = enc32 (r hi) then r lo else dec32 (Config.specialFallback fn (enc32 x))

/-- A signed approximation v ± err in units of 2^-320. -/
def settleFx (fn : Nat) (x : Val) (v err : Int) : Val :=
  settleRound fn x (decide (v < 0)) ((v.natAbs : Int) - err) (v.natAbs + err) 1 (-320)

/-- e^x as (mantissa, exponent, error): mantissa in units of 2^-320, exact for 0. -/
def expParts (x : Int) : Int × Int × Int :=
  if x = 0 then (fxOne, 0, 0)
  else
    let k := x / fxLn2
    (expTerms (x - k * fxLn2) 90 0 fxOne, k, fxErr)

/-- 2^x, exact at integers. -/
def exp2Parts (x : Int) : Int × Int × Int :=
  let k := x / fxOne
  let f := x % fxOne
  if f = 0 then (fxOne, k, 0) else (expTerms (fxMul f fxLn2) 90 0 fxOne, k, fxErr)

/-- ln of m × 2^e as a working number. -/
def lnFx (m : Nat) (e : Int) : Int :=
  let l := Nat.log2 m
  let y : Int := ((m <<< (320 - l) : Nat) : Int)
  (e + l) * fxLn2 + 2 * fxAtanh ((y - fxOne) * fxOne / (y + fxOne))

/-- erf(x) ÷ x for |x| < 4: 2 ÷ √π × Σ (−x²)^k ÷ (k! (2k + 1)); `t` is the running term x^2k ÷ k!. -/
def erfTerms (q : Int) : Nat → Int → Int → Int
  | 0, _, _ => 0
  | n + 1, k, t => t / (2 * k + 1) + erfTerms q n (k + 1) (fxMul t q / (k + 1))

def fxRootPi : Int := (isqrt (fxPi.toNat * 2 ^ 320) : Nat)

/-- Σ (−1)^k r^(2k+o) ÷ (2k+o)! from the term t of degree d. -/
def trigTerms (q : Int) : Nat → Int → Int → Int
  | 0, _, _ => 0
  | n + 1, d, t => t + trigTerms q n (d + 2) (fxMul t q / ((d + 1) * (d + 2)))

/-- π with 640 fraction bits, for the reduction of arguments up to 2^128. -/
def widePi : Int :=
  let one : Int := 2 ^ 640
  let rec go (n : Int) : Nat → Int → Int → Int
    | 0, _, _ => 0
    | k + 1, i, p => p / (2 * i + 1) + go n k (i + 1) (-(p / (n * n)))
  16 * go 5 145 0 (one / 5) - 4 * go 239 60 0 (one / 239)

/-- Quadrant and reduced argument of an exact x in units of 2^-640. -/
def trigReduce (x : Int) : Int × Int :=
  let h := widePi / 2
  let n := (2 * x + h) / (2 * h)
  (n % 4, (x - n * h) / 2 ^ 320)

def wideOf : Val → Int
  | .fin s m e => let v : Int := ((m <<< (e + 640).toNat : Nat) : Int); if s then -v else v
  | _ => 0

def fxSin (r : Int) : Int := trigTerms (-(fxMul r r)) 50 1 r
def fxCos (r : Int) : Int := trigTerms (-(fxMul r r)) 50 0 fxOne

/-- sin (o = 0) or cos (o = 1) of a finite value. -/
def trigVal (fn : Nat) (o : Int) (x : Val) : Val :=
  let (n, r) := trigReduce (wideOf x)
  let k := (n + o) % 4
  let v := if k % 2 = 0 then fxSin r else fxCos r
  settleFx fn x (if 2 ≤ k then -v else v) fxErr

/-- |x| < 2^k for a finite value. -/
def below2 (k : Int) : Val → Bool
  | .fin _ m e => decide (floorLog2 m 1 e < k)
  | _ => true



/-- Result of e^x or 2^x from its parts. -/
def expVal (fn : Nat) (x : Val) (p : Int × Int × Int) : Val :=
  settleRound fn x false (p.1 - p.2.2) (p.1 + p.2.2) 1 (p.2.1 - 320)

/-- Square root or reciprocal root: an integer root of n × 2^(2k) with its remainder test. -/
def rootVal (fn : Nat) (x : Val) (num den : Nat) (e : Int) : Val :=
  let o := e % 2
  let n := (num <<< (640 + o.toNat)) / den
  let exact := decide (n * den = num <<< (640 + o.toNat))
  let s := isqrt n
  let ex := exact && decide (s * s = n)
  settleRound fn x false s (if ex then s else s + 1) 1 ((e - o) / 2 - 320)

/-- A special function at an FP32 value; functions are numbered as opcodes 0x10 to 0x1B of Table 5.7 (R149). -/
def special (fn : Nat) (x : Val) : Val :=
  match fn, x with
  | _, .nan => .nan
  | 0, .inf s => if s then .zero false else .inf false
  | 0, .zero _ => vOne
  | 0, .fin s _ _ =>
    if !below2 8 x then (if s then .zero false else .inf false) else expVal 0 x (expParts (fxOf x))
  | 1, .inf s => if s then .nan else .inf false
  | 1, .zero _ => .inf true
  | 1, .fin s m e => if s then .nan else if lnFx m e = 0 then .zero false else settleFx 1 x (lnFx m e) fxErr
  | 2, .inf s => if s then .nan else .zero false
  | 2, .zero s => .inf s
  | 2, .fin s m e => if s then .nan else rootVal 2 x 1 m (-e)
  | 3, .inf s => if s then .nan else .inf false
  | 3, .zero s => .zero s
  | 3, .fin s m e => if s then .nan else rootVal 3 x m 1 e
  | 4, v => rDiv vOne v
  | 5, .inf s => .fin s 1 0
  | 5, .zero s => .zero s
  | 5, .fin s _ _ =>
    if below2 (-13) x then x
    else if !below2 5 x then .fin s 1 0
    else
      let p := expParts (2 * (fxOf (vAbs x)))
      let v := p.1 * 2 ^ p.2.1.toNat
      settleRound 5 x s ((v - 2 ^ 140 - fxOne) * 2 ^ 320 / (v + fxOne)) ((v + 2 ^ 140 - fxOne) * 2 ^ 320 / (v + fxOne) + 1) 1 (-320)
  | 6, .inf s => if s then .zero false else vOne
  | 6, .zero _ => .fin false 1 (-1)
  | 6, .fin s _ _ =>
    if !below2 8 x then (if s then .zero false else vOne)
    else
      let p := expParts (fxOf x)
      let up := 2 ^ p.2.1.toNat
      let dn := 2 ^ (-p.2.1).toNat
      let v := p.1 * up
      let w := fxOne * dn
      settleRound 6 x false ((v - p.2.2 * up) * 2 ^ 640 / (v + w)) ((v + p.2.2 * up) * 2 ^ 640 / (v + w) + 1) 1 (-640)
  | 7, .inf s => .fin s 1 0
  | 7, .zero s => .zero s
  | 7, .fin s m e =>
    if !below2 2 x then .fin s 1 0
    else
      let q := fxMul (fxOf x) (fxOf x)
      let f := 2 * erfTerms (-q) 150 0 fxOne * fxOne / fxRootPi
      settleRound 7 x s ((f - 2 ^ 80) * m) ((f + 2 ^ 80) * m) 1 (e - 320)
  | 8, .inf _ => .nan
  | 8, .zero s => .zero s
  | 8, v => if below2 (-13) v then v else trigVal 8 0 v
  | 9, .inf _ => .nan
  | 9, .zero _ => vOne
  | 9, v => trigVal 9 1 v
  | 10, .inf s => if s then .zero false else .inf false
  | 10, .zero _ => vOne
  | 10, .fin s _ _ =>
    if !below2 8 x then (if s then .zero false else .inf false) else expVal 10 x (exp2Parts (fxOf x))
  | 11, .inf s => if s then .nan else .inf false
  | 11, .zero _ => .inf true
  | 11, .fin s m e =>
    if s then .nan
    else
      let l := Nat.log2 m
      if m = 2 ^ l then (if e + l = 0 then .zero false else vInt (e + l))
      else settleFx 11 x (lnFx m e * fxOne / fxLn2) (2 ^ 60)
  | _, v => dec32 (Config.specialOpen fn (enc32 v))

end Sys2Proof.Machine
end

