-- ==== Sys2Proof/Machine/Vector.lean ====
section
/-! DEFINITION. Vector and special-function operators: ELEMENTWISE, NORM, ROUTER, EMBED, QUANTISE, ROTATE and RANDOM
(spec/05 R149 to R170). -/
namespace Sys2Proof.Machine
open Sys2Proof

/-- An FP32 field of a parameter block. -/
def opF32 (o : OpD) (off : Nat) : Val := dec32 (BitVec.ofNat 32 (opArg o off 4))

/-- Gradient outputs: those of a backward operator, and LOSS's dz (R77, R250). -/
def isGrad (o : OpD) : Bool := flagBack o || o.cls = 9

/-- One whole row of an operator's results. -/
def outRow (x : SliceCtx) (o : OpD) (r : TRef) (i : Nat) (vs : List Val) : List Stored := putRow x o (isGrad o) r i vs

/-- FP32 words stored and counted (R75). -/
def putWords (a : Nat) (vs : List Val) : Stored := (.mem a ((vs.map f32Bytes).flatten), vs.map valCount)

/-- The effects of written rows: the stores, the counts, and the nonfinite flag of a backward operator. -/
def rowsDone (op : Nat) (o : OpD) (ws : List Stored) (others : Nat) (more : List Counted := []) : List Effect :=
  let cs := ws.flatMap (·.2) ++ more
  ws.map (·.1) ++ countsOf op cs others ++ backwardFlag (isGrad o) cs

/-! ### ELEMENTWISE (R169, R170) -/

/-- One element's state: temporaries and outputs written so far. -/
structure EwState where
  temps : List (Nat × Val)
  outs : List (Nat × Val)
  deriving DecidableEq, Repr

/-- Number of operands of an opcode, 0 for a reserved one (Table 5.7). -/
def ewArity (op : Nat) : Nat :=
  if op = 1 ∨ op = 9 ∨ op = 10 ∨ (16 ≤ op ∧ op ≤ 27) then 1
  else if (2 ≤ op ∧ op ≤ 4) ∨ (6 ≤ op ∧ op ≤ 8) ∨ op = 13 then 2
  else if op = 5 ∨ op = 11 ∨ op = 12 then 3 else 0

/-- The result of one step (Table 5.7). -/
def ewApply (op : Nat) (a b c : Val) : Val :=
  if op = 1 then a else if op = 2 then rAdd a b else if op = 3 then rSub a b else if op = 4 then rMul a b
  else if op = 5 then rFma a b c else if op = 6 then rDiv a b else if op = 7 then vMax a b else if op = 8 then vMin a b
  else if op = 9 then vNeg a else if op = 10 then vAbs a else if op = 11 then vMin (vMax a b) c
  else if op = 12 then (if vLt vZero a then b else c)
  else if op = 13 then (if vLt b a then vOne else vZero)
  else special (op - 16) a

/-- An operand code (Table 5.6). -/
def ewOperand (o : OpD) (ins : List Val) (st : EwState) (code : Nat) : Val :=
  if code < 16 then lookupD st.temps code vZero
  else if code < 20 then ins.getD (code - 16) vZero
  else opF32 o (8 + 4 * (code - 32))

def ewStep (o : OpD) (ins : List Val) (st : EwState) (i : Nat) : EwState :=
  let at_ (k : Nat) : Nat := opArg o (72 + 8 * i + k) 1
  let v := ewApply (at_ 0) (ewOperand o ins st (at_ 2)) (ewOperand o ins st (at_ 3)) (ewOperand o ins st (at_ 4))
  if at_ 1 < 16 then { st with temps := insertK st.temps (at_ 1) v } else { st with outs := insertK st.outs (at_ 1 - 48) v }

def ewSteps (o : OpD) : Nat := clamp 1 32 (opArg o 0 1)

/-- Input n at element (i, c) by its broadcast code (R169). -/
def ewInput (x : SliceCtx) (o : OpD) (n i c : Nat) : Val :=
  let r := refAt o n
  let b := bits (opArg o 1 1) (2 * n + 1) (2 * n)
  if b = 0 then elemOf x 0 none r i c else flatOf x r (if b = 1 then i else if b = 2 then c else 0)

/-- The outputs of one element. -/
def ewElem (x : SliceCtx) (o : OpD) (i c : Nat) : EwState :=
  let ins := (List.range (min 4 o.nIn)).map fun n => ewInput x o n i c
  (List.range (ewSteps o)).foldl (ewStep o ins) ⟨[], []⟩

def elementwise (x : SliceCtx) (op : Nat) (o : OpD) (r0 n : Nat) : List Effect :=
  let rows := (List.range n).map (r0 + ·)
  let ws := rows.flatMap fun i =>
    let es := (List.range (outAt o 0).cols).map (ewElem x o i)
    (List.range o.nOut).flatMap fun k => outRow x o (outAt o k) i (es.map fun e => lookupD e.outs k vZero)
  rowsDone op o ws 0

/-! ### NORM (R159, R160) -/

def normMeanVar (o : OpD) : Bool := decide (opArg o 4 1 ≠ 0)

/-- Mean (mean-variance mode) and r of a row (R159). -/
def normStats (o : OpD) (xs : List Val) : Val × Val :=
  let h := vInt xs.length
  let mu := if normMeanVar o then rDiv (treeSum xs) h else vZero
  let sq := xs.map fun v => let d := if normMeanVar o then rSub v mu else v; rMul d d
  (mu, special 2 (rAdd (rDiv (treeSum sq) h) (opF32 o 0)))

/-- x̂ of R160. -/
def normHat (o : OpD) (mu r v : Val) : Val := rMul (if normMeanVar o then rSub v mu else v) r

/-- Forward rows: inputs x, γ and β; outputs y and the statistics r, then μ (R159; log 42). -/
def normForward (x : SliceCtx) (op : Nat) (o : OpD) (r0 n : Nat) : List Effect :=
  let ws := ((List.range n).map (r0 + ·)).flatMap fun i =>
    let xs := rowOf x (refAt o 0) i
    let (mu, r) := normStats o xs
    let ys := xs.zipIdx.map fun v =>
      let g := rMul (normHat o mu r v.1) (flatOf x (refAt o 1) v.2)
      if normMeanVar o then rAdd g (flatOf x (refAt o 2) v.2) else g
    let st := outAt o 1
    outRow x o (outAt o 0) i ys ++
      (if 2 ≤ o.nOut then [putWords (st.addr + i * rowBytes 0 st.cols) (if normMeanVar o then [r, mu] else [r])] else [])
  rowsDone op o ws 0

/-- Statistics of a row as the forward pass wrote them. -/
def normRead (x : SliceCtx) (o : OpD) (i : Nat) : Val × Val :=
  let st := refAt o 2
  (if normMeanVar o then elemOf x 0 none st i 1 else vZero, elemOf x 0 none st i 0)

/-- x̂ and dy of a row. -/
def normPair (x : SliceCtx) (o : OpD) (i : Nat) : List (Val × Val) :=
  let (mu, r) := normRead x o i
  ((rowOf x (refAt o 0) i).map (normHat o mu r)).zip (rowOf x (refAt o 3) i)

/-- Backward rows: inputs x, γ, the statistics and dy; outputs dx, dγ and dβ (R160; log 42). The slice with the last row
also writes dγ and dβ over every row of the device. -/
def normBackward (x : SliceCtx) (op : Nat) (o : OpD) (r0 n : Nat) : List Effect :=
  let X := refAt o 0
  let h := vInt X.cols
  let dx (i : Nat) : List Val :=
    let r := (normRead x o i).2
    let hy := normPair x o i
    let g := hy.zipIdx.map fun p => rMul p.1.2 (flatOf x (refAt o 1) p.2)
    let c1 := rDiv (treeSum ((g.zip hy).map fun p => rMul p.1 p.2.1)) h
    let c0 := if normMeanVar o then rDiv (treeSum g) h else vZero
    (g.zip hy).map fun p =>
      let a := if normMeanVar o then rSub p.1 c0 else p.1
      rMul r (rSub a (rMul p.2.1 c1))
  let ws := ((List.range n).map (r0 + ·)).flatMap fun i => outRow x o (outAt o 0) i (dx i)
  let last :=
    if r0 + n < X.rows then []
    else
      let rows := (List.range X.rows).map (normPair x o)
      let col (c : Nat) : List (Val × Val) := rows.map fun r => r.getD c (vZero, vZero)
      let cols := List.range X.cols
      (if 2 ≤ o.nOut then outRow x o (outAt o 1) 0 (cols.map fun c => treeSum ((col c).map fun p => rMul p.2 p.1)) else [])
        ++ (if 3 ≤ o.nOut then outRow x o (outAt o 2) 0 (cols.map fun c => treeSum ((col c).map (·.2))) else [])
  rowsDone op o (ws ++ last) 0

/-! ### Online row statistics (R155) -/

/-- Running maximum and sum of a row over blocks of 128 (R155 without the output row). -/
def onlineStep (ml : Val × Val) (z : List Val) : Val × Val :=
  let mn := vMax ml.1 (treeMax z)
  if mn = .inf true then ml
  else
    let a := if ml.1 = .inf true then vZero else special 0 (rSub ml.1 mn)
    (mn, rAdd (rMul a ml.2) (treeSum (z.map fun v => special 0 (rSub v mn))))

def onlineStats (z : List Val) : Val × Val := (cutRuns 128 z.length z).foldl onlineStep (.inf true, vZero)

/-- lse of R155. -/
def lseOf (ml : Val × Val) : Val := if ml.2.isZero then .inf true else rAdd ml.1 (special 1 ml.2)

/-! ### ROUTER (R164, R208) -/

/-- Scores of a row (R164 step 1). -/
def routerScores (o : OpD) (z : List Val) : List Val :=
  if opArg o 1 1 = 0 then
    let ml := onlineStats z
    z.map fun v => rDiv (special 0 (rSub v ml.1)) ml.2
  else z.map (special 6)

/-- Indices of the k largest keys, ties to the lower index, in ascending order (R164 step 3). -/
def topK (k : Nat) (keys : List Val) : List Nat :=
  let beats (a b : Val × Nat) : Bool := vLt b.1 a.1 || (!vLt a.1 b.1 && decide (a.2 < b.2))
  let ks := keys.zipIdx
  ((ks.filter fun a => decide ((ks.filter fun b => beats b a).length < k)).map (·.2))

/-- The effective k (R164). -/
def effK (o : OpD) : Nat := min (routerK o) (routerExperts o)

/-- Selected experts and their gates (R164 steps 2 to 4). -/
def routeRow (j : Job) (o : OpD) (z : List Val) : List Nat × List Val :=
  if z.any Val.isNan then (List.range (effK o), List.replicate (effK o) .nan)
  else
    let sc := routerScores o z
    let bias := lookupD j.committed.biases o.layer []
    let keys := sc.zipIdx.map fun p => if routerUseBias o then rAdd p.1 (dec32 (bias.getD p.2 0)) else rAdd p.1 vZero
    let sel := topK (effK o) keys
    let g := sel.map fun e => sc.getD e vZero
    let g1 := if opArg o 2 1 ≠ 0 then (let t := g.foldl rAdd vZero; g.map fun v => rDiv v t) else g
    (sel, g1.map fun v => rMul v (opF32 o 4))

/-- ROUTER forward: indices, gates, counts, and the counts of the exchange (R164, R208). A ROUTER slice covers every row. -/
def routerForward (x : SliceCtx) (op : Nat) (o : OpD) : List Effect :=
  let X := refAt o 0
  let n := routerExperts o
  let rs := (List.range X.rows).map fun i => routeRow x.j o (rowOf x X i)
  let nan := ((List.range X.rows).filter fun i => (rowOf x X i).any Val.isNan).length
  let counts := (List.range n).map fun e => (rs.filter fun r => r.1.contains e).length
  let owner (e : Nat) : Nat := blockOwner n x.j.lengths.e e
  let distinct := (List.range 8).map fun d =>
    if d = x.j.coord.e ∨ x.j.lengths.e ≤ d then 0 else (rs.filter fun r => r.1.any fun e => decide (owner e = d)).length
  (rs.zipIdx.flatMap fun r =>
    [Effect.mem ((outAt o 0).addr + 2 * effK o * r.2) ((r.1.1.map (natLE 2)).flatten),
     Effect.mem ((outAt o 1).addr + 4 * effK o * r.2) ((r.1.2.map f32Bytes).flatten)])
  ++ [Effect.mem (outAt o 2).addr ((counts.map (natLE 4)).flatten), .stats op nan 0 0 0, .routed o.layer x.mbIx counts distinct (rs.map fun r => r.1.zip (r.2.map enc32))]

/-- Derivative of the gates by the scores: the sum over slots of dgate × ∂gate/∂σ_e (R164). -/
def gateBack (o : OpD) (sc g dg : List Val) (sel : List Nat) (e : Nat) : Val :=
  let scale := opF32 o 4
  match sel.findIdx? (· == e) with
  | none => vZero
  | some i =>
    let own := rMul (dg.getD i vZero) scale
    if opArg o 2 1 = 0 then own
    else
      let t := (sel.map fun k => sc.getD k vZero).foldl rAdd vZero
      let dot := treeSum ((g.zip dg).map fun p => rMul p.1 p.2)
      rDiv (rSub own dot) t

/-- ROUTER backward: dlogits from the k gate gradients, through renormalisation and score function (R164; log 43).
Inputs: logits, indices, gates, gate gradients. -/
def routerBackward (x : SliceCtx) (op : Nat) (o : OpD) (r0 n : Nat) : List Effect :=
  let X := refAt o 0
  let k := effK o
  let ws := ((List.range n).map (r0 + ·)).flatMap fun i =>
    let z := rowOf x X i
    let sc := routerScores o z
    let sel := (List.range k).map fun q => leNat (memRead x.mem ((refAt o 1).addr + 2 * (k * i + q)) 2)
    let g := (List.range k).map fun q => valAt x.mem (refAt o 2).addr (k * i + q)
    let dg := (List.range k).map fun q => valAt x.mem (refAt o 3).addr (k * i + q)
    let ds := (List.range sc.length).map (gateBack o sc g dg sel)
    let dz :=
      if opArg o 1 1 = 0 then
        let dot := treeSum ((sc.zip ds).map fun p => rMul p.1 p.2)
        (sc.zip ds).map fun p => rMul p.1 (rSub p.2 dot)
      else (sc.zip ds).map fun p => rMul p.2 (rMul p.1 (rSub vOne p.1))
    outRow x o (outAt o 0) i dz
  rowsDone op o ws 0

/-! ### EMBED (R166) -/

def embedIndex (x : SliceCtx) (o : OpD) (i : Nat) : Nat := u32At x.mem (refAt o 1).addr i

/-- Lookup rows: inputs table and indices (R166). -/
def embedForward (x : SliceCtx) (op : Nat) (o : OpD) (r0 n : Nat) : List Effect :=
  let T := refAt o 0
  let base := opArg o 0 4
  let rows := (List.range n).map (r0 + ·)
  let ws := rows.flatMap fun i =>
    let k := embedIndex x o i
    let out := outAt o 0
    if base ≤ k ∧ k < base + T.rows then (if sameBits T out then [copyBits x T out (k - base) i] else outRow x o out i (rowOf x T (k - base)))
    else outRow x o out i (List.replicate out.cols vZero)
  rowsDone op o ws (rows.filter fun i => decide (opArg o 4 4 ≤ embedIndex x o i)).length

/-- Gradient rows: inputs dy and indices, output dtable (R166). -/
def embedBackward (x : SliceCtx) (op : Nat) (o : OpD) (r0 n : Nat) : List Effect :=
  let Y := refAt o 0
  let base := opArg o 0 4
  let ws := ((List.range n).map (r0 + ·)).flatMap fun i =>
    let toks := (List.range Y.rows).filter fun t => decide (embedIndex x o t = base + i)
    let zero := List.replicate (outAt o 0).cols vZero
    outRow x o (outAt o 0) i (toks.foldl (fun a t => (a.zip (rowOf x Y t)).map fun p => rAdd p.1 p.2) zero)
  rowsDone op o ws 0

/-! ### QUANTISE, ROTATE and RANDOM (R167, R168, R93, R94) -/

/-- QUANTISE: mode 2 scales each row by its own amax, the others follow the output reference (R167). Gradients follow R77 and R80 in every
mode (log 158). -/
def quantRows (x : SliceCtx) (op : Nat) (o : OpD) (r0 n : Nat) : List Effect :=
  let a := refAt o 0
  let r := outAt o 0
  let ws := ((List.range n).map (r0 + ·)).flatMap fun i =>
    let vs := rowOf x a i
    if min 3 (opArg o 0 1) = 2 then
      let s := rowScaleOf r.fmt vs
      let q := vs.zipIdx.map fun v => castOut x o (isGrad o) r i v.2 (quantEx s v.1)
      [(rowWrite r i 0 (q.map (·.1)), q.map (·.2)), putWords (r.scaleAddr + 4 * i) [s]]
    else if sameBits a r then [copyBits x a r i i]
    else outRow x o r i vs
  rowsDone op o ws 0

/-- One butterfly stage over pairs whose indices differ in bit k (R94). -/
def walshStage (k : Nat) (l : List Val) : List Val :=
  l.zipIdx.map fun v =>
    if bit v.2 k then rSub (l.getD (v.2 - 2 ^ k) vZero) v.1 else rAdd v.1 (l.getD (v.2 + 2 ^ k) vZero)

/-- H_n × x by R94. -/
def walsh (logn : Nat) (l : List Val) : List Val := (List.range logn).foldl (fun a k => walshStage k a) l

def rotateRows (x : SliceCtx) (op : Nat) (o : OpD) (r0 n : Nat) : List Effect :=
  let sz := max 1 (rotateLen o.rotate)
  let ws := ((List.range n).map (r0 + ·)).flatMap fun i =>
    let vs := rowOf x (refAt o 0) i
    let kp := ceilDiv vs.length sz * sz
    let ys := (cutRuns sz kp (vs ++ List.replicate (kp - vs.length) vZero)).flatMap (walsh (rotateLog o.rotate))
    outRow x o (outAt o 0) i ys
  rowsDone op o ws 0

/-- 2π × v2 for v2 = n × 2^-24, rounded once into FP32 (R168). -/
def twoPiTimes (n : Nat) : Val :=
  settleRound 12 (.fin false n (-24)) false (2 * (fxPi - fxErr) * n) (2 * (fxPi + fxErr) * n) 1 (-344)

/-- p of R168 as floor(p × 2^32): clamped to 0 to 1, a NaN counts as 0. -/
def bernoulliBound (o : OpD) : Nat :=
  match opF32 o 4 with
  | .fin s m e => if s then 0 else min (2 ^ 32) (scaleFloor m 1 (e + 32))
  | .inf s => if s then 0 else 2 ^ 32
  | _ => 0

def randomVal (x : SliceCtx) (o : OpD) (i c : Nat) : Val :=
  let r := outAt o 0
  let b := drawBytes x.j.hdr.seed 4 o.layer r.tensorId x.mbIx x.step (logicalIndex x.j r.tensorId r.cols i c)
  let u0 := rd b 0 4
  let u1 := rd b 4 4
  let d := min 2 (opArg o 0 1)
  if d = 0 then rnd (mkFin false (u0 / 256) (-24))
  else if d = 1 then
    rMul (special 3 (rMul (vInt (-2)) (special 1 (.fin false (u0 / 256 + 1) (-24))))) (special 9 (twoPiTimes (u1 / 256 + 1)))
  else if u0 < bernoulliBound o then vOne else vZero

def randomRows (x : SliceCtx) (op : Nat) (o : OpD) (r0 n : Nat) : List Effect :=
  let r := outAt o 0
  let ws := ((List.range n).map (r0 + ·)).flatMap fun i => outRow x o r i ((List.range r.cols).map (randomVal x o i))
  rowsDone op o ws 0

end Sys2Proof.Machine
end

