-- ==== Sys2Proof/Machine/Attention.lean ====
section
/-! DEFINITION. ATTENTION, forward and backward, one head at a time (spec/05 R155 to R158).
LSE has one row per query and one column per local head. Head h holds columns h × w to (h + 1) × w − 1 of Q, O and dO, and key-value head g those of K and V (log 45). -/
namespace Sys2Proof.Machine
open Sys2Proof

/-- The geometry of one head. -/
structure AttHead where
  h : Nat
  kv : Nat
  /-- widths of Q and K heads, and of V and O heads -/
  dk : Nat
  dv : Nat
  lq : Nat
  lk : Nat
  deriving DecidableEq, Repr

def attHeads (o : OpD) : Nat := clamp 1 256 (opArg o 8 2)
def attGroup (o : OpD) : Nat := clamp 1 64 (opArg o 10 1)
def attMask (o : OpD) : Nat := min 3 (opArg o 11 1)

/-- Heads that one rank of the T axis holds, padding included (R237). -/
def localHeads (j : Job) (o : OpD) : Nat := ceilDiv (attHeads o) (max 1 j.lengths.t)

/-- Number of a local head among all heads; at or above `heads` it is masked and does nothing (R237). -/
def globalHead (j : Job) (o : OpD) (h : Nat) : Nat := j.coord.t * localHeads j o + h

/-- Local head h, which reads the key and value head floor(number ÷ kv_group), counted from the rank's first (R156, R237). -/
def attHead (j : Job) (o : OpD) (h : Nat) : AttHead :=
  let n := localHeads j o
  let first := globalHead j o 0 / attGroup o
  let last := min (globalHead j o (n - 1)) (attHeads o - 1) / attGroup o
  { h, kv := globalHead j o h / attGroup o - first, dk := (refAt o 0).cols / max 1 n, dv := (refAt o 2).cols / max 1 (last + 1 - first),
    lq := (refAt o 0).rows, lk := (refAt o 1).rows }

/-- Elements of a head's row. -/
def headRow (x : SliceCtx) (r : TRef) (h w i : Nat) : List Val := (List.range w).map fun c => elemOf x 0 none r i (h * w + c)

/-- Whether key j is masked for query i (R157). -/
def attMasked (x : SliceCtx) (o : OpD) (a : AttHead) (i j : Nat) : Bool :=
  let m := attMask o
  let n := (i / 128) * ceilDiv a.lk 128 + j / 128
  (bit m 0 && decide (i + opArg o 4 4 < j)) || (bit m 1 && bit (memGet x.mem (opArg o 16 8 + n / 8)).toNat (n % 8))

/-- A product of two lists along the reduction by R109, with an FP32 output under `ovf_inf`. -/
def dotF32 (ovf : Bool) (sc : Val) (as bs : List Val) : Val :=
  let acc := runPass true AccElem.start ((as.zip bs).map fun p => ⟨p.1, p.2, p.1, p.2⟩)
  fp32.decode (convert 0 ovf (tail acc sc none).ex).1

/-- A score of R156 step 1, −∞ where masked. -/
def attScore (x : SliceCtx) (o : OpD) (a : AttHead) (i j : Nat) : Val :=
  if attMasked x o a i j then .inf true
  else dotF32 (flagOvf o) (channelScale (opF32 o 0) vOne 0) (headRow x (refAt o 0) a.h a.dk i) (headRow x (refAt o 1) a.kv a.dk j)

/-- Converts a value into a format and back (R156 step 3, R158). -/
def through (code : Nat) (ovf : Bool) (v : Val) : Val := elemVal code (convert code ovf v.ex).1 fun _ => 0

/-- Whether a key block is masked for every row of a query block (R156). -/
def blockMasked (x : SliceCtx) (o : OpD) (a : AttHead) (qb kb : Nat) : Bool :=
  (List.range (min 128 (a.lq - 128 * qb))).all fun i => (List.range (min 128 (a.lk - 128 * kb))).all fun j =>
    attMasked x o a (128 * qb + i) (128 * kb + j)

/-- One key block of R155 for one query row: running maximum, sum and output row. -/
def attStep (x : SliceCtx) (o : OpD) (a : AttHead) (i : Nat) (st : Val × Val × List Val) (kb : Nat) : Val × Val × List Val :=
  if blockMasked x o a (i / 128) kb then st
  else
    let js := (List.range (min 128 (a.lk - 128 * kb))).map (128 * kb + ·)
    let z := js.map (attScore x o a i)
    let mn := vMax st.1 (treeMax z)
    if mn = .inf true then st
    else
      let f := if st.1 = .inf true then vZero else special 0 (rSub st.1 mn)
      let p := (js.zip z).map fun jz => if attMasked x o a i jz.1 then vZero else special 0 (rSub jz.2 mn)
      let pc := p.map (through (refAt o 2).fmt false)
      let l := rAdd (rMul f st.2.1) (treeSum p)
      let out := st.2.2.zipIdx.map fun v =>
        rAdd (rMul f v.1) (dotF32 (flagOvf o) vOne pc (js.map fun j => elemOf x 0 none (refAt o 2) j (a.kv * a.dv + v.2)))
      (mn, l, out)

/-- O and LSE of one query row (R156). -/
def attRow (x : SliceCtx) (o : OpD) (a : AttHead) (i : Nat) : List Val × Val :=
  let (m, l, out) := (List.range (ceilDiv a.lk 128)).foldl (attStep x o a i) (.inf true, vZero, List.replicate a.dv vZero)
  (if l.isZero then List.replicate a.dv vZero else out.map fun v => rDiv v l, lseOf (m, l))

/-- Writes columns h × w onward of a row. -/
def putHead (x : SliceCtx) (o : OpD) (grad : Bool) (r : TRef) (h w i : Nat) (vs : List Val) : Stored :=
  let es := vs.zipIdx.map fun v => castOut x o grad r i (h * w + v.2) v.1.ex
  (rowWrite r i (h * w) (es.map (·.1)), es.map (·.2))

/-- The forward pass of a head over its query rows (R155 to R157); the LSE tensor has a row for each query and a column for each head of the rank
(log 45). -/
def attForward (x : SliceCtx) (op : Nat) (o : OpD) (h : Nat) : List Effect :=
  let a := attHead x.j o h
  let lse := outAt o 1
  let ws := (List.range a.lq).flatMap fun i =>
    let r := attRow x o a i
    putHead x o false (outAt o 0) h a.dv i r.1 ::
      (if 2 ≤ o.nOut then [putWords (lse.addr + i * rowBytes 0 lse.cols + 4 * h) [r.2]] else [])
  rowsDone op o ws 0

/-! ### Backward (R158): inputs Q, K, V, O, dO, LSE; outputs dQ, dK, dV -/

/-- P of (i, j), +0 where masked. -/
def attP (x : SliceCtx) (o : OpD) (a : AttHead) (i j : Nat) : Val :=
  if attMasked x o a i j then vZero
  else special 0 (rSub (attScore x o a i j) (elemOf x 0 none (refAt o 5) i a.h))

/-- D_i of step 1. -/
def attD (x : SliceCtx) (o : OpD) (a : AttHead) (i : Nat) : Val :=
  treeSum (((headRow x (refAt o 4) a.h a.dv i).zip (headRow x (refAt o 3) a.h a.dv i)).map fun p => rMul p.1 p.2)

/-- dS of (i, j) in the gradient format (step 3). -/
def attDS (x : SliceCtx) (o : OpD) (a : AttHead) (i j : Nat) : Val :=
  let ds :=
    if attMasked x o a i j then vZero
    else
      let dp := dotF32 (flagOvf o) vOne (headRow x (refAt o 4) a.h a.dv i) (headRow x (refAt o 2) a.kv a.dv j)
      rMul (attP x o a i j) (rSub dp (attD x o a i))
  through (if x.j.hdr.gradFormat = 0 then 2 else 1) true ds

/-- dQ of a head: dS · K over the key length (step 5). -/
def attDQ (x : SliceCtx) (o : OpD) (a : AttHead) : List Stored :=
  let sc := channelScale (opF32 o 0) vOne 0
  (List.range a.lq).map fun i =>
    let ds := (List.range a.lk).map (attDS x o a i)
    putHead x o true (outAt o 0) a.h a.dk i ((List.range a.dk).map fun c =>
      dotF32 (flagOvf o) sc ds ((List.range a.lk).map fun j => elemOf x 0 none (refAt o 1) j (a.kv * a.dk + c)))

/-- dK and dV of a key-value head, over its query heads in ascending order and the query length (step 4; log 45). -/
def attDKV (x : SliceCtx) (o : OpD) (a : AttHead) : List Stored :=
  let sc := channelScale (opF32 o 0) vOne 0
  let hs := (List.range (localHeads x.j o)).filter fun h =>
    decide (globalHead x.j o h < attHeads o) && decide ((attHead x.j o h).kv = a.kv)
  let qs : List (AttHead × Nat) := hs.flatMap fun h => (List.range a.lq).map fun i => (attHead x.j o h, i)
  (List.range a.lk).flatMap fun j =>
    let ds := qs.map fun q => attDS x o q.1 q.2 j
    let ps := qs.map fun q => through (refAt o 4).fmt false (attP x o q.1 q.2 j)
    [putHead x o true (outAt o 1) a.kv a.dk j ((List.range a.dk).map fun c =>
       dotF32 (flagOvf o) sc ds (qs.map fun q => elemOf x 0 none (refAt o 0) q.2 (q.1.h * a.dk + c))),
     putHead x o true (outAt o 2) a.kv a.dv j ((List.range a.dv).map fun c =>
       dotF32 (flagOvf o) vOne ps (qs.map fun q => elemOf x 0 none (refAt o 4) q.2 (q.1.h * a.dv + c)))]

/-- A backward head: dQ, and dK and dV with the first query head of its key-value head (R158). -/
def attBackward (x : SliceCtx) (op : Nat) (o : OpD) (h : Nat) : List Effect :=
  let a := attHead x.j o h
  rowsDone op o (attDQ x o a ++ (if h = 0 || decide ((attHead x.j o (h - 1)).kv ≠ a.kv) then attDKV x o a else [])) 0

end Sys2Proof.Machine
end

