-- ==== Sys2Proof/Machine/Dev.lean ====
section
/-! DEFINITION. DEV commands and the spare map (spec/13 R421, R422; spec/01 R11 to R13; spec/15 R466 to R469). -/
namespace Sys2Proof.Machine
open Sys2Proof

/-! ### The spare map (R11 to R13) -/

/-- Whether physical index j of cluster c is unusable (R11). -/
def coreUnusable (s : State) (c j : Nat) : Bool :=
  let p := 7 * c + j
  s.flash.disabled.contains p || s.st.bist.contains p || s.flash.ffl.any fun e => decide (e.kind = 0) && decide (e.index = p)

/-- Spare of a cluster by Table 1.6, none when short. -/
def spareOf (s : State) (c : Nat) : Option Nat :=
  match (List.range 7).filter (coreUnusable s c) with
  | [] => some ((s.flash.preferred.getD c none).getD 6)
  | [j] => some j
  | _ => none

def recomputeSpares (s : State) : State := { s with st := { s.st with spares := (List.range 16).map (spareOf s) } }

def anyShort (s : State) : Bool := s.st.spares.any fun x => x.isNone

/-- Appends to the field-failure list (R14, R196). -/
def listFailure (s : State) (e : FflEntry) : State :=
  if s.flash.ffl.contains e then s else { s with flash := { s.flash with ffl := s.flash.ffl ++ [e] } }

/-- Whether a field-failure entry is a row of far memory that still waits for post-package repair (R189, R196). -/
def waitsRepair (s : State) (e : FflEntry) : Bool := decide (e.kind = 2) && !s.flash.repaired.contains e

/-- Post-package repair at a cold boot: every listed row of far memory is replaced (R189, R196). -/
def repairRows (s : State) : State :=
  { s with flash := { s.flash with repaired := s.flash.repaired ++ s.flash.ffl.filter (waitsRepair s) } }

/-- Appends to the field-failure list; the row that replaced a listed one and fails in turn is listed again (R196; log 157). -/
def listAgain (s : State) (e : FflEntry) : State :=
  let same (x : FflEntry) : Bool := decide (x.kind = e.kind) && decide (x.index = e.index)
  { s with flash := { s.flash with ffl := s.flash.ffl.filter (fun x => !same x) ++ [e],
                                   repaired := s.flash.repaired.filter fun x => !same x } }

/-- R13: a device with a short cluster serves only. -/
def applyShort (s : State) : State :=
  if s.pow.state = 1 ∧ anyShort s then { s with pow := { s.pow with state := 2 } } else s

/-! ### Information -/

/-- The `DEV.INFO` result (Table 13.5). -/
def devInfoBytes (s : State) : Bytes :=
  let fl := s.flash
  let run := if fl.runB then fl.slotB else fl.slotA
  let spare (x : Option Nat) : Nat := x.getD 255
  let short := sumNat ((List.range 16).map fun c => if (s.st.spares.getD c none).isNone then 2 ^ c else 0)
  natLE 8 fl.serial ++ ascii "ZK961536" ++ natLE 1 0xB0 ++ natLE 1 fl.partMode ++ natLE 1 s.pow.slotId ++ natLE 1 s.pow.state
    ++ coordBytes ((mapCoord s).getD noCoord) ++ natLE 4 (match run with | some i => i.version | none => 0)
    ++ natLE 1 (b2n fl.runB) ++ natLE 1 (b2n fl.staged.isSome + 2 * b2n fl.envStaged.isSome) ++ zeros 2
    ++ (s.st.spares.map fun x => natLE 1 (spare x)).flatten ++ natLE 2 short ++ zeros 2 ++ natLE 4 fl.ffl.length
    ++ natLE 4 (fl.ffl.filter fun e => decide (e.kind = 1)).length ++ zeros 4
    ++ (fl.ffl.map fun e => natLE 1 e.kind ++ zeros 3 ++ natLE 4 e.index ++ natLE 8 e.addr).flatten

def execDevInfo (c : Cmd) (s : State) : Host.Outcome State Fault Refusal :=
  .next (startCmd s c fun s => answer s c (replyRes (natLE 8 s.flash.serial) (devInfoBytes s)))

/-- The `DEV.CAPS` result (Table 13.4): functions, modes, formats, classes, axis lengths, periods. -/
def devCapsBytes : Bytes :=
  natLE 1 9 ++ natLE 1 7 ++ natLE 2 0x1FFF ++ natLE 4 0x1FFFE ++ natLE 1 8 ++ natLE 1 4 ++ natLE 1 16 ++ natLE 1 128
    ++ natLE 4 2000 ++ natLE 4 32000

def execDevCaps (c : Cmd) (s : State) : Host.Outcome State Fault Refusal :=
  .next (startCmd s c fun s => answer s c (replyRes [1, 0, 1] devCapsBytes))

/-! ### Self-test and reset -/

/-- R421: refused while any function runs or molts; a second self-test waits for the first. -/
def devSelftest (s : State) (c : Cmd) : State :=
  let scope := if cArg c 32 1 % 32 = 0 then 31 else cArg c 32 1 % 32
  unlessRefused s c (!anyFn s fun f => fnState s f = 4 || fnState s f = 5) 2 0xFFFF <|
  if s.pow.selftest.isSome then answer s c (replyBusy (beatsOf s 20000000000))
  else
    let s1 := answer s c (replyAccepted [])
    { s1 with pow := { s1.pow with selftest := some (c.req, scope) } }

def execDevSelftest (c : Cmd) (s : State) : Host.Outcome State Fault Refusal :=
  .next (startCmd s c fun s => devSelftest s c)

/-- R421, R446: OK before the reset; confidential functions are molted first. -/
def devReset (s : State) (c : Cmd) : State :=
  unlessRefused s c (bit (cFlags c) 8 || !anyFn s fun f => fnState s f = 4) 2 0xFFFF <|
  requestReset (answer s c (replyOk (natLE 8 s.eng.beat)))

def execDevReset (c : Cmd) (s : State) : Host.Outcome State Fault Refusal :=
  .next (startCmd s c fun s => devReset s c)

/-! ### Firmware (R466 to R469) -/

/-- The image in a payload with the part of R466 that needs no key: magic, format, kind, digest and `svn`. -/
def parseImage (s : State) (kind : Nat) (b : Bytes) : Image × Bool :=
  let body := (b.drop 1280).take (rd b 16 8)
  let img : Image := ⟨rd b 8 4, rd b 12 4, slice b 32 64⟩
  let low := if kind = 0 then s.flash.counter else s.flash.envCounter
  (img, rd b 0 4 = 0x4D49465A && rd b 4 2 = 1 && rd b 6 1 = kind && decide (body.length = rd b 16 8)
    && decide (sha512 body = img.digest) && decide (low ≤ img.svn))

/-- R421, R438, R468: staging begins; IMAGE_STAGED ends it. -/
def devFwStage (s : State) (c : Cmd) : State :=
  let kind := cArg c 32 1
  unlessRefused s c (kind ≤ 1) 4 32 <|
  match s.flash.activation with
  | some e => answer s c (replyBusy (e - s.eng.beat))
  | none =>
    if s.flash.staging.isSome then answer s c (replyBusy 1)
    else
      let (img, ok) := parseImage s kind c.payload
      let s1 := answer s c (replyAccepted (natLE 4 img.version))
      { s1 with flash := { s1.flash with staging := some (kind, img, ok, c.req) } }

def execDevFwStage (c : Cmd) (s : State) : Host.Outcome State Fault Refusal :=
  .next (startCmd s c fun s => devFwStage s c)

/-- R466, R468: the verification of a staged image ends. -/
def imageStaged (s : State) (valid : Bool) : State :=
  match s.flash.staging with
  | none => s
  | some (kind, img, ok, req) =>
    let s0 := { s with flash := { s.flash with staging := none } }
    if ok && valid then
      let slot := if kind = 0 then (if s.flash.runB then 0 else 1) else 1 - s.flash.envSlot
      let s1 :=
        if kind = 0 then
          { s0 with flash := { s0.flash with staged := some (img, slot),
                                             slotA := if slot = 0 then some img else s0.flash.slotA,
                                             slotB := if slot = 1 then some img else s0.flash.slotB } }
        else { s0 with flash := { s0.flash with envStaged := some (img, slot) } }
      answerReq s1 req (replyOk (natLE 4 img.version ++ natLE 1 slot))
    else answerReq s0 req ⟨4, 7, 0, [0xFF, 0xFF, 0, 7], none⟩

def execImageStaged (valid : Bool) (s : State) : Host.Outcome State Fault Refusal := .next (imageStaged s valid)

/-- Whether a plan compiles on this device (R46). -/
def compilingAny (s : State) : Bool := s.fns.any fun x => match x.job with | some j => j.compiling.isSome | none => false

/-- R421, R468, R469: image 0 opens the activation window, image 1 takes effect at once. -/
def devFwActivate (s : State) (c : Cmd) : State :=
  let kind := cArg c 32 1
  unlessRefused s c (kind ≤ 1) 4 32 <|
  if kind = 0 then
    match s.flash.staged with
    | none => answer s c (replyRefused s c 4 32)
    | some (img, _) =>
      unlessRefused s c (!anyFn s fun f => 1 < fnState s f) 2 0xFFFF <|
      let s1 := flushHeld (answer s c (replyOk (natLE 4 img.version)))
      { s1 with flash := { s1.flash with activation := some (s1.eng.beat + beatsOf s1 2000000000) },
                pow := { s1.pow with state := 3, readyBy := s1.eng.beat + beatsOf s1 59000000000 } }
  else
    match s.flash.envStaged with
    | none => answer s c (replyRefused s c 4 32)
    | some (img, slot) =>
      unlessRefused s c (!(s.env.running || s.env.booting || compilingAny s)) 2 0xFFFF <|
      answer { s with flash := { s.flash with envImage := some img, envSlot := slot, envStaged := none } } c (replyOk (natLE 4 img.version))

def execDevFwActivate (c : Cmd) (s : State) : Host.Outcome State Fault Refusal :=
  .next (startCmd s c fun s => devFwActivate s c)

/-- R468, R469: the window ends; a verified image becomes slot A, and the device resets. -/
def activationWindowEnd (s : State) (verified : Bool) : State :=
  match s.flash.activation, s.flash.staged with
  | some _, some (img, slot) =>
    let s0 := { s with flash := { s.flash with activation := none } }
    let s1 :=
      if verified then
        let fl := s0.flash
        { s0 with flash := { fl with staged := none, runB := false, slotA := some img,
                                     slotB := if slot = 1 then fl.slotA else fl.slotB, aliasGen := fl.aliasGen + 1 } }
      else raiseDev s0 0 3 0x0703 0 img.version 0
    deviceReset s1
  | _, _ => s

def execActivationWindowEnd (verified : Bool) (s : State) : Host.Outcome State Fault Refusal :=
  .next (activationWindowEnd s verified)

end Sys2Proof.Machine
end

