-- ==== Sys2Proof/Machine/Update.lean ====
section
/-! DEFINITION. Weight banks, working copies, gradients and the update engines (spec/08 R241 to R268). -/
namespace Sys2Proof.Machine
open Sys2Proof

/-! ### Bank layout (R243, R244, R265) -/

def paramAt (j : Job) (i : Nat) : Option ParamEntry := j.params[i]?

/-- The current bank of a tensor; a frozen one has only bank 0 written (R243, R265). -/
def currentBank (j : Job) (p : ParamEntry) : Nat := if paramFrozen p then 0 else j.committed.bank

def weightBank (region : Nat) (p : ParamEntry) (b : Nat) : Nat := region + (if b = 0 then p.bank0 else p.bank1)
def stateBank (region : Nat) (p : ParamEntry) (b : Nat) : Nat := region + (if b = 0 then p.state0 else p.state1)

/-- Elements that a bank is laid out for (R243). -/
def bankElems (j : Job) (p : ParamEntry) : Nat := paramNmax j p * p.cols

/-- Bytes of a weight bank as laid out (R244, R363). -/
def weightBytes (j : Job) (p : ParamEntry) : Nat :=
  let n := bankElems j p
  if j.hdr.weightMode = 0 then lowOffset n + roundUp (2 * n) stripe else roundUp (2 * n) stripe

/-- The UPDATE descriptor of a tensor (R256). -/
def groupOp (j : Job) (p : ParamEntry) : Option OpD := (updateOps j)[p.group]?

def updFamily (o : OpD) : Nat := min 3 (opArg o 0 1)
def updBf16 (o : OpD) : Bool := decide (opArg o 1 1 ≠ 0)

/-- Whether the factored form applies to a tensor (R259). -/
def isFactored (o : OpD) (p : ParamEntry) : Bool := updFamily o = 3 && decide (1 < p.rows) && decide (1 < p.cols)

/-- Sizes in bytes of the state parts of Table 8.5, in bank order. -/
def stateParts (j : Job) (o : OpD) (p : ParamEntry) : List Nat :=
  let n := bankElems j p
  let w := if updBf16 o then 2 else 4
  if updFamily o = 0 then [w * n, w * n]
  else if updFamily o < 3 then [w * n]
  else if isFactored o p then [4 * paramNmax j p, 4 * p.cols]
  else [4 * n]

/-- Offset of state part k: each part starts on an 8 KiB boundary (R244). -/
def partOffset (sizes : List Nat) (k : Nat) : Nat := sumNat ((sizes.take k).map fun n => roundUp n stripe)

def stateBytes (j : Job) (o : OpD) (p : ParamEntry) : Nat := sumNat ((stateParts j o p).map fun n => roundUp n stripe)

/-- S of R363: current weight and state banks, bias registers, and p1 and p2 of each group. -/
def deviceState (j : Job) : Nat :=
  sumNat (j.params.map fun p => weightBytes j p + (match groupOp j p with
    | some o => if paramFrozen p then 0 else stateBytes j o p
    | none => 0))
  + sumNat (j.committed.biases.map fun b => 4 * b.2.length) + 8 * (updateOps j).length

/-- The master weight of local element e of a bank (R246, R248). -/
def masterAt (m : Memory) (j : Job) (p : ParamEntry) (base e : Nat) : F32 :=
  let hi := leNat (memRead m (base + 2 * e) 2)
  if j.hdr.weightMode = 0 then BitVec.ofNat 32 (hi * 65536 + leNat (memRead m (base + lowOffset (bankElems j p) + 2 * e) 2))
  else BitVec.ofNat 32 (hi * 65536)

/-- Where the plan places this device's part of a tensor. -/
def placeOf (j : Job) (tensor : Nat) : Option Place := j.plan.bind fun p => p.places.find? fun q => decide (q.tensor = tensor)

/-- The corner of an owner's shard in the whole tensor, and the whole tensor's columns: the owner's rows follow those of the owners before it,
and the plan places the position's rows and columns (R81, R243). -/
def shardCorner (j : Job) (p : ParamEntry) : Nat × Nat × Nat :=
  match placeOf j p.tensorId with
  | some q => (q.row + (ownRows j p).1, q.col, q.cols)
  | none => ((ownRows j p).1, 0, p.cols)

/-- Logical row-major index of local element e of a tensor's shard in the whole tensor (R81). -/
def shardIndex (j : Job) (p : ParamEntry) (e : Nat) : Nat :=
  let c := shardCorner j p
  (c.1 + e / max 1 p.cols) * c.2.2 + c.2.1 + e % max 1 p.cols

/-! ### Working copies (R249) -/

/-- One local row of the high halves of a bank, as stored (R246, R249). -/
def highRow (m : Memory) (p : ParamEntry) (base i : Nat) : List Nat :=
  (List.range p.cols).map fun c => leNat (memRead m (base + 2 * (i * p.cols + c)) 2)

/-- Elements and scale of one row of the working copy (Table 8.3); conversions use `ovf_inf` 0. -/
def copyRow (m : Memory) (p : ParamEntry) (region : Nat) (row : List Nat) : List Nat × Option Val :=
  let code := p.workFmt
  let vs := row.map bf16.decode
  if code = 1 then (row, none)
  else if isCodebook code then
    let book := (List.range (if code = 11 then 16 else 256)).map fun i => bf16.decode (leNat (memRead m (region + p.codebook + 2 * i) 2))
    ((quantBookRow book vs).map (·.1), none)
  else
    let s := rowScaleOf code vs
    (vs.map fun v => (convert code false (quantEx s v)).1, some s)

/-- The bank of a micro-batch's version tag, the current one without a tag (R266). -/
def bankOf (j : Job) (p : ParamEntry) (step : Nat) (mb : Option Nat) : Nat :=
  if paramFrozen p then 0
  else match mb.bind fun m => (j.tags.find? fun t => decide (t.1 = step) && decide (t.2.1 = m)) with
    | some t => t.2.2.2
    | none => j.committed.bank

/-- The owner's rows of a working copy, written into its block of a GATHER's output, with the holder it counts (R249, R267). -/
def gatherCopyWork (x : SliceCtx) (op param : Nat) : List Effect :=
  match opNth x.j op, paramAt x.j param, paramRegion x.s x.f with
  | some o, some p, some r =>
    let b := bankOf x.j p x.step x.mb
    let out := outAt o 0
    let (r0, n) := ownRows x.j p
    ((List.range n).flatMap fun i =>
      let (es, sc) := copyRow x.mem p r.addr (highRow x.mem p (weightBank r.addr p b) i)
      rowWrite out (r0 + i) 0 es ::
        (match sc with | some s => [Effect.mem (out.scaleAddr + 4 * (r0 + i)) (f32Bytes s)] | none => []))
  | _, _, _ => []

/-! ### Weight-gradient accumulation (R231, R251) -/

/-- Rows that a local expert of a layer received in the step, over micro-batches that are not cancelled (R233). -/
def expertRows (j : Job) (layer expert : Nat) : Nat :=
  sumNat ((j.exchanges.filter fun x => decide (x.layer = layer) && decide (x.step = j.committed.step) && !j.cancelled.contains x.mb).map fun x =>
    sumNat (x.roundRows.map fun r => r.2.getD expert 0))

/-- Micro-batches of the step that are not cancelled. -/
def liveBatches (j : Job) : Nat := (match j.plan with | some p => p.microBatches | none => 0) - j.cancelled.length

/-- C of R213. -/
def capacityOf (j : Job) (layer : Nat) : Nat :=
  match exchOf j layer, routerOf j layer with
  | some e, some r => ceilDiv (e.capFactor * j.lengths.e * e.tokens * effK r) (64 * max 1 (routerExperts r))
  | _, _ => 0

/-- ε of R233: the least exponent from 0 to 12 that brings n rows up to C × M. -/
def fewToken (j : Job) (layer expert : Nat) : Nat :=
  let n := expertRows j layer expert
  let want := capacityOf j layer * liveBatches j
  ((List.range 12).find? fun e => decide (want ≤ n * 2 ^ e)).getD 12

def fewTokenOn (j : Job) (layer : Nat) : Bool := match exchOf j layer with | some e => decide (e.fewToken ≠ 0) | none => false

/-- ε that a weight gradient carries: 0 for a dense tensor or with the exponent off. -/
def gradExponent (j : Job) (p : ParamEntry) (expert : Option Nat) : Nat :=
  match expert with
  | some e => if paramExpert p && fewTokenOn j p.layer then fewToken j p.layer e else 0
  | none => 0

/-- Rows of a local expert in one window (R231, R232). -/
def windowRows (j : Job) (layer mb round expert : Nat) : Nat :=
  match j.exchanges.find? fun x => decide (x.layer = layer) && decide (x.mb = mb) with
  | some x => (lookupD x.roundRows round []).getD expert 0
  | none => 0

/-- The sums of a step's weight gradient so far (R231, R251). -/
def accumOf (j : Job) (step tensor : Nat) : List F32 :=
  match j.accums.find? fun a => decide (a.1 = step) && decide (a.2.1 = tensor) with
  | some a => a.2.2
  | none => []

/-- Whether a slice serves a micro-batch that is cancelled in the running step (R236). -/
def SliceCtx.isCancelled (x : SliceCtx) : Bool :=
  decide (x.step = x.j.committed.step) && (match x.mb with | some m => x.j.cancelled.contains m | none => false)

/-- Adds one window's gradient, none for an expert without rows in it or a cancelled micro-batch; after the last, scales by 2^ε and casts to the
gradient format. The cast serves the whole step: its draw carries the micro-batch index 0 (Table 3.5; log 163). -/
def accumulateWork (x : SliceCtx) (param src n dst round : Nat) (last : Bool) (expert : Option Nat) : List Effect :=
  match paramAt x.j param with
  | none => []
  | some p =>
    let old := accumOf x.j x.step p.tensorId
    let idle := x.isCancelled ||
      (match expert with | some e => paramExpert p && decide (windowRows x.j p.layer x.mbIx round e = 0) | none => false)
    let sums := (List.range n).map fun i =>
      if idle then dec32 (old.getD i 0) else rAdd (dec32 (old.getD i 0)) (valAt x.mem src i)
    let fmt := if x.j.hdr.gradFormat = 0 then 2 else 1
    let cast (i : Nat) (v : Val) : Nat × Counted :=
      let y := (v.scale2 (gradExponent x.j p expert)).ex
      if x.j.hdr.gradSr = 1 then
        convertSR fmt true (rd (drawBytes x.j.hdr.seed 2 p.layer p.tensorId 0 x.step (logicalIndex x.j p.tensorId p.cols (i / max 1 p.cols) (i % max 1 p.cols))) 0 4) y
      else convert fmt true y
    let out := sums.zipIdx.map fun v => cast v.2 v.1
    .accum x.step p.tensorId (sums.map enc32) ::
      (if last then .mem dst ((out.map fun c => natLE 2 c.1).flatten) :: backwardFlag true (out.map (·.2)) else [])

/-! ### The update (R257 to R260) -/

/-- What one group's update uses in a step (R256, R257). -/
structure UpdConsts where
  lr : Val
  b1 : Val
  b2 : Val
  om1 : Val
  om2 : Val
  bc1 : Val
  bc2 : Val
  eps : Val
  wd : Val
  deriving DecidableEq, Repr

/-- Learning rate of `opt_step` (R257). -/
def lrOf (x : SliceCtx) (region : Nat) (o : OpD) : Val :=
  valAt x.mem (region + opArg o 32 8) (min x.j.committed.optStep (clamp 1 (2 ^ 24) (opArg o 40 4) - 1))

def updConsts (x : SliceCtx) (region : Nat) (o : OpD) (group : Nat) : UpdConsts :=
  let b1 := opF32 o 8
  let b2 := opF32 o 12
  let ps := x.j.committed.products.getD group (0x3F800000, 0x3F800000)
  { lr := lrOf x region o, b1, b2, om1 := rSub vOne b1, om2 := rSub vOne b2,
    bc1 := rSub vOne (rMul (dec32 ps.1) b1), bc2 := rSub vOne (rMul (dec32 ps.2) b2), eps := opF32 o 16, wd := opF32 o 20 }

/-- The gradient of a held element with loss scale and exponent removed (R258). -/
def rawGrad (j : Job) (ex : Nat) (w : F32) : Val := rnd ((dec32 w).scale2 (-((j.sigma + ex : Nat) : Int)))

/-- The gradient after clipping (R258, R262). -/
def clippedGrad (j : Job) (ex : Nat) (w : F32) : Val :=
  let g := rawGrad j ex w
  if vLt vZero (dec32 j.hdr.clipNorm) then rMul g (dec32 j.clipFactor) else g

/-- Direction u and new moments of one element, for every family but the factored one (R258). -/
def updElem (o : OpD) (k : UpdConsts) (g m v : Val) : Val × List Val :=
  let f := updFamily o
  if f = 0 then
    let m1 := rFma k.b1 m (rMul k.om1 g)
    let v1 := rFma k.b2 v (rMul k.om2 (rMul g g))
    (rDiv (rDiv m1 k.bc1) (rAdd (special 3 (rDiv v1 k.bc2)) k.eps), [m1, v1])
  else if f = 1 then
    let m1 := rFma k.b1 m g
    (if opArg o 2 1 ≠ 0 then rFma k.b1 m1 g else m1, [m1])
  else if f = 2 then
    let c := rFma k.b1 m (rMul k.om1 g)
    let u := if c.isNan then .nan else if c.isZero then vZero else .fin c.neg? 1 0
    (u, [rFma k.b2 m (rMul k.om2 g)])
  else
    let v1 := rFma k.b2 m (rMul k.om2 (rAdd (rMul g g) (opF32 o 28)))
    (rMul g (special 2 v1), [v1])

/-- The new master weight (R258). -/
def newWeight (k : UpdConsts) (w u : Val) : Val := rSub w (rMul k.lr (rAdd u (rMul k.wd w)))

/-- A moment as stored: FP32, or BF16 by stream class 0x0003 (R260). -/
def storeMoment (x : SliceCtx) (p : ParamEntry) (part e : Nat) (bf : Bool) (v : Val) : Bytes :=
  if bf then
    natLE 2 (convertSR 1 true (rd (drawBytes x.j.hdr.seed 3 p.layer (p.tensorId + part) 0 x.step (shardIndex x.j p e)) 0 4) v.ex).1
  else f32Bytes v

/-- A weight as stored: high and low halves, or BF16 by stream class 0x0001 (R246, R248). -/
def storeWeight (x : SliceCtx) (p : ParamEntry) (base e : Nat) (v : Val) : List Effect × Bool :=
  let n := bankElems x.j p
  if x.j.hdr.weightMode = 0 then
    let w := fp32.encode v
    ([.mem (base + 2 * e) (natLE 2 (w / 65536)), .mem (base + lowOffset n + 2 * e) (natLE 2 w)], v.isFin)
  else
    let c := convertSR 1 true (rd (drawBytes x.j.hdr.seed 1 p.layer p.tensorId 0 x.step (shardIndex x.j p e)) 0 4) v.ex
    ([.mem (base + 2 * e) (natLE 2 c.1)], (bf16.decode c.1).isFin)

/-- Reads a moment of a state part. -/
def momentAt (m : Memory) (bf : Bool) (base e : Nat) : Val :=
  if bf then bf16.decode (leNat (memRead m (base + 2 * e) 2)) else valAt m base e

/-- Whether the update of an idle expert is skipped: every replica sent a marker (R232). -/
def idleSkipped (j : Job) (p : ParamEntry) (h : Shard) : Bool :=
  h.marker && paramExpert p && (match exchOf j p.layer with | some e => decide (e.skipIdle ≠ 0) | none => false)

/-- Offsets and lengths in a state bank that belong to elements e0 to e0 + n − 1 of a shard, in bank order; of a factored tensor, r of their rows
and every entry of c (Table 8.5). -/
def stateSpans (j : Job) (o : OpD) (p : ParamEntry) (e0 n : Nat) : List (Nat × Nat) :=
  let parts := stateParts j o p
  let w := if updBf16 o && updFamily o < 3 then 2 else 4
  let r0 := e0 / max 1 p.cols
  if isFactored o p then [(4 * r0, 4 * (ceilDiv (e0 + n) (max 1 p.cols) - r0)), (partOffset parts 1, 4 * p.cols)]
  else (List.range parts.length).map fun k => (partOffset parts k + w * e0, w * n)

/-- Addresses and lengths of what staging reads for a range: the low halves in split mode and the state, of the current banks (R263). -/
def stagedSpans (j : Job) (o : OpD) (p : ParamEntry) (region e0 n : Nat) : List (Nat × Nat) :=
  let b := currentBank j p
  (if j.hdr.weightMode = 0 then [(weightBank region p b + lowOffset (bankElems j p) + 2 * e0, 2 * n)] else [])
    ++ (stateSpans j o p e0 n).map fun q => (stateBank region p b + q.1, q.2)

/-- Copies of a range's current weight and state into the other banks, for a skipped expert (R232). -/
def copyRange (x : SliceCtx) (o : OpD) (p : ParamEntry) (region e0 n : Nat) : List Effect :=
  let b := currentBank x.j p
  let mv (src dst : Nat) (q : Nat × Nat) : Effect := .mem (dst + q.1) (memRead x.mem (src + q.1) q.2)
  let lows := if x.j.hdr.weightMode = 0 then [(lowOffset (bankElems x.j p) + 2 * e0, 2 * n)] else []
  ((2 * e0, 2 * n) :: lows).map (mv (weightBank region p b) (weightBank region p (1 - b)))
    ++ (stateSpans x.j o p e0 n).map (mv (stateBank region p b) (stateBank region p (1 - b)))

/-- One update range (R258, R260). -/
def updateRange (x : SliceCtx) (o : OpD) (p : ParamEntry) (h : Shard) (region e0 n : Nat) : List Effect :=
  if idleSkipped x.j p h then copyRange x o p region e0 n ++ [.updated p.tensorId e0 n]
  else
    let k := updConsts x region o p.group
    let b := currentBank x.j p
    let parts := stateParts x.j o p
    let bf := updBf16 o && updFamily o < 3
    let sb := stateBank region p b
    let sn := stateBank region p (1 - b)
    let one (e : Nat) : List Effect × Bool :=
      let g := clippedGrad x.j h.exponent (h.values.getD e 0)
      let w := dec32 (masterAt x.mem x.j p (weightBank region p b) e)
      let r := updElem o k g (momentAt x.mem bf sb e) (momentAt x.mem bf (sb + partOffset parts 1) e)
      let sw := storeWeight x p (weightBank region p (1 - b)) e (newWeight k w r.1)
      let ms := r.2.zipIdx.map fun v =>
        let bytes := storeMoment x p (v.2 + 1) e bf v.1
        (Effect.mem (sn + partOffset parts v.2 + (if bf then 2 else 4) * e) bytes,
         (if bf then bf16.decode (leNat bytes) else v.1).isFin)
      (sw.1 ++ ms.map (·.1), sw.2 && ms.all (·.2))
    let rs := (List.range n).map fun i => one (e0 + i)
    rs.flatMap (·.1) ++ (if rs.all (·.2) then [] else [.nonfinite]) ++ [.updated p.tensorId e0 n]

/-! ### The factored family (R259) -/

/-- q of one owned row. -/
def factorQ (x : SliceCtx) (o : OpD) (p : ParamEntry) (h : Shard) (i : Nat) : List Val :=
  (List.range p.cols).map fun c =>
    let g := clippedGrad x.j h.exponent (h.values.getD (i * p.cols + c) 0)
    rAdd (rMul g g) (opF32 o 28)

/-- q of a row of the whole tensor: an owned row, or one that its owner sent (R259). -/
def factorRowAt (x : SliceCtx) (o : OpD) (p : ParamEntry) (h : Shard) (row : Nat) : List Val :=
  let (r0, n) := ownRows x.j p
  if r0 ≤ row ∧ row < r0 + n then factorQ x o p h (row - r0)
  else match x.j.factor.find? fun f => decide (f.tensor = p.tensorId) && !f.block && decide (f.index = row) with
    | some f => f.values.map dec32
    | none => List.replicate p.cols vZero

/-- cp of a row block whose first row this device owns. -/
def factorBlock (x : SliceCtx) (o : OpD) (p : ParamEntry) (h : Shard) (b : Nat) : List Val :=
  let rows := (List.range 128).map fun i => if 128 * b + i < p.rows then factorRowAt x o p h (128 * b + i) else List.replicate p.cols vZero
  (List.range p.cols).map fun c => treeSum (rows.map fun r => r.getD c vZero)

/-- Whether this device owns the first row of a block. -/
def ownsBlock (j : Job) (p : ParamEntry) (b : Nat) : Bool :=
  let (r0, n) := ownRows j p
  decide (r0 ≤ 128 * b) && decide (128 * b < r0 + n)

/-- cs over every block in logical order, from own blocks and those of other owners. -/
def factorCols (x : SliceCtx) (o : OpD) (p : ParamEntry) (h : Shard) : List Val :=
  let bs := (List.range (ceilDiv p.rows 128)).map fun b =>
    if ownsBlock x.j p b then factorBlock x o p h b
    else match x.j.factor.find? fun f => decide (f.tensor = p.tensorId) && f.block && decide (f.index = b) with
      | some f => f.values.map dec32
      | none => List.replicate p.cols vZero
  (List.range p.cols).map fun c => treeSum (bs.map fun b => b.getD c vZero)

/-- The update of a factored tensor: statistics, direction with its row clipping, and weights (R258, R259). -/
def updateFactoredWork (x : SliceCtx) (o : OpD) (p : ParamEntry) (h : Shard) (region : Nat) : List Effect :=
  if idleSkipped x.j p h then
    copyRange x o p region 0 ((ownRows x.j p).2 * p.cols) ++ [.updated p.tensorId 0 ((ownRows x.j p).2 * p.cols)]
  else
    let k := updConsts x region o p.group
    let b := currentBank x.j p
    let parts := stateParts x.j o p
    let rows := (ownRows x.j p).2
    let sb := stateBank region p b
    let sn := stateBank region p (1 - b)
    let nc := vInt p.cols
    let cs := factorCols x o p h
    let cNew := cs.zipIdx.map fun v => rFma k.b2 (valAt x.mem (sb + partOffset parts 1) v.2) (rMul k.om2 (rDiv v.1 (vInt p.rows)))
    let cbar := rDiv (treeSum cNew) nc
    let row (i : Nat) : List Effect × Bool :=
      let rs := rDiv (treeSum (factorQ x o p h i)) nc
      let r := rFma k.b2 (valAt x.mem sb i) (rMul k.om2 rs)
      let us := (List.range p.cols).map fun c =>
        rMul (clippedGrad x.j h.exponent (h.values.getD (i * p.cols + c) 0)) (special 2 (rDiv (rMul r (cNew.getD c vZero)) cbar))
      let rms := special 3 (rDiv (treeSum (us.map fun u => rMul u u)) nc)
      let d := vMax vOne (rDiv rms (opF32 o 24))
      let ws := us.zipIdx.map fun u =>
        let e := i * p.cols + u.2
        storeWeight x p (weightBank region p (1 - b)) e
          (newWeight k (dec32 (masterAt x.mem x.j p (weightBank region p b) e)) (rDiv u.1 d))
      (.mem (sn + 4 * i) (f32Bytes r) :: ws.flatMap (·.1), r.isFin && ws.all (·.2))
    let out := (List.range rows).map row
    out.flatMap (·.1) ++ cNew.zipIdx.map (fun v => Effect.mem (sn + partOffset parts 1 + 4 * v.2) (f32Bytes v.1))
      ++ (if out.all (·.2) && cNew.all Val.isFin then [] else [.nonfinite]) ++ [.updated p.tensorId 0 (rows * p.cols)]

/-! ### Update slices: staging, holders, deferral (R262 to R268) -/

/-- The update cache of a function (Table 14.2). -/
def cacheBytes (s : State) : Nat := 64 * 2 ^ 20 / fnCount s.flash.partMode

/-- Staged state of a range, as staging reads it (R263). -/
def stageRange (x : SliceCtx) (o : OpD) (p : ParamEntry) (region e0 n : Nat) : Staged :=
  ⟨p.tensorId, e0, n, ((stagedSpans x.j o p region e0 n).map fun q => memRead x.mem q.1 q.2).flatten⟩

/-- Element ranges of a tensor whose state is staged or parked (R263, R264). -/
def heldRanges (j : Job) (tensor : Nat) : List (Nat × Nat) :=
  ((j.staged.filter fun r => decide (r.tensor = tensor)).map fun r => (r.e0, r.n))
    ++ (j.parked.filter fun r => decide (r.tensor = tensor)).map fun r => (r.e0, r.n)

/-- Whether ranges cover elements a to b − 1 together; the fuel bounds the ranges that are used. -/
def coversAll (l : List (Nat × Nat)) : Nat → Nat → Nat → Bool
  | 0, a, b => decide (b ≤ a)
  | fuel + 1, a, b =>
    decide (b ≤ a) || (match l.find? fun r => decide (r.1 ≤ a) && decide (a < r.1 + r.2) with
      | some r => coversAll l fuel (r.1 + r.2) b
      | none => false)

/-- Whether a range's state is staged or parked (R263, R264). -/
def isStaged (j : Job) (t e0 n : Nat) : Bool :=
  let l := heldRanges j t
  coversAll l l.length e0 (e0 + n)

/-- Lays staged bytes over the places that they came from. -/
def laySpans : List (Nat × Nat) → Bytes → Memory → Memory
  | [], _, m => m
  | q :: r, b, m => laySpans r (b.drop q.2) (memWrite m q.1 (b.take q.2))

/-- Memory as an update sees it: the state of its tensor comes from the update cache and from the parking area (R263, R264). -/
def updateView (x : SliceCtx) (o : OpD) (p : ParamEntry) (region : Nat) : SliceCtx :=
  let spans (e0 n : Nat) := stagedSpans x.j o p region e0 n
  let m1 := (x.j.staged.filter fun r => decide (r.tensor = p.tensorId)).foldl (fun m r => laySpans (spans r.e0 r.n) r.bytes m) x.mem
  let m2 := (x.j.parked.filter fun r => decide (r.tensor = p.tensorId)).foldl (fun m r => laySpans (spans r.e0 r.n) (memRead x.mem r.addr r.len) m) m1
  { x with s := { x.s with st := { x.s.st with mem := m2 } } }

/-- Whether a micro-batch still holds the bank that an update would overwrite (R267, R268). -/
def bankHeld (j : Job) (p : ParamEntry) : Bool := j.holders.any fun h => decide (h.tensor = p.tensorId) && decide (h.bank = 1 - currentBank j p)

/-- Whether clipping is on and its factor is not known yet: no update starts (R262). -/
def awaitsClip (j : Job) : Bool := vLt vZero (dec32 j.hdr.clipNorm) && !j.clipKnown

/-- An update slice: it waits for the clip factor, for holders and for staging, one beat at a time (R262, R263, R268). -/
def updateWork (x : SliceCtx) (sl : Slice) (param e0 n : Nat) (factored : Bool) : List Effect :=
  match paramAt x.j param, paramRegion x.s x.f with
  | some p, some r =>
    match groupOp x.j p, x.j.holding.find? fun h => decide (h.tensor = p.tensorId) with
    | some o, some h =>
      let n := if factored then (ownRows x.j p).2 * p.cols else n
      let y := updateView x o p r.addr
      if awaitsClip x.j then [.defer sl]
      else if bankHeld x.j p then [.count 1, .defer sl]
      else if !isStaged x.j p.tensorId e0 n then [.count 0, .defer sl]
      else (if factored then updateFactoredWork y o p h r.addr else updateRange y o p h r.addr e0 n) ++ [.exportNow sl.work]
    | _, none => [.defer sl]
    | none, _ => []
  | _, _ => []

/-- Squares of this owner's unscaled gradients by R262; a tensor replicated over T counts at t = 0 only. -/
def ownSquares (x : SliceCtx) : Val :=
  let ps := x.j.params.filter fun p => !paramFrozen p && (!paramRepT p || decide (x.j.coord.t = 0))
  let vals := ps.flatMap fun p =>
    match x.j.holding.find? fun h => decide (h.tensor = p.tensorId) with
    | some h => h.values.map fun w => let g := rawGrad x.j h.exponent w; rMul g g
    | none => []
  treeSum vals

/-- Norm and clip factor from the total of the squares (R262). -/
def clipWork (x : SliceCtx) (total : Val) : List Effect :=
  let norm := special 3 total
  let clip := dec32 x.j.hdr.clipNorm
  let cf := if vLt clip norm then rDiv clip norm else vOne
  .clip (enc32 norm) (enc32 cf) :: (if norm.isFin then [] else [.nonfinite])

end Sys2Proof.Machine
end

