-- ==== Sys2Proof/Machine/Faults.lean ====
section
/-! DEFINITION. Memory errors, arithmetic faults and self-test: what a check that fires does
(spec/01 R14, spec/06 R186 to R200, spec/11 R351 to R358). -/
namespace Sys2Proof.Machine
open Sys2Proof

/-! ### Which state an address holds (R199, R275) -/

/-- Bytes of the holding buffer: one FP32 word per owned element of every tensor that the job trains (R252). -/
def holdingBytes (j : Job) : Nat :=
  sumNat ((j.params.filter fun p => !paramFrozen p).map fun p => roundUp (4 * (ownRows j p).2 * p.cols) stripe)

def parkingBytes : Nat := 64 * 2 ^ 20

/-- Whether an address lies in the level-0 staging copy (R199, R364; log 53). -/
def stagingAt (j : Job) (a : Nat) : Bool :=
  match j.planArea with
  | some (base, _) =>
    let lo := base + holdingBytes j + parkingBytes
    decide (lo ≤ a) && decide (a < lo + deviceState j)
  | none => false

/-- The level-1 slot of the partner area that an address lies in (R364, R369; log 53). -/
def partnerSlotAt (j : Job) (a : Nat) : Option Nat :=
  let st := roundUp (deviceState j) stripe
  (j.planArea.bind fun r =>
    let lo := r.1 + holdingBytes j + parkingBytes + st
    if j.l1Slots = 0xFF ∨ st = 0 ∨ a < lo ∨ lo + j.l1Slots * st ≤ a then none else some ((a - lo) / st))

/-- A level whose image holds an uncorrectable word is incomplete there: its block CRC fails (R376). -/
def spoilImages (j : Job) (a : Nat) : Job :=
  let k := if stagingAt j a then { j with chrysalises := match j.chrysalises with | c :: r => { c with level0 := false } :: r | [] => [] } else j
  match partnerSlotAt j a with
  | some n => { k with partner := k.partner.map fun p => if p.slot = n then { p with complete := false } else p }
  | none => k

/-- Whether a range lies in the current banks of a job, or in its level-0 staging copy (R199). -/
def committedAt (s : State) (f : Nat) (j : Job) (a : Nat) : Bool :=
  let banks := match paramRegion s f with
    | some r => j.params.any fun p =>
        let b := currentBank j p
        let w := weightBank r.addr p b
        decide (w ≤ a) && decide (a < w + weightBytes j p) ||
        (match groupOp j p with
         | some o => !paramFrozen p && decide (stateBank r.addr p b ≤ a) && decide (a < stateBank r.addr p b + stateBytes j o p)
         | none => false)
    | none => false
  banks || stagingAt j a

/-- Whether an address lies in the holding buffer or the parking area (R275). -/
def holdingAt (j : Job) (a : Nat) : Bool :=
  match j.planArea with
  | some (base, _) => decide (base ≤ a) && decide (a < base + holdingBytes j + parkingBytes)
  | none => false

/-- R198 for a slice or a move of a running step: the fault, with R199's statement in `detail`, and the ABORT. -/
def memFault (s : State) (f row a : Nat) : State :=
  let s0 := countError s 0
  match jobAt s0 f with
  | none => raiseFn s0 f 2 0x0302 row 0 a
  | some j =>
    let c := committedAt s0 f j a
    let s1 := setJob s0 f fun j => { spoilImages j a with committedHit := j.committedHit || c, holdingHit := j.holdingHit || holdingAt j a }
    raiseAbort (raiseFn s1 f 2 0x0302 row (b2n c) a) f 0x0302

/-- Row number of a store in Table 6.6. -/
def storeRow : Store → Nat
  | .sram => 0 | .registers => 1 | .hub => 2 | .near => 3 | .farLink => 4 | .farData => 5 | .drives => 6

/-- Marks the protected word at an address of near or far memory or SRAM as uncorrectable (R198). -/
def markBad (s : State) (a : Nat) : State :=
  let n := wordLen a
  let w := a / n * n
  if regionOf a = .reserved || s.st.bad.contains (w, n) then s else { s with st := { s.st with bad := (w, n) :: s.st.bad } }

/-- R196: an error corrected in a structure; a row with 16 of them within 1,024 beats is listed. -/
def correctedError (s : State) (t : Store) (row addr : Nat) : State :=
  let s1 := { s with pow := { s.pow with corrected := updNth s.pow.corrected (storeRow t) fun n => sat (2 ^ 32 - 1) (n + 1) } }
  if t ≠ .near ∧ t ≠ .farData then s1
  else
    let far := decide (t = .farData)
    let keep := s1.st.rowErrors.filter fun e => decide (s.eng.beat < e.2.2 + 1024)
    let l := (far, row, s.eng.beat) :: keep
    let s2 := { s1 with st := { s1.st with rowErrors := l } }
    let e : FflEntry := ⟨if far then 2 else 1, row, addr⟩
    let same (x : FflEntry) : Bool := decide (x.kind = e.kind) && decide (x.index = row)
    let listed := s.flash.ffl.any same && !s.flash.repaired.any same
    if (l.filter fun x => x.1 == far && decide (x.2.1 = row)).length < 16 || listed then s2
    else raiseDev (listAgain (countError s2 4) e) 0 1 0x0301 row 16 addr

/-! ### Core and engine faults (R14, R351, R352) -/

/-- A core becomes unusable: field-failure list, event, new spare map and the domain of a spare that is core 6 off (R15); a short
cluster takes the device out of its jobs (R13, R14, R358). What the registers and the local SRAM of a logical core hold after the
spare has taken its index over is the model's choice (log 149): they keep their contents. -/
def failCore (s : State) (f phys : Nat) : State :=
  let s1 := raiseFn (listFailure s ⟨0, phys, 0⟩) f 2 0x0201 phys 0 0
  let s2 := dropDomains (recomputeSpares (raiseAbort s1 f 0x0201))
  if anyShort s2 then applyShort (leaveAll s2 0x0201) else s2

def failEngine (s : State) (f engine : Nat) : State :=
  let s1 := raiseFn (countError s 1) f 2 0x0203 engine 0 0
  let near := s1.st.engineFaults.filter fun b => decide (s.eng.beat < b + Config.markWindow)
  let s2 := { s1 with st := { s1.st with engineFaults := s.eng.beat :: near } }
  let s3 := raiseAbort (setJob s2 f fun j => { j with holdingHit := true }) f 0x0203
  if 3 ≤ s3.st.engineFaults.length then leaveAll { s3 with face := { s3.face with service := true } } 0x0203 else s3

/-- A comparison that differs: event, ABORT, and self-test before the replay (R356, R357). -/
def mismatch (s : State) (f code a b : Nat) (sentinel : Bool) : State :=
  let s1 := raiseFn (countError s (if sentinel then 2 else 3)) f 2 code a b 0
  let s2 := setJob s1 f fun j => { j with testing := j.run.isSome, sentinelHit := j.sentinelHit || sentinel }
  raiseAbort s2 f code

/-- One upset of the data phase (R14, R196, R198, R351 to R357). -/
def dataFault (s : State) : DataFault → State
  | .corrected t row addr => correctedError s t row addr
  | .uncorrectable f t addr => memFault (markBad s addr) f (storeRow t) addr
  | .coreResidue f phys => failCore (countError s 1) f phys
  | .engineResidue f e => failEngine s f e
  | .sentinelMismatch f a b => mismatch s f 0x0202 a b true
  | .dupMismatch f e => mismatch s f 0x0203 e 0 false

/-! ### Self-test after a mismatch (R356, R357) -/

/-- Marks of a core or an engine within the window, this one included. -/
def addMark (s : State) (core : Bool) (n : Nat) : State :=
  let keep := s.st.marks.filter fun m => decide (s.eng.beat < m.2.2 + Config.markWindow)
  let s1 := countError s 5
  { s1 with st := { s1.st with marks := (core, n, s.eng.beat) :: keep } }

def markCount (s : State) (core : Bool) (n : Nat) : Nat := (s.st.marks.filter fun m => m.1 == core && decide (m.2.1 = n)).length

/-- A core's outcome: failed, or marked when both cores passed. -/
def coreOutcome (s : State) (f phys : Nat) (failed mark : Bool) : State :=
  if failed then failCore s f phys
  else if mark then
    let s1 := addMark s true phys
    if 3 ≤ markCount s1 true phys then failCore s1 f phys else s1
  else s

def endTest (s : State) (f : Nat) : State := voteReplay (setJob s f fun j => { j with testing := false }) f

def coreSelftestDone (s : State) (f a b : Nat) (failA failB : Bool) : State :=
  let mark := !failA && !failB
  endTest (coreOutcome (coreOutcome s f a failA mark) f b failB mark) f

def execCoreSelftestDone (f a b : Nat) (failA failB : Bool) (s : State) : Host.Outcome State Fault Refusal :=
  .next (coreSelftestDone s f a b failA failB)

/-- An engine's outcome: an engine that fails or collects three marks is reported, and the module needs service (log 54). -/
def engineOutcome (s : State) (f e : Nat) (failed mark : Bool) : State :=
  let s1 := if mark then addMark s false e else s
  if failed || (mark && decide (3 ≤ markCount s1 false e)) then
    raiseFn { s1 with face := { s1.face with service := true } } f 2 0x0203 e 1 0
  else s1

/-- Engines k and k XOR 2 of R357. -/
def engineSelftestDone (s : State) (f e : Nat) (failA failB : Bool) : State :=
  let mark := !failA && !failB
  endTest (engineOutcome (engineOutcome s f e failA mark) f (e ^^^ 2) failB mark) f

def execEngineSelftestDone (f e : Nat) (failA failB : Bool) (s : State) : Host.Outcome State Fault Refusal :=
  .next (engineSelftestDone s f e failA failB)

/-! ### Patrol scrub and far memory at rest (R186 to R189, R197, R198) -/

/-- The function that holds an address: in an allocation, or in the far memory that its plan reserves (R198; Table 13.10). -/
def allocOwner (s : State) (a : Nat) : Option Nat :=
  ([0, 1, 2, 3] : List Nat).find? fun f =>
    inOneAlloc s f a 1 || (match (jobAt s f).bind (·.planArea) with | some r => decide (r.1 ≤ a) && decide (a < r.1 + r.2) | none => false)

/-- First byte of the granule of an address (R177, R179). -/
def granuleOf (addr : Nat) : Nat := addr / granuleLen addr * granuleLen addr

/-- Patrol scrub of the granule of an address (R197, R198). -/
def patrolScrub (s : State) (addr : Nat) (find : ScrubFind) : State :=
  let n := granuleLen addr
  let g := granuleOf addr
  let s1 := { s with st := { s.st with scrubNext := g + n } }
  let far := decide (regionOf addr = .far)
  match find with
  | .clean => s1
  | .corrected row => correctedError s1 (if far then .farData else .near) row addr
  | .uncorrectable =>
    match allocOwner s1 g with
    | some f =>
      if (jobAt s1 f).isSome then memFault (markBad s1 addr) f (if far then 5 else 3) addr else countError (markBad s1 addr) 0
    | none => raiseDev (zeroRange (countError s1 0) g n) 0 1 0x0304 0 0 g

def execPatrolScrub (addr : Nat) (find : ScrubFind) (s : State) : Host.Outcome State Fault Refusal := .next (patrolScrub s addr find)

/-- `imbalance_pct` of the jobs loaded, the least of them, 150 without one (R187). -/
def imbalancePct (s : State) : Nat :=
  match s.fns.filterMap fun x => x.job.map fun j => j.hdr.imbalancePct with
  | [] => 150
  | a :: r => r.foldl min a

/-- The end of an occupancy window (R186, R187, Table 6.3); no event while a function is confidential (Table 15.5). -/
def occupancyEnd (s : State) (occ : List Nat) (moved : Nat) : State :=
  let l := (List.range 128).map fun i => occ.getD i 0
  let tot := sumNat l
  let hot := maxNat l
  let ch := (l.findIdx? (· == hot)).getD 0
  let pct := if tot = 0 then 0 else hot * 128 * 100 / tot
  let carries := (s.pow.carries.getD 4 0) - s.st.carryMark
  let s1 := { s with st := { s.st with occupancy := l, windowEnd := s.eng.beat, imbalance := sat 0xFFFF pct,
                                       carryMark := s.pow.carries.getD 4 0 } }
  if imbalancePct s * tot < hot * 128 * 100 ∧ 64 ≤ tot / 128 ∧ !confidentialAny s then
    raiseRecord s1 (eventRecord s1 0 0 0x0303 (natLE 8 s.eng.beat ++ natLE 2 ch ++ natLE 2 hot ++ natLE 2 (tot / 128)
      ++ natLE 2 (sat 0xFFFF pct) ++ natLE 8 moved ++ natLE 8 carries))
  else s1

def execOccupancyWindowEnd (occ : List Nat) (moved : Nat) (s : State) : Host.Outcome State Fault Refusal :=
  .next (occupancyEnd s occ moved)

/-- DVFS state of far memory: 0 the highest, while a job is loaded; 1 the second (R189). -/
def farDvfs (s : State) : Nat := b2n (!s.fns.any fun x => x.job.isSome)

/-- Whether far memory may use all-bank refresh, and not per-bank refresh alone: when no step is running (R189). -/
def allBankRefresh (s : State) : Bool := !([0, 1, 2, 3] : List Nat).any (stepRunning s)

/-- Interval oscillator tracking of a far memory that is in service (R189). -/
def execOscillatorTracking (s : State) : Host.Outcome State Fault Refusal :=
  .next (if s.st.farState = 2 then { s with st := { s.st with trackings := s.st.trackings + 1 } } else s)

/-- Idle far memory with no job loaded enters self refresh (R189). -/
def execSelfRefreshEntry (s : State) : Host.Outcome State Fault Refusal :=
  .next (if s.st.farState = 2 ∧ !(s.fns.any fun x => x.job.isSome) then { s with st := { s.st with farState := 1 } } else s)

end Sys2Proof.Machine
end

