-- ==== Sys2Proof/Machine/Products.lean ====
section
/-! DEFINITION. Product tiles of MATMUL and GROUPED_MATMUL (spec/04 R104 to R134, spec/05 R135 to R143, R519, R520). -/
namespace Sys2Proof.Machine
open Sys2Proof

/-! ### Geometry (R519, R520) -/

/-- One output matrix of a product: where its rows, reduction and columns lie in the operands' rows. -/
structure ProdGeom where
  m : Nat
  n : Nat
  k : Nat
  /-- first stored row of A, of B and of C -/
  a0 : Nat
  b0 : Nat
  c0 : Nat
  /-- byte offsets of an expert's weights, scales, column scales and bias (R520) -/
  bOff : Nat
  bScaleOff : Nat
  colOff : Nat
  biasOff : Nat
  /-- output row and column of the first entry of each scale bank (R90) -/
  rowBase : Nat
  colBase : Nat
  deriving DecidableEq, Repr

def batchOf (o : OpD) : Nat := if o.cls = 1 then clamp 1 65535 (opArg o 0 4) else 1

/-- Batch b of a MATMUL (R519). -/
def matmulGeom (o : OpD) (b : Nat) : ProdGeom :=
  let A := refAt o 0
  let B := refAt o (if flagComplex o then 2 else 1)
  let C := outAt o 0
  let nb := max 1 (batchOf o)
  let k := if flagTransA o then A.rows / nb else A.cols
  let m := C.rows / nb
  let per := if flagTransB o then k else C.cols
  { m, n := C.cols, k, a0 := b * (if flagTransA o then k else m), b0 := if B.rows = per then 0 else b * per, c0 := b * m,
    bOff := 0, bScaleOff := 0, colOff := 0, biasOff := 0, rowBase := 0, colBase := 0 }

/-- Rows of each expert of a GROUPED_MATMUL, cut to the token tensor, and the rows beyond it (R520). -/
def cutCounts : Nat → List Nat → List Nat × Nat
  | _, [] => ([], 0)
  | left, n :: r => let k := min n left; let t := cutCounts (left - k) r; (k :: t.1, n - k + t.2)

def groupExperts (o : OpD) : Nat := clamp 1 64 (opArg o 0 2)

/-- The counts that a slice window reads when it begins (R520). -/
def readCounts (m : Memory) (o : OpD) : List Nat := (List.range (groupExperts o)).map fun e => u32At m (opArg o 8 8) e

/-- Expert e of a GROUPED_MATMUL with the window's row counts (R520). With `trans_a` it forms the expert's weight gradient:
both operands are grouped rows and the reduction runs over the expert row order (R231; log 48). -/
def groupedGeom (o : OpD) (rows : List Nat) (e : Nat) : ProdGeom :=
  let A := refAt o 0
  let B := refAt o (if flagComplex o then 2 else 1)
  let C := outAt o 0
  let n := C.cols
  let first := sumNat (rows.take e)
  let g := groupSize B.group
  let ne := rows.getD e 0
  let dw := flagTransA o
  let k := if dw then ne else A.cols
  { m := if dw then A.cols else ne, n, k, a0 := first, b0 := if dw then first else 0, c0 := if dw then e * A.cols else first,
    bOff := if dw then 0 else e * opArg o 16 8,
    bScaleOff := if g = 0 then 0 else e * n * ceilDiv k g, colOff := n * e, biasOff := e * n * (if o.biasFmt = 1 then 2 else 4), rowBase := 0, colBase := 0 }

/-! ### Operand pairs -/

/-- Planes of a complex operand: real and imaginary follow each other (R124; log 41). -/
def planeA (o : OpD) (im : Bool) : TRef := refAt o (b2n (flagComplex o && im))
def planeB (o : OpD) (im : Bool) : TRef := refAt o (if flagComplex o then 2 + b2n im else 1)

/-- Whether both operands are CB4, which multiply through the product table (R100, R125). -/
def viaTable (o : OpD) : Bool := (refAt o 0).fmt = 11 && (planeB o false).fmt = 11

/-- The element pair (i, j, k) as whole values (R108). -/
def pairAt (x : SliceCtx) (o : OpD) (g : ProdGeom) (ia ib : Bool) (i j k : Nat) : Val × Val :=
  let A := planeA o ia
  let B0 := planeB o ib
  let B := { B0 with addr := B0.addr + g.bOff, scaleAddr := B0.scaleAddr + g.bScaleOff }
  let (ra, ca) := if flagTransA o then (g.a0 + k, i) else (g.a0 + i, k)
  let (rb, cb) := if flagTransB o then (g.b0 + k, j) else (g.b0 + j, k)
  if viaTable o then
    (tableVal (x.regs.table.getD (16 * (elemRaw x.mem A ra ca) + elemRaw x.mem B rb cb) 0), vOne)
  else (elemOf x 0 (laneFormat A.fmt B.fmt) A ra ca, elemOf x 1 (laneFormat B.fmt A.fmt) B rb cb)

/-- Whether a product runs on the integer path: both operands INT8 or INT4 without group scales (R117). -/
def integerPath (o : OpD) : Bool :=
  let ok (r : TRef) : Bool := isInt r.fmt && decide (groupSize r.group = 0)
  ok (refAt o 0) && ok (planeB o false)

/-- The passes of one element as (imaginary plane of A, of B, pieces), in summation order (R122, R124). -/
def elementPasses (o : OpD) : List (Bool × Bool × Nat × Nat) :=
  let sp := splitPasses (splitLevel o.splitLevel) (decide ((refAt o 0).fmt = 0)) (decide ((planeB o false).fmt = 0))
  let planes : List (Bool × Bool) := if flagComplex o then [(false, false), (true, true), (false, true), (true, false)] else [(false, false)]
  planes.flatMap fun p => sp.map fun q => (p.1, p.2, q.1, q.2)

/-- Blocks b0 to b1 − 1 of one element, from its stored passes; an integer pass is an exact sum (R104, R105, R117, R123, R124). -/
def elementRun (x : SliceCtx) (o : OpD) (g : ProdGeom) (i j b0 b1 : Nat) (from_ : List AccElem) : List AccElem :=
  let ks := (List.range (min (32 * b1) g.k - min (32 * b0) g.k)).map (32 * b0 + ·)
  if integerPath o then
    ((elementPasses o).zipIdx).map fun pn =>
      let a := from_.getD pn.2 AccElem.start
      { a with acc := vAdd a.acc (intDot (ks.map (pairAt x o g pn.1.1 pn.1.2.1 i j))) }
  else
    let a32 := decide ((refAt o 0).fmt = 0)
    let b32 := decide ((planeB o false).fmt = 0)
    ((elementPasses o).zipIdx).map fun pn =>
      let p := pn.1
      let lead := p.2.2.1 = 0 && p.2.2.2 = 0
      runPass lead (from_.getD pn.2 AccElem.start) (ks.map fun k => mkPair a32 b32 (p.2.2.1, p.2.2.2) (pairAt x o g p.1 p.2.1 i j k))

/-- The exact integer of a part of an integer product: of a complex one, its two passes combined (R117, R124; log 159). -/
def intPart (o : OpD) (im : Bool) (ps : List AccElem) : Val :=
  let t (k : Nat) : Val := (ps.getD k AccElem.start).acc
  if !flagComplex o then t 0 else if im then vAdd (t 2) (t 3) else vAdd (t 0) (vNeg (t 1))

/-- The value of an output element before conversion; `im` selects the imaginary part (R109 steps 7 and 8, R119, R124). -/
def elementTail (x : SliceCtx) (o : OpD) (g : ProdGeom) (i j : Nat) (im : Bool) (ps : List AccElem) : Val :=
  let n := ps.length / (if flagComplex o then 4 else 1)
  let term (k : Nat) : AccElem := sumPasses ((ps.drop (k * n)).take n)
  let acc := if integerPath o then intAcc (intPart o im ps)
             else if flagComplex o then (if im then joinParts false (term 2) (term 3) else joinParts true (term 0) (term 1))
             else term 0
  let row := bankScale x.regs.rowScale o.rowScaleAddr g.rowBase (g.c0 + i)
  let col := bankScale x.regs.colScale o.colScaleAddr g.colBase j
  let bias := if o.biasAddr = 0 then none
              else some (if o.biasFmt = 1 then bf16.decode (leNat (memRead x.mem (o.biasAddr + g.biasOff + 2 * j) 2))
                         else valAt x.mem (o.biasAddr + g.biasOff) j)
  tail acc (channelScale row col (rotateLog o.rotate)) bias

/-- Conversion of one output element (R109 step 9, R115, R119). -/
def elementOut (x : SliceCtx) (o : OpD) (g : ProdGeom) (r : TRef) (i j : Nat) (im : Bool) (ps : List AccElem) : Nat × Nat :=
  if r.fmt = 12 then
    let v := intPart o im ps
    let c := convert 12 false v.ex
    (c.1, eyeBits v c.2)
  else
    let v := elementTail x o g i j im ps
    let c := castOut x o (flagBack o) r (g.c0 + i) j v.ex
    (c.1, eyeBits v c.2)

/-! ### Tiles (R104, R105, R129 to R131) -/

/-- Valid rows and columns of a tile. -/
def tileSpan (n t : Nat) : Nat := min 128 (n - min n (128 * t))

/-- The accumulated elements of a tile after its blocks b0 to b1 − 1. -/
def tileElems (x : SliceCtx) (o : OpD) (g : ProdGeom) (mt nt b0 b1 : Nat) (from_ : List (List AccElem)) : List (List AccElem) :=
  let c := tileSpan g.n nt
  (List.range (tileSpan g.m mt * c)).map fun e =>
    elementRun x o g (128 * mt + e / max 1 c) (128 * nt + e % max 1 c) b0 b1 (from_.getD e [])

/-- The last output of a tile: its rows, its eyespot words, the summary of each plane, and a sentinel tile's sum (R131, R132, R355). The imaginary plane's words follow
those of the operator's `tiles` real ones (log 41). -/
def tileDone (x : SliceCtx) (op : Nat) (o : OpD) (g : ProdGeom) (t tiles mt nt : Nat) (es : List (List AccElem)) : List Effect :=
  let c := tileSpan g.n nt
  let plane (im : Bool) : List Effect :=
    let r := outAt o (b2n im)
    let out := es.zipIdx.map fun e => elementOut x o g r (128 * mt + e.2 / max 1 c) (128 * nt + e.2 % max 1 c) im e.1
    let eye := eyespot (out.zipIdx.map fun e => (e.2 / max 1 c, e.2 % max 1 c, e.1.2))
    let tt := if im then tiles + t else t
    let rows := (List.range (tileSpan g.m mt)).map fun i =>
      rowWrite r (g.c0 + 128 * mt + i) (128 * nt) (((out.drop (i * c)).take c).map (·.1))
    let word := if o.eyeAddr = 0 then [] else [Effect.mem (o.eyeAddr + 4 * tt) (natLE 4 eye.toNat)]
    let sum := if !isSentinel x.j x.step o t then [] else
      [Effect.checkSum ⟨true, op, tt, x.mb, crc64 ((rows.map fun e => match e with | .mem _ b => b | _ => []).flatten ++ natLE 4 eye.toNat), x.core⟩]
    rows ++ word ++ [.eye op tt eye] ++ sum
  plane false ++ (if flagComplex o then plane true else [])

/-- Tiles of one batch and of the whole operator. -/
def tilesOf (g : ProdGeom) : Nat := ceilDiv g.m 128 * ceilDiv g.n 128

/-- Whether two records are of one tile in flight. -/
def samePart (p q : Partial) : Bool :=
  decide (p.core = q.core) && decide (p.op = q.op) && decide (p.step = q.step) && decide (p.mb = q.mb) && decide (p.batch = q.batch) &&
    decide (p.mTile = q.mTile) && decide (p.nTile = q.nTile)

/-- The effects of blocks b0 to b1 − 1 of a MATMUL tile (R104, R105). -/
def tileWork (x : SliceCtx) (op b mt nt b0 b1 rowBase colBase : Nat) : List Effect :=
  match opNth x.j op with
  | none => []
  | some o =>
    let g := { matmulGeom o b with rowBase, colBase }
    let part : Partial := ⟨x.core, op, x.step, x.mb, b, mt, nt, b1, []⟩
    let from_ := if b0 = 0 then [] else match x.s.st.partials.find? (samePart part) with | some p => p.elems | none => []
    let es := tileElems x o g mt nt b0 b1 from_
    if ceilDiv g.k 32 ≤ b1 then
      tileDone x op o g (b * tilesOf g + mt * ceilDiv g.n 128 + nt) (batchOf o * tilesOf g) mt nt es ++ [.dropPart part]
    else [.part { part with elems := es }]

/-! ### Loads of core registers (R91, R98, R100, R126, R142) -/

def f32Words (m : Memory) (a n : Nat) : List F32 := (List.range n).map (f32At m a)
def bookWords (m : Memory) (a n : Nat) : List (BitVec 16) := (List.range n).map fun i => BitVec.ofNat 16 (leNat (memRead m (a + 2 * i) 2))

def scaleWork (x : SliceCtx) (core : Nat) (column : Bool) (addr n : Nat) : List Effect :=
  [.scales core column (f32Words x.mem addr (min 4096 n))]

/-- The product table of two banks and windows (R100, R125). -/
def tableFill (a b : List (BitVec 16)) (winA winB : Nat) : List (BitVec 32) :=
  (List.range 256).map fun i => tableWord (a.getD (16 * winA + i / 16) 0).toNat (b.getD (16 * winB + i % 16) 0).toNat

def bookWork (x : SliceCtx) (core bank addr : Nat) (fill : Bool) (winA winB : Nat) : List Effect :=
  let vals := bookWords x.mem addr 256
  let regs := lookupD x.s.st.cores core CoreRegs.init
  let a := if bank = 0 then vals else regs.book0
  let b := if bank = 0 then regs.book1 else vals
  .codebook core bank vals :: (if fill then [.table core (tableFill a b winA winB)] else [])

/-- First output column of the column bank's entries for an n-tile of an item (R90, R91; log 158). -/
def itemColBase (nt : Nat) : Nat := 128 * nt / 4096 * 4096

/-- First output row of the row bank's entries for an item (R90, R520; log 158). -/
def itemRowBase (g : ProdGeom) (mt : Nat) : Nat := g.c0 + 128 * mt

/-- The parameter whose working copy is expert e's matrix of a GROUPED_MATMUL: a GATHER delivers it to that matrix's address (R249,
R520; log 158). -/
def expertParam (j : Job) (o : OpD) (g : ProdGeom) : Option ParamEntry :=
  let a := (planeB o false).addr + g.bOff
  match j.ops.find? fun q => decide (q.cls = 0x10) && decide ((outAt q 0).addr = a) with
  | some q => j.params.find? fun p => decide (p.tensorId = (refAt q 0).tensorId)
  | none => j.params.find? fun p => decide (p.tensorId = (planeB o false).tensorId)

/-- The codebook bank 1 with a parameter's codebook in its place: a window for CB4, the whole bank for CB8 (R97, R142, R249). -/
def expertBook (m : Memory) (region : Nat) (p : ParamEntry) (b : TRef) (old : List (BitVec 16)) : List (BitVec 16) :=
  if b.fmt = 10 then bookWords m (region + p.codebook) 256
  else
    let w := 16 * min 15 b.cbWin
    let full := (List.range 256).map fun i => old.getD i 0
    full.take w ++ bookWords m (region + p.codebook) 16 ++ full.drop (w + 16)

/-- What a core loads before it starts an item: at a change of expert the column-bank scales, the codebooks and the product table, and
with every item the row-bank scales of its rows (R91, R98, R126, R142, R520; log 158). -/
def itemLoads (x : SliceCtx) (o : OpD) (rows : List Nat) (e mt nt : Nat) (last : Nat × Nat) : List Effect :=
  let g := groupedGeom o rows e
  let base := itemColBase nt
  let b := planeB o false
  let fresh := decide (last.1 ≠ e)
  let cols := if o.colScaleAddr ≠ 0 && (fresh || decide (itemColBase last.2 ≠ base)) then
      [Effect.scales x.core true (f32Words x.mem (o.colScaleAddr + 4 * (g.colOff + base)) (min 4096 (g.n - base)))] else []
  let rowsOf := if o.rowScaleAddr = 0 then [] else
      [Effect.scales x.core false (f32Words x.mem (o.rowScaleAddr + 4 * itemRowBase g mt) (tileSpan g.m mt))]
  let books := match expertParam x.j o g, paramRegion x.s x.f with
    | some p, some r =>
      if fresh && isCodebook b.fmt then
        let new := expertBook x.mem r.addr p b x.regs.book1
        Effect.codebook x.core 1 new ::
          (if viaTable o then [.table x.core (tableFill x.regs.book0 new (min 15 (refAt o 0).cbWin) (min 15 b.cbWin))] else [])
      else []
    | _, _ => []
  cols ++ rowsOf ++ books

/-- Bytes that the loads of an item read. -/
def itemLoadReads (x : SliceCtx) (o : OpD) (rows : List Nat) (e mt nt : Nat) : List (Nat × Nat) :=
  let g := groupedGeom o rows e
  let base := itemColBase nt
  (if o.colScaleAddr = 0 then [] else [(o.colScaleAddr + 4 * (g.colOff + base), 4 * min 4096 (g.n - base))])
    ++ (if o.rowScaleAddr = 0 then [] else [(o.rowScaleAddr + 4 * itemRowBase g mt, 4 * tileSpan g.m mt)])
    ++ (match expertParam x.j o g, paramRegion x.s x.f with
        | some p, some r => if isCodebook (planeB o false).fmt then [(r.addr + p.codebook, if (planeB o false).fmt = 11 then 32 else 512)] else []
        | _, _ => [])

/-- Items of a window with the given rows, which number its tiles (R131, R139). -/
def windowTiles (o : OpD) (rows : List Nat) : Nat :=
  sumNat (rows.zipIdx.map fun r => if r.1 = 0 then 0 else tilesOf (groupedGeom o rows r.2))

/-- One item of a GROUPED_MATMUL: an output tile of one expert over its whole reduction (R139, R142, R143). -/
def itemWork (x : SliceCtx) (op : Nat) (rows : List Nat) (e mt nt t : Nat) : List Effect :=
  match opNth x.j op with
  | none => []
  | some o =>
    let g0 := groupedGeom o rows e
    let g := { g0 with rowBase := itemRowBase g0 mt, colBase := itemColBase nt }
    tileDone x op o g t (windowTiles o rows) mt nt (tileElems x o g mt nt 0 (ceilDiv g.k 32) [])

end Sys2Proof.Machine
end

