-- ==== Sys2Proof/Machine/Fused.lean ====
section
/-! DEFINITION. Fused kernels and LOSS (spec/05 R161 to R163). An intermediate with the address 0 lives inside a fused kernel: its consumer
forms its bits as the stage that makes it would (log 160). -/
namespace Sys2Proof.Machine
open Sys2Proof

/-! ### Intermediates (R161) -/

/-- Whether input i of a consumer may be an intermediate that a producer makes: the fusions of R161. -/
def fusible (prod cons : OpD) (i : Nat) : Bool :=
  (decide (prod.cls = 1) && decide (cons.cls = 9) && decide (i = 0)) ||
  (decide (prod.cls = 1) && decide (cons.cls = 4) && flagBack cons && decide (i = 3)) ||
  (decide (prod.cls = 4) && !flagBack prod && decide (cons.cls = 1) && decide (i = 0))

/-- The stage before operator `op` that makes its input i inside the kernel: the nearest whose first output has that tensor and address 0. -/
def producerOf (ops : List OpD) (op i : Nat) : Option (Nat × OpD) :=
  match ops[op]? with
  | none => none
  | some cons =>
    let r := refAt cons i
    if r.addr ≠ 0 ∨ r.rows * r.cols = 0 then none
    else (((ops.take op).zipIdx.filter fun p => fusible p.1 cons i && decide ((outAt p.1 0).addr = 0) &&
      decide ((outAt p.1 0).tensorId = r.tensorId)).getLast?).map fun p => (p.2, p.1)

/-- Whether an operator's first output lives inside the kernel of a later one. -/
def madeInside (ops : List OpD) (op : Nat) : Bool :=
  (List.range ops.length).any fun c => (List.range 4).any fun i => match producerOf ops c i with | some p => decide (p.1 = op) | none => false

/-- Where the scratch of a kernel keeps an intermediate's group scales; its elements stand from address 0 on. Neither is device memory. -/
def scratchScales : Nat := 2 ^ 29

/-- Effects on device memory only: what a kernel keeps inside itself stores nothing (R161). -/
def outside (es : List Effect) : List Effect :=
  es.filter fun e => match e with | .mem a _ => decide (2 ^ 30 ≤ a) | _ => true

/-- The scales of a product whose channels a kernel needs at once: banks filled over every row and column. -/
def wholeBanks (x : SliceCtx) (o : OpD) : SliceCtx :=
  let regs := { x.regs with rowScale := if o.rowScaleAddr = 0 then x.regs.rowScale else f32Words x.mem o.rowScaleAddr (outAt o 0).rows,
                            colScale := if o.colScaleAddr = 0 then x.regs.colScale else f32Words x.mem o.colScaleAddr (outAt o 0).cols }
  { x with s := { x.s with st := { x.s.st with cores := insertK x.s.st.cores x.core regs } } }

/-- Every effect of the tiles of m-tiles `m0` to `m1 - 1` of one batch of a product, each over its whole reduction (R104). -/
def wholeTiles (x : SliceCtx) (op : Nat) (o : OpD) (b m0 m1 : Nat) : List Effect :=
  let g := matmulGeom o b
  ((List.range (m1 - m0)).map (m0 + ·)).flatMap fun mt => (List.range (ceilDiv g.n 128)).flatMap fun nt =>
    tileDone x op o g (b * tilesOf g + mt * ceilDiv g.n 128 + nt) (batchOf o * tilesOf g) mt nt (tileElems x o g mt nt 0 (ceilDiv g.k 32) [])

/-- A product over the m-tiles that hold its rows r0 to r0 + n − 1. -/
def productRows (x : SliceCtx) (op : Nat) (o : OpD) (r0 n : Nat) : List Effect :=
  let m := max 1 ((outAt o 0).rows / max 1 (batchOf o))
  let y := wholeBanks x o
  (List.range (batchOf o)).flatMap fun b =>
    let lo := max r0 (b * m) - b * m
    let hi := min (r0 + n) ((b + 1) * m) - b * m
    if hi ≤ lo then [] else wholeTiles y op o b (lo / 128) (ceilDiv hi 128)

/-- Rows r0 to r0 + n − 1 of an intermediate, as its own stage writes them. -/
def stageRows (x : SliceCtx) (op : Nat) (o : OpD) (r0 n : Nat) : List Effect :=
  if o.cls = 1 then productRows x op o r0 n else normForward x op o r0 n

/-- The operators with the scale arrays of one's intermediate in the kernel's scratch. -/
def scratchOps (ops : List OpD) (op i prod : Nat) : List OpD :=
  let set (k : Nat) (o : OpD) : OpD := { o with refs := updNth o.refs k fun r => { r with scaleAddr := scratchScales } }
  updNth (updNth ops op (set i)) prod fun o => set o.nIn o

/-- A slice's view with rows r0 to r0 + n − 1 of the operator's intermediate in the kernel's scratch (R161). -/
def withInside (x : SliceCtx) (op r0 n : Nat) : SliceCtx :=
  (List.range 4).foldl (fun x i =>
    match producerOf x.j.ops op i with
    | none => x
    | some (k, _) =>
      let y := { x with j := { x.j with ops := scratchOps x.j.ops op i k } }
      match y.j.ops[k]? with
      | none => x
      | some o =>
        let m := (stageRows y k o r0 n).foldl (fun m e => match e with | .mem a b => if a < 2 ^ 30 then memWrite m a b else m | _ => m) x.mem
        { y with s := { y.s with st := { y.s.st with mem := m } } }) x

/-- What the kernel of LOSS leaves of the final product: its eyespots, with the rows that complete its m-tiles (R161, R162). -/
def insideEyes (x : SliceCtx) (op r0 n : Nat) : List Effect :=
  match producerOf x.j.ops op 0 with
  | some (k, o) =>
    if o.cls ≠ 1 then []
    else
      let m := (outAt o 0).rows
      let lo := ceilDiv r0 128
      let hi := if m ≤ r0 + n then ceilDiv m 128 else (r0 + n) / 128
      outside (productRows x k o (128 * lo) (128 * hi - 128 * lo))
  | none => []

/-- Inputs of the stages that a kernel holds for an operator. -/
def insideOps (ops : List OpD) (op : Nat) : List OpD := (List.range 4).filterMap fun i => (producerOf ops op i).map (·.2)

/-! ### LOSS (R162, R163) -/

def vocabTotal (o : OpD) : Nat := opArg o 4 4
def vocabBase (o : OpD) : Nat := opArg o 8 4
def vocabSharded (o : OpD) : Bool := decide ((refAt o 0).cols < vocabTotal o)

/-- Target of a row. -/
def lossTarget (x : SliceCtx) (o : OpD) (i : Nat) : Nat := u32At x.mem (refAt o 1).addr i

/-- z of the target where this shard holds it. -/
def lossZ (x : SliceCtx) (o : OpD) (i : Nat) : Option Val :=
  let t := lossTarget x o i
  if vocabBase o ≤ t ∧ t < vocabBase o + (refAt o 0).cols then some (elemOf x 0 none (refAt o 0) i (t - vocabBase o)) else none

/-- lse and z_τ of a row, over every shard of a vocabulary that is sharded over T (R163). -/
def lossRow (x : SliceCtx) (op : Nat) (o : OpD) (i : Nat) : Val × Val :=
  let own := onlineStats (rowOf x (refAt o 0) i)
  if !vocabSharded o then (lseOf own, (lossZ x o i).getD vZero)
  else
    let me : LossPart := ⟨op, x.step % 2 ^ 32, x.mbIx, i, x.j.coord.t, enc32 own.1, enc32 own.2, (lossZ x o i).map enc32⟩
    let ps := sortBy (fun p => p.shard) (me :: x.j.lossParts.filter fun p =>
      decide (p.op = op) && decide (p.step = me.step) && decide (p.mb = me.mb) && decide (p.row = i) && !decide (p.shard = x.j.coord.t))
    let m := ps.foldl (fun a p => vMax a (dec32 p.max)) (.inf true)
    let l := ps.foldl (fun a p => rAdd a (rMul (dec32 p.sum) (special 0 (rSub (dec32 p.max) m)))) vZero
    (lseOf (m, l), match ps.findSome? fun p => p.z with | some z => dec32 z | none => vZero)

/-- Rows of LOSS: loss and dz (R162); targets at or above `vocab_total` are counted. `x` holds the rows' logits. -/
def lossRows (x : SliceCtx) (op : Nat) (o : OpD) (r0 n : Nat) : List Effect :=
  let w := rMul (opF32 o 0) (.fin false 1 x.j.sigma)
  let rows := (List.range n).map (r0 + ·)
  let ignored (i : Nat) : Bool := decide (vocabTotal o ≤ lossTarget x o i) || decide (lossTarget x o i = 0xFFFFFFFF)
  let ws := rows.flatMap fun i =>
    let zs := rowOf x (refAt o 0) i
    let (lse, zt) := lossRow x op o i
    let dz := zs.zipIdx.map fun z =>
      if ignored i then vZero
      else
        let p := special 0 (rSub z.1 lse)
        rMul (rSub p (if vocabBase o + z.2 = lossTarget x o i then vOne else vZero)) w
    let loss := if ignored i then vZero else rSub lse zt
    putWords ((outAt o 0).addr + 4 * i) [loss] :: (if 2 ≤ o.nOut then outRow x o (outAt o 1) i dz else [])
  let bad := (rows.filter fun i => decide (vocabTotal o ≤ lossTarget x o i) && !decide (lossTarget x o i = 0xFFFFFFFF)).length
  rowsDone op o ws bad

end Sys2Proof.Machine
end

