-- ==== Sys2Proof/Machine/Collective.lean ====
section
/-! DEFINITION. Collectives: the reduction tree by logical index, node arithmetic, gathers and segments (spec/09 R286 to R303). -/
namespace Sys2Proof.Machine
open Sys2Proof

/-! ### What a collective is (R286 to R288) -/

/-- A reduction as the engines run it: tensor, wire format (0xFF for counts), axes in running order, shape of the contribution. -/
structure CollSpec where
  tensor : Nat
  wire : Nat
  counts : Bool
  gradient : Bool
  carry : Bool
  /-- all-reduce -/
  all : Bool
  axes : List Nat
  rows : Nat
  cols : Nat
  deriving DecidableEq, Repr

/-- Pseudo-operators of the norm reduction (R262) and of the loads of a layer (R206), with their tensor numbers (log 46). -/
def normOp : Nat := 0x10000
def loadsOp (layer : Nat) : Nat := 0x10001 + layer

def axesOf (v : Nat) : List Nat := ([0, 1, 2, 3] : List Nat).filter fun a => bit v a

/-- The scatter axis: one that is not set becomes the highest axis set (Table 9.1). -/
def scatterOf (o : OpD) : Nat :=
  let l := axesOf (opArg o 1 1)
  if l.contains (opArg o 2 1) then opArg o 2 1 else l.getLastD 3

/-- The format code of `grad_format` (R250). -/
def gradFmt (j : Job) : Nat := if j.hdr.gradFormat = 0 then 2 else 1

/-- A REDUCE as the engines run it: ascending axes, the scatter axis last (R286, R287, R293). -/
def collSpec (j : Job) (op : Nat) : Option CollSpec :=
  if op = normOp then some ⟨0xFFFFFFFF, 0, false, false, false, true, [0, 1, 2, 3], 1, 1⟩
  else if normOp < op then some ⟨0xFFFE0000 + (op - loadsOp 0), 0xFF, true, false, false, true, [3], 1, expertsOf j (op - loadsOp 0)⟩
  else match opNth j op with
    | none => none
    | some o =>
      if o.cls ≠ 0x0F then none
      else
        let sc := scatterOf o
        let flags := opArg o 4 1
        let grad := bit flags 1
        let counts := bit flags 2
        let r := refAt o 0
        some { tensor := r.tensorId, wire := if counts then 0xFF else if grad then gradFmt j else opArg o 3 1, counts,
               gradient := grad, carry := bit flags 0, all := decide (opArg o 0 1 ≠ 0),
               axes := (axesOf (opArg o 1 1)).filter (fun a => decide (a ≠ sc)) ++ [sc], rows := r.rows, cols := r.cols }

/-- Whether a GATHER is an all-to-all (Table 9.2). -/
def gatherA2A (o : OpD) : Bool := decide (opArg o 0 1 ≠ 0)

/-- The operator of a segment's tensor: a reduction for `coll` 1 and 3, a gather of that mode else (Table 9.4). -/
def collOpOf (j : Job) (tensor coll : Nat) : Option Nat :=
  if tensor = 0xFFFFFFFF then some normOp
  else if 0xFFFE0000 ≤ tensor then some (loadsOp (tensor - 0xFFFE0000))
  else j.ops.findIdx? fun o =>
    decide ((refAt o 0).tensorId = tensor) &&
      (if coll = 1 ∨ coll = 3 then decide (o.cls = 0x0F) else decide (o.cls = 0x10) && decide (gatherA2A o = decide (coll = 4)))

/-! ### The tree (R289, R294) -/

/-- m, r and b of R289. -/
def treeM (n : Nat) : Nat := Nat.log2 n
def treeR (n : Nat) : Nat := n - 2 ^ treeM n
def treeB (n : Nat) : Nat := 2 ^ treeM n - treeR n

/-- The device on which virtual leaf v resides (R289). -/
def devOf (n v : Nat) : Nat := if v < treeB n then v else treeB n + 2 * (v - treeB n)

/-- The virtual leaf of a device, and whether it is the upper or the lower device of a fold pair. -/
def leafOf (n i : Nat) : Nat := if i < treeB n then i else treeB n + (i - treeB n) / 2
def isUpper (n i : Nat) : Bool := decide (treeB n ≤ i) && decide ((i - treeB n) % 2 = 1)
def isLower (n i : Nat) : Bool := decide (treeB n ≤ i) && decide ((i - treeB n) % 2 = 0)

/-- Stages whose operands device i adds to an element of the block of `owner`: the fold as 0, halving stage k as k + 1.
A block of an upper device is not added in the last stage (R294). -/
def stagesOf (n i owner : Nat) : List Nat :=
  if isUpper n i then []
  else
    let v := leafOf n i
    let w := leafOf n owner
    (if isLower n i then [0] else []) ++
      ((List.range (treeM n)).filter fun k =>
        decide (v % 2 ^ (k + 1) = w % 2 ^ (k + 1)) && !(decide (k + 1 = treeM n) && isUpper n owner)).map (· + 1)

/-! ### Nodes (R290 to R292) -/

/-- One rounding into a wire format by R71; a magnitude beyond the largest finite value becomes infinity. -/
def roundTo (fmt : Nat) (v : Val) : Val := elemVal fmt (convert fmt true v.ex).1 fun _ => 0

/-- The value of a count. -/
def countVal (v : Val) : Nat :=
  match v with
  | .fin false m e => if e < 0 then m / 2 ^ (-e).toNat else m * 2 ^ e.toNat
  | _ => 0

/-- An exact zero sum is +0. -/
def plusZero (v : Val) : Val := if v.isZero then vZero else v

/-- The node of two operands; a root rounds into FP32 (R290). -/
def node (sp : CollSpec) (root : Bool) (a b : Operand) : Operand :=
  if sp.counts then ⟨false, 0, vInt (sat (2 ^ 32 - 1) (countVal a.val + countVal b.val))⟩
  else if a.mark && b.mark then ⟨true, 0, vZero⟩
  else if a.mark then { b with val := plusZero b.val }
  else if b.mark then { a with val := plusZero a.val }
  else
    let eps := min a.eps b.eps
    let up (x : Operand) : Val := x.val.scale2 ((eps : Int) - x.eps)
    ⟨false, eps, roundTo (if root then 0 else sp.wire) (plusZero (vAdd (up a) (up b)))⟩

/-! ### Progress of one element -/

/-- Takes the first waiting operand of an axis position and stage. -/
def takeOperand (ax st : Nat) : List (Nat × Nat × Operand) → Option (Operand × List (Nat × Nat × Operand))
  | [] => none
  | x :: r =>
    if x.1 = ax ∧ x.2.1 = st then some (x.2.2, r)
    else (takeOperand ax st r).map fun t => (t.1, x :: t.2)

/-- Stage numbers of a delivery (Table 9.4) and, inside this device, of the gather leg of an all-reduce. -/
def deliverStage : Nat := 0xFE
def legStage : Nat := 0x100

/-- One advance of an element of row `row`, if its next operand is there. -/
def advanceElem (j : Job) (sp : CollSpec) (row : Nat) (e : CElem) : Option CElem :=
  match sp.axes[e.ax]?, e.cur with
  | some a, some cur =>
    let n := coordOn j.lengths a
    let i := coordOn j.coord a
    let owner := blockOwner sp.rows n row
    let last := e.ax + 1 = sp.axes.length
    let next (x : Operand) (g : List (Nat × Nat × Operand)) : CElem := { e with cur := some x, ax := e.ax + 1, st := 0, got := g }
    if n ≤ 1 then some (next cur e.got)
    else match (stagesOf n i owner)[e.st]? with
      | some k =>
        (takeOperand e.ax k e.got).map fun t =>
          { e with cur := some (node sp (last && decide (k = treeM n)) cur t.1), st := e.st + 1, got := t.2 }
      | none =>
        if owner = i then
          if isUpper n i then
            match takeOperand e.ax deliverStage e.got with
            | some (x, g) => (takeOperand e.ax deliverStage g).map fun t => next (node sp last x t.1) t.2
            | none => none
          else some (next cur e.got)
        else if !last || sp.all then (takeOperand e.ax legStage e.got).map fun t => next t.1 t.2
        else none
  | _, _ => none

/-- Advances an element as far as its operands allow; an axis takes at most 19 stages. -/
def runElem (j : Job) (sp : CollSpec) (row : Nat) : Nat → CElem → CElem
  | 0, e => e
  | n + 1, e => match advanceElem j sp row e with | some e' => runElem j sp row n e' | none => e

def elemDone (sp : CollSpec) (e : CElem) : Bool := decide (sp.axes.length ≤ e.ax) && e.cur.isSome

/-! ### Elements on the wire (R81, R301) -/

/-- The local row and column of a logical element of a tensor, if it lies in this device's shard. -/
def localOf (j : Job) (tensor rows cols x : Nat) : Option (Nat × Nat) :=
  match placeOf j tensor with
  | some q =>
    let r := x / max 1 q.cols
    let c := x % max 1 q.cols
    if q.row ≤ r ∧ r < q.row + rows ∧ q.col ≤ c ∧ c < q.col + cols then some (r - q.row, c - q.col) else none
  | none => if x < rows * cols then some (x / max 1 cols, x % max 1 cols) else none

/-- Parts of rows that cover `n` elements from local element `e0`, at most `most` elements each: row, column, count. -/
def rowParts (cols most : Nat) : Nat → Nat → Nat → List (Nat × Nat × Nat)
  | 0, _, _ => []
  | fuel + 1, e0, n =>
    if n = 0 ∨ cols = 0 then []
    else
      let c := e0 % cols
      let k := min (min (cols - c) (max 1 most)) n
      (e0 / cols, c, k) :: rowParts cols most fuel (e0 + k) (n - k)

/-- A segment header (Table 9.4). -/
def segHeader (j : Job) (step tensor coll axis stage wire flags eps offset count : Nat) : Bytes :=
  natLE 4 tensor ++ natLE 1 (coll + 16 * axis) ++ natLE 1 stage ++ natLE 1 wire ++ natLE 1 flags ++ natLE 1 eps
    ++ natLE 1 (if step = j.committed.step then j.attempt else 0) ++ zeros 2 ++ coordBytes j.coord ++ natLE 8 offset
    ++ natLE 4 count ++ natLE 4 (step % 2 ^ 32)

/-- An item descriptor (Table 10.4). -/
def itemDesc (cls hops f : Nat) (dst : Coord) (len : Nat) : Bytes :=
  natLE 1 cls ++ natLE 1 hops ++ natLE 1 (f + 1) ++ zeros 1 ++ coordBytes dst ++ natLE 4 len ++ zeros 4

/-- Hops between two members, axis by axis the shorter way (R295). -/
def hopsTo (j : Job) (dst : Coord) : Nat :=
  sumNat (([0, 1, 2, 3] : List Nat).map fun a => (shortWay (coordOn j.lengths a) (coordOn j.coord a) (coordOn dst a) (axisLine j a)).1)

def sendEffect (j : Job) (f cls port : Nat) (dst : Coord) (b : Bytes) : Effect :=
  .send (.item port (itemDesc cls (hopsTo j dst) f dst b.length) b)

/-! ### Contributions (R232, R233, R287) -/

/-- The contribution of a REDUCE: rounded once into the wire format, or markers for an expert without rows. -/
def contributeWork (x : SliceCtx) (op : Nat) (o : OpD) (expert : Option Nat) : List Effect :=
  match collSpec x.j op with
  | none => []
  | some sp =>
    let r := refAt o 0
    let p := x.j.params.find? fun p => decide (p.tensorId = r.tensorId)
    let mark := match p, expert with
      | some p, some e => paramExpert p && decide (expertRows x.j p.layer e = 0)
      | _, _ => false
    let eps := match p with | some p => if sp.carry && !mark then gradExponent x.j p expert else 0 | none => 0
    let one (n : Nat) : Operand :=
      if mark then ⟨true, 0, vZero⟩
      else if sp.counts then ⟨false, 0, vInt (u32At x.mem r.addr n)⟩
      else ⟨false, eps, roundTo sp.wire (flatOf x r n)⟩
    [.contribution op ((List.range (sp.rows * sp.cols)).map one)]

/-! ### Sending one stage (R294, R298, R301) -/

/-- The operand that an element sends: its partial, or the wire-format value of a gather leg (R298). -/
def sentOperand (sp : CollSpec) (leg : Bool) (e : CElem) : Operand :=
  let x := e.cur.getD ⟨true, 0, vZero⟩
  if leg then ⟨false, 0, if x.mark then vZero else if sp.counts then x.val else roundTo sp.wire x.val⟩ else x

def operandBytes (sp : CollSpec) (x : Operand) : Bytes :=
  if sp.counts then natLE 4 (countVal x.val) else natLE (fmtBits sp.wire / 8) (convert sp.wire true x.val.ex).1

/-- Elements e0 to e0 + n − 1 of one stage of a reduction, as segments of row parts. -/
def reduceStage (x : SliceCtx) (op axis stage : Nat) (leg : Bool) (dst : Coord) (port e0 n : Nat) : List Effect :=
  match collSpec x.j op, x.j.collectives.find? fun c => decide (c.op = op) with
  | some sp, some c =>
    let w := if sp.counts then 4 else fmtBits sp.wire / 8
    (rowParts sp.cols (65536 / max 1 w) n e0 n).map fun p =>
      let xs := (List.range p.2.2).map fun i => sentOperand sp leg (c.elems.getD (p.1 * sp.cols + p.2.1 + i) ⟨none, 0, 0, []⟩)
      let h := xs.headD ⟨true, 0, vZero⟩
      let head := segHeader x.j x.step sp.tensor (if leg then 3 else 1) axis stage sp.wire (b2n h.mark) h.eps
        (logicalIndex x.j sp.tensor sp.cols p.1 p.2.1) p.2.2
      sendEffect x.j x.f 1 port dst (head ++ (if h.mark then [] else (xs.map (operandBytes sp)).flatten))
  | _, _ => []

/-! ### Gathers (R288, R299, R300) -/

/-- Scale bytes of a row part: E8M0 scales of its groups, or the row's FP32 scale with the row's first element (R288). -/
def scaleSpan (r : TRef) (row col n : Nat) : Nat × Nat :=
  let g := groupSize r.group
  if r.scaleAddr = 0 then (0, 0)
  else if g = 0 then (if col = 0 then (r.scaleAddr + 4 * row, 4) else (0, 0))
  else (r.scaleAddr + row * scaleBytes r.group r.cols + col / g, ceilDiv (col + n) g - col / g)

/-- Stored bytes of a row part. -/
def partSpan (r : TRef) (row col n : Nat) : Nat × Nat :=
  (r.addr + row * rowBytes r.fmt r.cols + fmtBits r.fmt * col / 8, (fmtBits r.fmt * n + 7) / 8)

/-- Rank of this device among the members of the gathered axes, e fastest, and their number (R299). -/
def gatherRank (j : Job) (axes : List Nat) (c : Coord) : Nat × Nat :=
  axes.foldl (fun t a => (t.1 + t.2 * coordOn c a, t.2 * coordOn j.lengths a)) (0, 1)

/-- First output row of a member's block and its rows: of an all-gather by rank; of an all-to-all by sender index (R299, R300). -/
def gatherBlock (j : Job) (o : OpD) (c : Coord) : Nat × Nat :=
  let axes := axesOf (opArg o 1 1)
  if gatherA2A o then
    let a := axes.headD 3
    let n := (blockShare (refAt o 0).rows (coordOn j.lengths a) (coordOn j.coord a)).2
    (coordOn c a * n, n)
  else
    let k := gatherRank j axes c
    blockShare (outAt o 0).rows k.2 k.1

/-- First row of this device's input that goes into its own block: an all-to-all keeps block j of device j. -/
def gatherOwnRow (j : Job) (o : OpD) : Nat :=
  let a := (axesOf (opArg o 1 1)).headD 3
  if gatherA2A o then (blockShare (refAt o 0).rows (coordOn j.lengths a) (coordOn j.coord a)).1 else 0

/-- The device's own block copied into the output, with its scales. -/
def gatherOwn (x : SliceCtx) (o : OpD) : List Effect :=
  let r := refAt o 0
  let out := outAt o 0
  let (b0, n) := gatherBlock x.j o x.j.coord
  let r0 := gatherOwnRow x.j o
  let copy (src dst : Nat × Nat) : List Effect := if dst.2 = 0 ∨ src.2 = 0 then [] else [.mem dst.1 (memRead x.mem src.1 src.2)]
  (List.range n).flatMap fun i =>
    copy (partSpan r (r0 + i) 0 r.cols) (partSpan out (b0 + i) 0 out.cols) ++ copy (scaleSpan r (r0 + i) 0 r.cols) (scaleSpan out (b0 + i) 0 out.cols)

/-- Elements of one stage of a gather, read from the output, or from the input of an all-to-all; scale bytes follow them. -/
def gatherStage (x : SliceCtx) (o : OpD) (axis stage : Nat) (dst : Coord) (port e0 n : Nat) : List Effect :=
  let a2a := gatherA2A o
  let r := if a2a then refAt o 0 else outAt o 0
  let id := (refAt o 0).tensorId
  (rowParts r.cols (65536 * 8 / max 1 (fmtBits r.fmt)) n e0 n).map fun p =>
    let d := partSpan r p.1 p.2.1 p.2.2
    let s := scaleSpan r p.1 p.2.1 p.2.2
    let off := if a2a then p.1 * r.cols + p.2.1 else logicalIndex x.j (outAt o 0).tensorId r.cols p.1 p.2.1
    let head := segHeader x.j x.step id (if a2a then 4 else 2) axis stage r.fmt 0 0 off p.2.2
    sendEffect x.j x.f 1 port dst (head ++ memRead x.mem d.1 d.2 ++ memRead x.mem s.1 s.2)

/-- Stores a gather segment at its place in the output. -/
def storeGather (s : State) (j : Job) (o : OpD) (origin : Coord) (offset count : Nat) (body : Bytes) : State :=
  let out := outAt o 0
  let spot :=
    if gatherA2A o then
      let r := refAt o 0
      let own := gatherOwnRow j o
      let row := offset / max 1 r.cols
      let b := gatherBlock j o origin
      if own ≤ row ∧ row < own + b.2 then some (b.1 + (row - own), offset % max 1 r.cols) else none
    else localOf j out.tensorId out.rows out.cols offset
  match spot with
  | none => s
  | some (row, col) =>
    let d := partSpan out row col count
    let sc := scaleSpan out row col count
    let s1 := storeBytes s d.1 (body.take d.2)
    if sc.2 = 0 then s1 else storeBytes s1 sc.1 (slice body d.2 sc.2)

/-! ### What a finished element leaves (R252, R287, R298) -/

/-- Output bytes of a finished element: FP32 root or its wire-format value, converted exactly, or a count. -/
def outElem (sp : CollSpec) (r : TRef) (x : Operand) : Bytes :=
  if sp.counts then natLE 4 (countVal x.val)
  else
    let v := if x.mark then vZero else if sp.all then roundTo sp.wire x.val else x.val
    natLE (fmtBits r.fmt / 8) (convert r.fmt true v.ex).1

/-- Whether a row of the contribution lies in this device's block of the scatter axis (R294). -/
def ownRow (j : Job) (sp : CollSpec) (row : Nat) : Bool :=
  let a := sp.axes.getLastD 3
  decide (blockOwner sp.rows (coordOn j.lengths a) row = coordOn j.coord a)

/-- First row of this device's block of the scatter axis. -/
def ownFirst (j : Job) (sp : CollSpec) : Nat :=
  let a := sp.axes.getLastD 3
  (blockShare sp.rows (coordOn j.lengths a) (coordOn j.coord a)).1

/-- Stores newly finished elements in the operator's output. -/
def storeDone (s : State) (j : Job) (sp : CollSpec) (op : Nat) (done : List (Nat × Operand)) : State :=
  match opNth j op with
  | none => s
  | some o =>
    let out := outAt o 0
    if out.addr = 0 then s
    else done.foldl (fun s d =>
      let row := d.1 / max 1 sp.cols
      let w := if sp.counts then 4 else fmtBits out.fmt / 8
      let r := if sp.all then row else row - ownFirst j sp
      storeBytes s (out.addr + w * (r * out.cols + d.1 % max 1 sp.cols)) (outElem sp out d.2)) s

/-- The owner's shard of a finished gradient goes into the holding buffer with its beat; it sets the nonfinite flag (R252, R253, R275). -/
def holdShard (j : Job) (beat : Nat) (sp : CollSpec) (own : List Operand) : Job :=
  let mark := own.all fun x => x.mark
  let vals := own.map fun x => enc32 (if x.mark then vZero else x.val)
  let sh : Shard := ⟨sp.tensor, vals, if mark then 0 else (own.headD ⟨true, 0, vZero⟩).eps, mark, beat⟩
  { j with holding := j.holding.filter (fun h => !decide (h.tensor = sp.tensor)) ++ [sh],
           nonfinite := j.nonfinite || own.any fun x => !x.mark && !x.val.isFin }

/-- What the completion of a whole reduction means: the holding buffer, the norm's total or a layer's loads. -/
def collDone (j : Job) (beat : Nat) (sp : CollSpec) (op : Nat) (elems : List CElem) : Job :=
  let at_ (i : Nat) : Operand := ((elems.getD i ⟨none, 0, 0, []⟩).cur).getD ⟨true, 0, vZero⟩
  if op = normOp then { j with normTotal := some (enc32 (at_ 0).val) }
  else if normOp < op then
    { j with loads := insertK j.loads (op - loadsOp 0) ((List.range elems.length).map fun i => countVal (at_ i).val) }
  else if sp.gradient then
    holdShard j beat sp (((List.range elems.length).filter fun i => ownRow j sp (i / max 1 sp.cols)).map at_)
  else j

/-- Puts a reduction's changed elements back: advances them, stores what has finished, and completes the whole. -/
def settleColl (s : State) (f op : Nat) (elems : List CElem) : State :=
  match jobAt s f with
  | none => s
  | some j =>
    match collSpec j op with
    | none => s
    | some sp =>
      let new := elems.zipIdx.map fun e => runElem j sp (e.2 / max 1 sp.cols) 80 e.1
      let mine (i : Nat) : Bool := if sp.gradient || !sp.all then ownRow j sp (i / max 1 sp.cols) else true
      let whole (l : List CElem) : Bool := (l.zipIdx.all fun e => !mine e.2 || elemDone sp e.1)
      let fresh := ((elems.zip new).zipIdx.filter fun e => !elemDone sp e.1.1 && elemDone sp e.1.2).map fun e =>
        (e.2, e.1.2.cur.getD ⟨true, 0, vZero⟩)
      let s1 := storeDone s j sp op fresh
      setJob s1 f fun j =>
        let j1 := { j with collectives := ⟨op, new⟩ :: j.collectives.filter fun c => !decide (c.op = op) }
        if whole new && (!whole elems || elems.isEmpty) then collDone j1 s.eng.beat sp op new else j1

/-- The elements of a reduction before anything has arrived. -/
def collElems (j : Job) (sp : CollSpec) (op : Nat) : List CElem :=
  match j.collectives.find? fun c => decide (c.op = op) with
  | some c => c.elems
  | none => List.replicate (sp.rows * sp.cols) ⟨none, 0, 0, []⟩

/-- A contribution starts a reduction anew; operands that have come early stay (R287). -/
def startColl (s : State) (f op : Nat) (vals : List Operand) : State :=
  match jobAt s f with
  | none => s
  | some j =>
    match collSpec j op with
    | none => s
    | some sp => settleColl s f op ((collElems j sp op).zipIdx.map fun e => { e.1 with cur := vals[e.2]?, ax := 0, st := 0 })

/-! ### Received segments (R295, R301 to R303) -/

/-- Operands of a reduction segment, one per element. -/
def segOperands (sp : CollSpec) (seg : Bytes) : List Operand :=
  let n := rd seg 24 4
  let w := if sp.counts then 4 else fmtBits sp.wire / 8
  (List.range n).map fun i =>
    if bit (rd seg 7 1) 0 then ⟨true, 0, vZero⟩
    else
      let v := rd seg (32 + w * i) w
      ⟨false, rd seg 8 1, if sp.counts then vInt v else elemVal sp.wire v fun _ => 0⟩

/-- Adds the operands of a reduction segment to their elements. -/
def reduceSegment (s : State) (f op : Nat) (seg : Bytes) : State :=
  match jobAt s f with
  | none => s
  | some j =>
    match collSpec j op with
    | none => s
    | some sp =>
      let leg := rd seg 4 1 % 16 = 3
      let ax := (sp.axes.findIdx? fun a => decide (a = rd seg 4 1 / 16)).getD 0
      let st := if leg then legStage else rd seg 5 1
      let put (es : List CElem) (x : Operand × Nat) : List CElem :=
        match localOf j sp.tensor sp.rows sp.cols (rd seg 16 8 + x.2) with
        | some (r, c) => updNth es (r * sp.cols + c) fun e => { e with got := e.got ++ [(ax, st, x.1)] }
        | none => es
      settleColl s f op ((segOperands sp seg).zipIdx.foldl put (collElems j sp op))

/-- Whether a segment's step and attempt are the device's own: the running step, or attempt 0 of the next one (R302; log 47). -/
def segCurrent (j : Job) (step attempt : Nat) : Option Nat :=
  let k := j.committed.step
  if step = k % 2 ^ 32 ∧ attempt = j.attempt then some k
  else if step = (k + 1) % 2 ^ 32 ∧ attempt = 0 then some (k + 1)
  else none

/-- The item that a segment is (R61). -/
def segItem (seg : Bytes) : Item := .segment (rd seg 0 4) (rd seg 4 1 * 256 + rd seg 5 1) (rd seg 16 8) (coordOf seg 12)

/-- Records an arrival with the running beat as its stamp (R60). -/
def noteArrival (s : State) (f : Nat) (i : Item) (step : Nat) : State :=
  setJob s f fun j => { j with arrivals := j.arrivals ++ [(i, step, s.eng.beat)] }

/-- A collective segment for function f that came in on a port. -/
def takeSegment (s : State) (f port : Nat) (seg : Bytes) : State :=
  match jobAt s f with
  | none => s
  | some j =>
    let tensor := rd seg 0 4
    if bit (rd seg 7 1) 1 then
      let other (c : Collective) : Bool := ((collSpec j c.op).map fun sp => !decide (sp.tensor = tensor)).getD false
      raiseAbort (setJob s f fun j => { j with collectives := j.collectives.filter other }) f 0x0101
    else match segCurrent j (rd seg 28 4) (rd seg 9 1) with
      | none => setPort s port fun p => { p with stale := sat (2 ^ 32 - 1) (p.stale + 1) }
      | some step =>
        let coll := rd seg 4 1 % 16
        let s1 := noteArrival s f (segItem seg) step
        match collOpOf j tensor coll with
        | none => s1
        | some op =>
          if coll = 1 ∨ coll = 3 then reduceSegment s1 f op seg
          else match opNth j op with
            | some o => storeGather s1 j o (coordOf seg 12) (rd seg 16 8) (rd seg 24 4) (seg.drop 32)
            | none => s1

def execCollectiveSegment (f port : Nat) (seg : Bytes) (s : State) : Host.Outcome State Fault Refusal :=
  .next (takeSegment s f port seg)

end Sys2Proof.Machine
end

