-- ==== Sys2Proof/Machine/Exchange.lean ====
section
/-! DEFINITION. The token exchange: counts, capacity, quotas, packing, rows, partials, and the common work list
(spec/07 R201 to R240, spec/05 R139 to R145, R165). -/
namespace Sys2Proof.Machine
open Sys2Proof

/-! ### The exchange of a layer and micro-batch -/

def exchAt (j : Job) (layer mb : Nat) : Option Exchange :=
  j.exchanges.find? fun x => decide (x.layer = layer) && decide (x.mb = mb)

/-- Changes the first entry that satisfies a test. -/
def updFirst {α : Type} (p : α → Bool) (g : α → α) : List α → List α
  | [] => []
  | x :: r => if p x then g x :: r else x :: updFirst p g r

def setExch (j : Job) (layer mb : Nat) (g : Exchange → Exchange) : Job :=
  { j with exchanges := updFirst (fun x => decide (x.layer = layer) && decide (x.mb = mb)) g j.exchanges }

/-- An exchange before its allocation, with the rows of the count matrix that are known (R208, R212). -/
def newExchange (step layer mb : Nat) (matrix : List (Nat × List Nat × List Nat)) (sel : List (List (Nat × F32))) : Exchange :=
  { step, layer, mb, sel, matrix, allocated := false, backAllocated := false, cap := [], quota := [], kept := [], flows := [], release := [],
    received := [], roundRows := [], returned := [] }

/-- ROUTER's results open the exchange, with this device's own row of the count matrix and the rows that came before it (R208, R212). -/
def openExchange (j : Job) (step layer mb : Nat) (counts distinct : List Nat) (sel : List (List (Nat × F32))) : Job :=
  let early := match j.exchanges.find? fun y => decide (y.layer = layer) && decide (y.mb = mb) && decide (y.step = step) with
    | some y => y.matrix.filter fun r => !decide (r.1 = j.coord.e)
    | none => []
  let x := newExchange step layer mb ((j.coord.e, counts, distinct) :: early) sel
  { j with exchanges := x :: j.exchanges.filter fun y => !(decide (y.layer = layer) && decide (y.mb = mb) && decide (y.step = step)) }

/-- Number of the DISPATCH or COMBINE of a layer, micro-batch and direction. -/
def exchOpIx (j : Job) (cls layer mb : Nat) (backward : Bool) : Option Nat :=
  let ok (o : OpD) : Bool := decide (o.cls = cls) && decide (o.layer = layer) && (flagBack o == backward)
  match j.ops.findIdx? fun o => ok o && decide (opArg o 0 2 = mb) with
  | some k => some k
  | none => j.ops.findIdx? ok

/-- The DISPATCH or COMBINE of a layer, micro-batch and direction. -/
def exchOp (j : Job) (cls layer mb : Nat) (backward : Bool) : Option OpD := (exchOpIx j cls layer mb backward).bind (opNth j)

def epochOf (j : Job) (mb : Nat) : Nat := j.epochs.getD mb 0

/-- The count matrix entries of origin o: c[o][x] and u[o][d]. -/
def cntOf (x : Exchange) (o e : Nat) : Nat := (lookupD x.matrix o ([], [])).1.getD e 0
def distOf (x : Exchange) (o d : Nat) : Nat := (lookupD x.matrix o ([], [])).2.getD d 0

/-- First global expert and number of experts on device d (R201). -/
def expertSpan (j : Job) (layer d : Nat) : Nat × Nat := blockShare (expertsOf j layer) j.lengths.e d

def ringTotal (j : Job) (x : Exchange) (e : Nat) : Nat := sumNat ((List.range j.lengths.e).map fun o => cntOf x o e)

/-! ### Statistics (R239) -/

def ExchStats.init (layer : Nat) : ExchStats := ⟨layer, 0, 0, 0, 0, 0, 0, 0, 0, 0⟩

/-- Changes the statistics and the flag of a step: the running one, or the one after it. -/
def onStep (step : Nat) (g : Job → Job) (j : Job) : Job :=
  if step = j.committed.step then g j
  else
    let k := g { j with stats := j.nextStats, nextStats := j.stats, nonfinite := j.nextNonfinite, nextNonfinite := j.nonfinite }
    { k with stats := k.nextStats, nextStats := k.stats, nonfinite := k.nextNonfinite, nextNonfinite := k.nonfinite }

/-- Changes the statistics of a layer in the running step. -/
def bumpExch (j : Job) (layer : Nat) (g : ExchStats → ExchStats) : Job :=
  let l := if j.stats.exch.any fun e => decide (e.layer = layer) then j.stats.exch else j.stats.exch ++ [ExchStats.init layer]
  { j with stats := { j.stats with exch := l.map fun e => if e.layer = layer then g e else e } }

def sat32 (n : Nat) : Nat := sat (2 ^ 32 - 1) n

/-- Adds counts to an operator's statistics (R75, R520). -/
def addStats (j : Job) (op nans infs sats others : Nat) : Job :=
  let l := if j.stats.ops.any fun x => decide (x.op = op) then j.stats.ops else j.stats.ops ++ [⟨op, 0, 0, 0, 0⟩]
  let up (x : OpStats) : OpStats :=
    { x with nans := sat32 (x.nans + nans), infs := sat32 (x.infs + infs), sats := sat32 (x.sats + sats), others := sat32 (x.others + others) }
  { j with stats := { j.stats with ops := l.map fun x => if x.op = op then up x else x } }

/-- The counts of conversions that an exchange operator makes outside a slice's own results, with the nonfinite flag of a backward one
(R75, R253). -/
def countAt (s : State) (f step : Nat) (op : Option Nat) (backward : Bool) (cs : List Counted) : State :=
  match op with
  | none => s
  | some k =>
    let n (p : Counted → Bool) : Nat := (cs.filter p).length
    let bad := backward && cs.any fun c => c.nan || c.posInf || c.negInf
    setJob s f (onStep step fun j =>
      addStats { j with nonfinite := j.nonfinite || bad } k (n (·.nan)) (n fun c => c.posInf || c.negInf) (n (·.saturated)) 0)

/-! ### Capacity, spill and quotas (R213 to R216) -/

def spillSlots (j : Job) (layer : Nat) : Nat :=
  match exchOf j layer with
  | some e => if e.overflow = 0 then 0 else e.spillWindows * capacityOf j layer
  | none => 0

/-- Spill shares in ascending local index (R214). -/
def spillShares : Nat → List Nat → List Nat
  | _, [] => []
  | left, x :: r => min x left :: spillShares (left - min x left) r

/-- Effective capacities of every expert (R214). -/
def capsOf (j : Job) (x : Exchange) : List Nat :=
  let c := capacityOf j x.layer
  (List.range j.lengths.e).flatMap fun d =>
    let (s0, n) := expertSpan j x.layer d
    (spillShares (spillSlots j x.layer) ((List.range n).map fun i => ringTotal j x (s0 + i) - c)).map (c + ·)

/-- Quotas of one expert from the origins' counts (R215). -/
def quotaCol (cs : List Nat) (cap : Nat) : List Nat :=
  let tot := sumNat cs
  if tot ≤ cap then cs
  else
    let base := cs.map fun c => c * cap / tot
    let rem := cs.map fun c => c * cap % tot
    let left := cap - sumNat base
    base.zipIdx.map fun b =>
      let r := rem.getD b.2 0
      let ahead := (rem.zipIdx.filter fun q => decide (r < q.1) || (decide (q.1 = r) && decide (q.2 < b.2))).length
      if ahead < left then b.1 + 1 else b.1

/-- Whether gate a ranks above gate b: a NaN gate ranks below every other (R216). -/
def gateAbove (a b : Val) : Bool := if a.isNan then false else if b.isNan then true else vLt b a

/-- Experts that each token of this origin keeps, given its quotas (R216). -/
def keptOf (sel : List (List (Nat × F32))) (quota : Nat → Nat) : List (List Nat) :=
  sel.zipIdx.map fun t => (t.1.filter fun a =>
    let g := dec32 a.2
    let ahead := (sel.zipIdx.filter fun u => u.1.any fun b => decide (b.1 = a.1) &&
      (gateAbove (dec32 b.2) g || (!gateAbove g (dec32 b.2) && decide (u.2 < t.2)))).length
    decide (ahead < quota a.1)).map (·.1)

/-! ### Row sizes, paths and packing (R217 to R223) -/

/-- Row sizes: forward dispatch, forward return, backward dispatch, backward return (Table 7.4). -/
def rowHeader (k : Nat) (floats : Bool) : Nat := roundUp (24 + (if floats then 4 * k else 0)) 32

def tokenRef (j : Job) (layer mb : Nat) (backward : Bool) : TRef :=
  match exchOp j 7 layer mb backward with | some o => refAt o 0 | none => ⟨0, 0, 0, 0, 0, 1, 0, 0⟩

def kOf (j : Job) (layer : Nat) : Nat := match routerOf j layer with | some o => effK o | none => 1

/-- Bytes of a dispatch row (R217). -/
def dispatchRow (j : Job) (layer mb : Nat) (backward : Bool) : Nat :=
  let r := tokenRef j layer mb backward
  let h := rowHeader (kOf j layer) true
  if backward then h + 2 * r.cols
  else if groupSize r.group = 0 then h + rowBytes r.fmt r.cols
  else roundUp (h + rowBytes r.fmt r.cols + scaleBytes r.group r.cols) 32

/-- Bytes of a return row (Table 7.4). -/
def returnRow (j : Job) (layer mb : Nat) (backward : Bool) : Nat :=
  let r := match exchOp j 8 layer mb backward with | some o => refAt o 0 | none => ⟨0, 0, 0, 0, 0, 0, 0, 0⟩
  if backward then rowHeader (kOf j layer) true + 2 * (tokenRef j layer mb true).cols
  else rowHeader 0 false + rowBytes r.fmt (tokenRef j layer mb false).cols

/-- Directed links of a path on the E ring: the node a link leaves and its direction (R219). -/
def pathLinks (n : Nat) (gap : Option Nat) (a b : Nat) : List (Nat × Nat) :=
  let w := shortWay n a b gap
  (List.range w.1).map fun i => (if w.2 = 0 then (a + i) % max 1 n else (a + n - i) % max 1 n, w.2)

/-- The path of a flow from origin o to device d; a return runs the other way (R219, R226). -/
def flowPath (j : Job) (back : Bool) (o d : Nat) : List (Nat × Nat) :=
  if back then pathLinks j.lengths.e (axisLine j 0) d o else pathLinks j.lengths.e (axisLine j 0) o d

/-- Latency class of a directed link of the E axis, as the plan's system map has it (R44, Table 2.5). -/
def linkLambda (j : Job) (l : Nat × Nat) : Nat :=
  let n := max 1 j.lengths.e
  match j.plan with
  | some p => p.map.eLambda.getD (if l.2 = 0 then l.1 else (l.1 + n - 1) % n) 0
  | none => 0

/-- Latency class of a path: the sum over its ports (R219). -/
def pathLambda (j : Job) (path : List (Nat × Nat)) : Nat := sumNat (path.map (linkLambda j))

/-- B: port bytes of one data phase in a partition's share (Table 2.4, Table 14.2). -/
def portBudget (s : State) : Nat := 400 * (s.eng.period - 1250) / fnCount s.flash.partMode

/-- n_buf of R220. -/
def bufRows (j : Job) (layer mb : Nat) : Nat :=
  match exchOf j layer with
  | some e => e.recvMib * 2 ^ 20 / max 1 (dispatchRow j layer mb false)
  | none => 1

/-- The largest number of rows that any device can receive in one micro-batch (R220). -/
def mostRows (j : Job) (layer : Nat) : Nat :=
  let t := match exchOf j layer with | some e => e.tokens | none => 0
  min ((expertSpan j layer 0).2 * capacityOf j layer + spillSlots j layer) ((j.lengths.e - 1) * t)

def roundsOf (j : Job) (layer mb : Nat) : Nat := max 1 (ceilDiv (mostRows j layer) (max 1 (bufRows j layer mb)))

/-- Ordered pairs of distinct devices of the ring, as flows. -/
def ringFlows (j : Job) : List (Nat × Nat) :=
  (List.range j.lengths.e).flatMap fun o => ((List.range j.lengths.e).filter fun d => decide (d ≠ o)).map fun d => (o, d)

/-- Λ(l) of R222. -/
def linkLoad (j : Job) (layer mb : Nat) (back : Bool) (bRow : Nat) (l : Nat × Nat) : Nat :=
  let on := (ringFlows j).filter fun f => (flowPath j back f.1 f.2).contains l
  let t := match exchOf j layer with | some e => e.tokens | none => 0
  let sx := sumNat (((on.map (·.1)).eraseDups).map fun o => t * min (kOf j layer) (on.filter fun f => decide (f.1 = o)).length)
  let rx := sumNat (((on.map (·.2)).eraseDups).map fun d =>
    min (bufRows j layer mb) ((expertSpan j layer d).2 * capacityOf j layer + spillSlots j layer))
  bRow * min sx rx

/-- Beats of a window sized by R222. -/
def windowBeats (s : State) (j : Job) (layer mb : Nat) (back : Bool) (bRow : Nat) : Nat :=
  let p := maxNat ((ringFlows j).map fun f => sumNat ((flowPath j back f.1 f.2).map (linkLoad j layer mb back bRow)))
  max 1 (ceilDiv p (portBudget s - bRow))

/-- `dispatch_beats` of a layer, 0 for windows that the Kyoda sizes (R223). -/
def fixedBeats (j : Job) (layer : Nat) : Nat := match exchOf j layer with | some e => e.dispatchBeats | none => 0

/-- Beats of each round's forward dispatch window (R222, R223). -/
def dispatchBeats (s : State) (j : Job) (layer mb : Nat) : Nat :=
  if fixedBeats j layer ≠ 0 then fixedBeats j layer else windowBeats s j layer mb false (dispatchRow j layer mb false)

/-- Room taken on links per beat: beat, link, bytes. -/
abbrev Taken := List (Nat × (Nat × Nat) × Nat)

def takenAt (t : Taken) (j : Nat) (l : Nat × Nat) : Nat :=
  sumNat ((t.filter fun x => decide (x.1 = j) && decide (x.2.1 = l)).map (·.2.2))

/-- Rows of one flow placed beat by beat from beat j (R221). -/
def placeFlow (budget bRow : Nat) (path : List (Nat × Nat)) : Nat → Nat → Nat → Taken → List Nat × Nat × Taken
  | 0, _, n, t => ([], n, t)
  | fuel + 1, j, n, t =>
    let fit := (path.map fun l => (budget - takenAt t j l) / max 1 bRow).foldl min n
    let put := min n fit
    let t1 := if put = 0 then t else path.map (fun l => (j, l, put * bRow)) ++ t
    let r := placeFlow budget bRow path fuel (j + 1) (n - put) t1
    (put :: r.1, r.2)

/-- Packs the flows of one round in ascending (hops, o, d) (R221): per flow its placement and what is left. -/
def packRound (budget bRow w : Nat) (path : Nat → Nat → List (Nat × Nat)) (fs : List (Nat × Nat × Nat)) :
    List (Nat × Nat × List Nat × Nat) :=
  let order := sortBy (fun f => ((path f.1 f.2.1).length * 256 + f.1) * 256 + f.2.1) fs
  (order.foldl (fun (acc : List (Nat × Nat × List Nat × Nat) × Taken) f =>
    let r := placeFlow budget bRow (path f.1 f.2.1) w 0 f.2.2 acc.2
    (acc.1 ++ [(f.1, f.2.1, r.1, r.2.1)], r.2.2)) ([], [])).1

/-- u' of R218. -/
def flowRows (j : Job) (x : Exchange) (o d : Nat) : Nat :=
  let (s0, n) := expertSpan j x.layer d
  min (distOf x o d) (sumNat ((List.range n).map fun i => (x.quota.getD (s0 + i) []).getD o 0))

/-- First position and positions of a flow in a round (R220). -/
def flowPart (j : Job) (x : Exchange) (r o d : Nat) : Nat × Nat :=
  let nb := max 1 (bufRows j x.layer x.mb)
  let u := sumNat (((List.range o).filter fun i => decide (i ≠ d)).map fun i => flowRows j x i d)
  let lo := r * nb - u
  let hi := min (flowRows j x o d) ((r + 1) * nb - u)
  (lo, hi - lo)

/-- The flows of every round packed into windows of w beats with rows of `bRow` bytes; `part` gives the first position of a flow in a round
and its positions (R221). -/
def packWith (s : State) (j : Job) (x : Exchange) (back : Bool) (w bRow : Nat) (part : Nat → Nat → Nat → Nat × Nat) : List Flow :=
  (List.range (roundsOf j x.layer x.mb)).flatMap fun r =>
    let fs := (ringFlows j).map fun f => (f.1, f.2, (part r f.1 f.2).2)
    (packRound (portBudget s) bRow w (flowPath j back) (fs.filter fun f => decide (0 < f.2.2))).map fun p =>
      let q := part r p.1 p.2.1
      ⟨p.1, p.2.1, r, q.1, q.2, p.2.2.1, p.2.2.2⟩

/-- Positions of a flow that a window has placed in a round: those that later windows keep (R223, R226, R228). -/
def placedPart (x : Exchange) (r o d : Nat) : Nat × Nat :=
  match x.flows.find? fun f => decide (f.origin = o) && decide (f.dest = d) && decide (f.round = r) with
  | some f => (f.first, f.count - f.unplaced)
  | none => (0, 0)

/-- The forward dispatch (R221). -/
def packDispatch (s : State) (j : Job) (x : Exchange) : List Flow :=
  packWith s j x false (dispatchBeats s j x.layer x.mb) (dispatchRow j x.layer x.mb false) (flowPart j x)

/-- The backward dispatch: the rows and rounds of the forward one with the backward row size, in windows sized by R222 (R228; log 162). -/
def packBack (s : State) (j : Job) (x : Exchange) : List Flow :=
  let b := dispatchRow j x.layer x.mb true
  packWith s j x false (windowBeats s j x.layer x.mb false b) b (placedPart x)

/-- A return: the flows reversed, the positions kept (R226). -/
def packReturn (s : State) (j : Job) (x : Exchange) (backward : Bool) : List Flow :=
  let b := returnRow j x.layer x.mb backward
  packWith s j x true (windowBeats s j x.layer x.mb true b) b (placedPart x)

/-! ### Allocation (R210 to R225, R228) -/

/-- Whether a round's row counts are known only from the tags (R225). -/
def byTags (j : Job) (layer mb : Nat) : Bool :=
  decide (1 < roundsOf j layer mb) || (match exchOf j layer with | some e => decide (e.dispatchBeats ≠ 0) | none => false)

/-- Real beat of a plan beat of a step. -/
def realBeat (j : Job) (step : Nat) (b : Int) : Int :=
  (j.anchor.getD 0) + ((step : Int) - j.runStep) * (match j.plan with | some p => p.stepBeats | none => 0) + b

/-- The planned exchange of a layer, micro-batch and direction (R208 to R211, R228). -/
def plannedExchange (j : Job) (layer mb : Nat) (backward : Bool) : Option PlannedExchange :=
  j.plan.bind fun p => p.exchanges.find? fun q => decide (q.layer = layer) && decide (q.mb = mb) && (q.backward == backward)

/-- d0_r, the first beat of a round's dispatch window (R211, R221). -/
def dispatchStart (s : State) (j : Job) (x : Exchange) (backward : Bool) (round : Nat) : Nat :=
  let at_ := j.plan.bind fun p => p.slices.findSome? fun sl =>
    match sl.work with
    | .dispatch layer mb r b _ => if layer = x.layer ∧ mb = x.mb ∧ r = round ∧ sl.backward = backward then some (sl.beat - b) else none
    | _ => none
  match (if round = 0 then none else at_), plannedExchange j x.layer x.mb backward with
  | some b, _ => (realBeat j x.step b).toNat
  | none, some q => (realBeat j x.step q.firstDispatch).toNat
  | none, none => s.eng.beat + 1

/-- Release beats of the flows to this device (R225). -/
def releases (s : State) (j : Job) (x : Exchange) (backward : Bool) (flows : List Flow) : List (Nat × Nat) :=
  let e := j.coord.e
  let d0 := dispatchStart s j x backward 0
  (e, d0 + 1) :: (flows.filter fun f => decide (f.dest = e)).filterMap fun f =>
    let last := ((f.place.zipIdx.filter fun p => decide (p.1 ≠ 0)).map (·.2)).getLast?
    last.map fun l => (f.origin, d0 + l + pathLambda j (flowPath j false f.origin e) + j.hdr.slack + 1)

/-- Release beat of every item of a round known only from the tags: after the last deadline of its window (R225). -/
def roundRelease (s : State) (j : Job) (x : Exchange) (backward : Bool) (round : Nat) : Nat :=
  let w := if backward then windowBeats s j x.layer x.mb false (dispatchRow j x.layer x.mb true) else dispatchBeats s j x.layer x.mb
  let far := maxNat (((List.range j.lengths.e).filter fun o => !decide (o = j.coord.e)).map fun o => pathLambda j (flowPath j false o j.coord.e))
  dispatchStart s j x backward round + w + far + j.hdr.slack

/-- Release beat of m-tile m of local expert i: the largest among the flows that contribute rows to it (R225). -/
def tileRelease (s : State) (j : Job) (x : Exchange) (backward : Bool) (round i m : Nat) : Nat :=
  if byTags j x.layer x.mb then roundRelease s j x backward round
  else
    let q := x.quota.getD ((expertSpan j x.layer j.coord.e).1 + i) []
    maxNat (x.release.filterMap fun r =>
      let lo := sumNat (q.take r.1)
      if lo < 128 * (m + 1) ∧ 128 * m < lo + q.getD r.1 0 then some r.2 else none)

/-- The allocation of the whole ring from the count matrix (R213 to R221). -/
def allocate (s : State) (j : Job) (x : Exchange) : Exchange :=
  let caps := capsOf j x
  let quota := caps.zipIdx.map fun c => quotaCol ((List.range j.lengths.e).map fun o => cntOf x o c.2) c.1
  let x1 := { x with cap := caps, quota, kept := keptOf x.sel fun e => (quota.getD e []).getD j.coord.e 0 }
  let flows := packDispatch s j x1
  { x1 with allocated := true, flows, release := releases s j x1 false flows }

/-- The allocation recomputed for the backward pass, from the stored matrix (R228). -/
def allocateBack (s : State) (j : Job) (x : Exchange) : Exchange :=
  let flows := packBack s j x
  { x with backAllocated := true, flows, release := releases s j x true flows }

/-- Rows that are sure to come in a round of flow (o, d): all that are placed where no assignment of the flow was dropped, and no fewer than
one expert keeps where some were (R215 to R218). -/
def sureRows (j : Job) (x : Exchange) (o d : Nat) : Nat :=
  let (s0, n) := expertSpan j x.layer d
  let es := (List.range n).map (s0 + ·)
  let q (e : Nat) : Nat := (x.quota.getD e []).getD o 0
  if es.all fun e => decide (q e = cntOf x o e) then distOf x o d else maxNat (es.map q)

/-- Rows of a round of flow (o, d) that its receiver must have (R61, R218, R221; log 61). -/
def dueRows (j : Job) (x : Exchange) (o d r : Nat) : Nat :=
  let p := placedPart x r o d
  min (p.1 + p.2) (sureRows j x o d) - p.1

/-- Kept slots of this origin with an expert on device d, in ascending slot: the flow's rows by position (R218). -/
def rowsTo (j : Job) (x : Exchange) (d : Nat) : List Nat :=
  let (s0, n) := expertSpan j x.layer d
  (x.kept.zipIdx.filter fun k => k.1.any fun e => decide (s0 ≤ e) && decide (e < s0 + n)).map (·.2)

/-- Rows of a round that device d must return to this origin: those that it was sent (R226). -/
def dueReturned (j : Job) (x : Exchange) (d r : Nat) : Nat :=
  let p := placedPart x r j.coord.e d
  min (p.1 + p.2) (rowsTo j x d).length - p.1

/-- Rows of this origin that a fixed window drops, of one flow part (R223). -/
def partDrops (j : Job) (x : Exchange) (f : Flow) : Nat :=
  if f.origin ≠ j.coord.e then 0
  else
    let n := (rowsTo j x f.dest).length
    min n (f.first + f.count) - min n (f.first + f.count - f.unplaced)

/-! ### Rows (Tables 7.3 and 7.4) -/

/-- `k_mask` and `expert_bitmap` of a token for a destination (Table 7.3). -/
def rowMasks (j : Job) (x : Exchange) (d slot : Nat) : Nat × Nat :=
  let (s0, n) := expertSpan j x.layer d
  let keep := x.kept.getD slot []
  let here (e : Nat) : Bool := keep.contains e && decide (s0 ≤ e) && decide (e < s0 + n)
  let sel := (x.sel.getD slot []).zipIdx
  (sumNat (sel.map fun t => if here t.1.1 then 2 ^ t.2 else 0), sumNat (sel.map fun t => if here t.1.1 then 2 ^ (t.1.1 - s0) else 0))

def rowTag (j : Job) (x : Exchange) (d slot : Nat) : Bytes :=
  let (km, bm) := rowMasks j x d slot
  coordBytes j.coord ++ natLE 4 slot ++ natLE 2 x.mb ++ natLE 2 (epochOf j x.mb) ++ natLE 2 x.layer ++ natLE 2 km ++ natLE 8 bm

/-- Positions of beat b of a flow part (R221). -/
def beatPositions (f : Flow) (b : Nat) : List Nat :=
  (List.range (f.place.getD b 0)).map (f.first + sumNat (f.place.take b) + ·)

/-- The port of the first hop on the E axis. -/
def firstPort (j : Job) (path : List (Nat × Nat)) : Nat :=
  match path with
  | (_, dir) :: _ => axisPort (j.axes.getD 0 0) dir
  | [] => 8

/-! ### Received rows and the expert row order (R224, R225, R229) -/

def rowSlot (r : Bytes) : Nat := rd r 4 4
def rowBitmap (r : Bytes) : Nat := rd r 16 8

/-- Local experts of a row in ascending index with their gates: the i-th set bits of bitmap and `k_mask` belong together. -/
def rowExperts (k : Nat) (r : Bytes) : List (Nat × F32) :=
  let es := (List.range 64).filter fun e => bit (rowBitmap r) e
  let is := (List.range k).filter fun i => bit (rd r 14 2) i
  es.zip (is.map fun i => BitVec.ofNat 32 (rd r (24 + 4 * i) 4))

/-- Rows of local expert e that precede a row in the expert row order, among the rows received. -/
def rankIn (x : Exchange) (round : Nat) (backward : Bool) (e origin slot : Nat) : Nat :=
  (x.received.filter fun r => decide (r.round = round) && (r.backward == backward) && bit (rowBitmap r.bytes) e &&
    (decide (r.origin < origin) || (decide (r.origin = origin) && decide (rowSlot r.bytes < slot)))).length

/-- Row of the grouped token tensor for an expert's row: by quotas in one sized round, else by the rows received (R224, R225). -/
def groupedRow (j : Job) (x : Exchange) (round : Nat) (backward : Bool) (e origin slot : Nat) : Nat :=
  let before := sumNat ((lookupD x.roundRows round []).take e)
  if byTags j x.layer x.mb then before + rankIn x round backward e origin slot
  else
    let q := x.quota.getD ((expertSpan j x.layer j.coord.e).1 + e) []
    let own := (x.received.filter fun r => (r.backward == backward) && decide (r.origin = origin) &&
      bit (rowBitmap r.bytes) e && decide (rowSlot r.bytes < slot)).length
    before + sumNat (q.take origin) + own

/-- Tag and FP32 values of a token's row (Table 7.4). -/
def rowHead (j : Job) (x : Exchange) (d slot : Nat) : Bytes :=
  let k := kOf j x.layer
  let gates := ((List.range k).map fun i => natLE 4 (((x.sel.getD slot []).getD i (0, 0)).2).toNat).flatten
  fit (rowHeader k true) (rowTag j x d slot ++ gates)

/-- A token's data and its group scales in the origin's activation tensor (R217, R224). -/
def tokenData (m : Memory) (r : TRef) (slot : Nat) : Bytes := memRead m (r.addr + slot * rowBytes r.fmt r.cols) (rowBytes r.fmt r.cols)
def tokenScales (m : Memory) (r : TRef) (slot : Nat) : Bytes := memRead m (r.scaleAddr + slot * scaleBytes r.group r.cols) (scaleBytes r.group r.cols)

/-- Data and scales of a row of the expert row order: of a local one, in place in the origin's activation tensor (R218, R224). -/
def rowData (m : Memory) (j : Job) (ex : Exchange) (rv : RecvRow) : Bytes × Bytes :=
  let r := tokenRef j ex.layer ex.mb rv.backward
  if rv.origin = j.coord.e then (tokenData m r (rowSlot rv.bytes), tokenScales m r (rowSlot rv.bytes))
  else
    let h := rowHeader (kOf j ex.layer) true
    let n := rowBytes r.fmt r.cols
    (slice rv.bytes h n, slice rv.bytes (h + n) (scaleBytes r.group r.cols))

/-- dY_x of R229: the row times the gate, cast to the gradient format by R77 and R80, with its counts. -/
def gatedRow (x : SliceCtx) (o : OpD) (row : Nat) (g : F32) (data : Bytes) : Bytes × List Counted :=
  let r := refAt o 0
  let out := outAt o 0
  let ws := (unpackRow r.fmt r.cols data).zipIdx.map fun w => castOut x o true out row w.2 (rMul (dec32 g) (elemVal r.fmt w.1 fun _ => 0)).ex
  (packRow out.fmt (ws.map (·.1)), ws.map (·.2))

/-- A dispatch row of a token for a destination (Table 7.4). -/
def dispatchBytes (m : Memory) (j : Job) (x : Exchange) (backward : Bool) (d slot : Nat) : Bytes :=
  let r := tokenRef j x.layer x.mb backward
  fit (dispatchRow j x.layer x.mb backward) (rowHead j x d slot ++ tokenData m r slot ++ (if backward then [] else tokenScales m r slot))

/-- Dispatch beat b of a round on one port (R217, R221). -/
def dispatchWork (x : SliceCtx) (backward : Bool) (layer mb round b port : Nat) : List Effect :=
  match exchAt x.j layer mb with
  | none => []
  | some ex =>
    let mine := ex.flows.filter fun f => decide (f.origin = x.j.coord.e) && decide (f.round = round) &&
      decide (firstPort x.j (flowPath x.j false f.origin f.dest) = port)
    mine.flatMap fun f =>
      let rows := rowsTo x.j ex f.dest
      (beatPositions f b).filterMap fun p => rows[p]?.map fun slot =>
        sendEffect x.j x.f 2 port (coordPut x.j.coord 0 f.dest) (dispatchBytes x.mem x.j ex backward f.dest slot)

/-- What a row stores in the DISPATCH's output, the grouped token tensor, for each of its experts: address and bytes, and the counts of
their conversions (R224, R229; log 51). -/
def groupedStores (x : SliceCtx) (ex : Exchange) (rv : RecvRow) : List (Nat × Bytes × List Counted) :=
  match exchOp x.j 7 ex.layer ex.mb rv.backward with
  | none => []
  | some o =>
    let r := refAt o 0
    let out := outAt o 0
    let d := rowData x.mem x.j ex rv
    let sb := scaleBytes r.group r.cols
    if out.addr = 0 then []
    else (rowExperts (kOf x.j ex.layer) rv.bytes).flatMap fun e =>
      let i := groupedRow x.j ex rv.round rv.backward e.1 rv.origin (rowSlot rv.bytes)
      let b := if rv.backward then gatedRow x o i e.2 d.1 else (d.1, [])
      (out.addr + i * rowBytes out.fmt out.cols, b.1, b.2) ::
        (if rv.backward || sb = 0 then [] else [(out.scaleAddr + i * sb, d.2, [])])

def exchCtx (s : State) (f : Nat) (j : Job) (ex : Exchange) : SliceCtx := ⟨s, f, j, ex.step, some ex.mb, 0⟩

/-- A row takes its place in the grouped token tensor; a local one is read in place instead (R224, R229). -/
def placeRow (s : State) (f : Nat) (ex : Exchange) (rv : RecvRow) : State :=
  match jobAt s f with
  | none => s
  | some j =>
    let ws := groupedStores (exchCtx s f j ex) ex rv
    let s1 := if rv.origin = j.coord.e then s else ws.foldl (fun s w => storeBytes s w.1 w.2.1) s
    if rv.backward then countAt s1 f ex.step (exchOpIx j 7 ex.layer ex.mb true) true (ws.flatMap (·.2.2)) else s1

/-- A view of memory in which the local rows of a layer's exchange stand at their places in the expert row order (R218, R224). -/
def localView (x : SliceCtx) (layer mb : Nat) : SliceCtx :=
  match exchAt x.j layer mb with
  | none => x
  | some ex =>
    let ws := (ex.received.filter fun r => decide (r.origin = x.j.coord.e)).flatMap (groupedStores x ex)
    { x with s := { x.s with st := { x.s.st with mem := ws.foldl (fun m w => memWrite m w.1 w.2.1) x.mem } } }

/-- Enters a row in the receive buffer; with known counts it takes its place in the token tensor at once (R224). -/
def enterRow (s : State) (f layer mb : Nat) (rv : RecvRow) : State :=
  match (jobAt s f).bind fun j => exchAt j layer mb with
  | none => s
  | some ex =>
    let ex1 := { ex with received := ex.received ++ [rv] }
    let s1 := setJob s f fun j => setExch j layer mb fun _ => ex1
    match jobAt s f with
    | some j => if byTags j layer mb then s1 else placeRow s1 f ex1 rv
    | none => s1

/-- Writes the row counts that GROUPED_MATMUL reads (R225, R520). -/
def writeCounts (s : State) (f layer : Nat) (rows : List Nat) : State :=
  match jobAt s f with
  | none => s
  | some j => (j.ops.filter fun o => decide (o.cls = 2) && decide (o.layer = layer) && decide (opArg o 8 8 ≠ 0)).foldl (fun s o =>
      storeBytes s (opArg o 8 8) ((rows.map (natLE 4)).flatten)) s

/-- Local rows of the exchange: tokens whose kept experts are on this device, referenced where they stand (R218, R224). -/
def localRows (j : Job) (ex : Exchange) (backward : Bool) : List RecvRow :=
  (rowsTo j ex j.coord.e).map fun slot => ⟨j.coord.e, 0, 0, backward, rowHead j ex j.coord.e slot⟩

/-- Whether an allocation may complete: the matrix is whole, its beat has come, and it is not done (R210, R212, R227, R228). -/
def mayAllocate (s : State) (j : Job) (x : Exchange) (backward : Bool) : Bool :=
  (if backward then x.allocated && !x.backAllocated else !x.allocated) &&
    ((List.range j.lengths.e).all fun o => x.matrix.any fun r => decide (r.1 = o)) &&
    (match plannedExchange j x.layer x.mb backward with | some q => decide (realBeat j x.step q.allocBeat ≤ s.eng.beat) | none => true)

/-- Statistics of an allocation of the step (R239). -/
def allocStats (j : Job) (x ex : Exchange) (rows : List Nat) (e : ExchStats) : ExchStats :=
  let me := j.coord.e
  { e with routed := sat32 (e.routed + sumNat (lookupD x.matrix me ([], [])).1),
           dropped := sat32 (e.dropped + sumNat (ex.quota.zipIdx.map fun q => cntOf x me q.2 - q.1.getD me 0)),
           spilled := sat32 (e.spilled + sumNat (rows.map fun r => r - capacityOf j x.layer)),
           windowDropped := sat32 (e.windowDropped + sumNat (ex.flows.map (partDrops j ex))),
           rounds := roundsOf j x.layer x.mb }

/-- The allocation's results take effect: statistics, row counts, release beats, local rows (R211 to R225, R228). -/
def allocationDone (s : State) (f layer mb : Nat) (backward : Bool) : State :=
  match jobAt s f with
  | none => s
  | some j =>
    match exchAt j layer mb with
    | none => s
    | some x =>
      if !mayAllocate s j x backward then s
      else
        let ex := if backward then allocateBack s j x else allocate s j x
        let (s0, n) := expertSpan j layer j.coord.e
        let rows := (List.range n).map fun i => sumNat (ex.quota.getD (s0 + i) [])
        let ex1 := if backward || byTags j layer mb then ex else { ex with roundRows := insertK ex.roundRows 0 rows }
        let s1 := setJob s f fun j =>
          let j1 := { setExch j layer mb (fun _ => ex1) with
            released := j.released.filter fun k => !(decide (k.layer = layer) && decide (k.mb = mb) && (k.backward == backward)) }
          if backward then j1 else onStep x.step (fun j => bumpExch j layer (allocStats j x ex rows)) j1
        let s2 := if byTags j layer mb then s1 else writeCounts s1 f layer rows
        (localRows j ex1 backward).foldl (fun s r => enterRow s f layer mb r) s2

/-! ### Partials and returns (R165, R226, R229) -/

/-- Number of the layer's last GROUPED_MATMUL of a direction that forms no weight gradient: it gives y, or dX (log 52). -/
def expertOp (j : Job) (layer : Nat) (backward : Bool) : Option Nat :=
  (((j.ops.zipIdx.filter fun o => decide (o.1.cls = 2) && decide (o.1.layer = layer) && (flagBack o.1 == backward) && !flagTransA o.1)).getLast?).map (·.2)

def expertOut (j : Job) (layer : Nat) (backward : Bool) : TRef :=
  match (expertOp j layer backward).bind (opNth j) with
  | some o => outAt o 0
  | none => ⟨0, 0, 0, 0, 0, 0, 0, 0⟩

/-- Values of the grouped rows of a received row's experts, with their gates, in ascending local index. -/
def expertRowsOf (x : SliceCtx) (ex : Exchange) (rv : RecvRow) (ofBack : Bool) : List (F32 × List Val) :=
  let t := expertOut x.j ex.layer ofBack
  (rowExperts (kOf x.j ex.layer) rv.bytes).map fun e =>
    (e.2, rowOf x t (groupedRow x.j ex rv.round rv.backward e.1 rv.origin (rowSlot rv.bytes)))

def sumRows (n : Nat) (rows : List (List Val)) : List Val :=
  (List.range n).map fun c => rows.foldl (fun a r => rAdd a (r.getD c vZero)) vZero

/-- The forward partial of a row in the partial format of COMBINE, with its counts (R75, R165). -/
def partialData (x : SliceCtx) (ex : Exchange) (rv : RecvRow) : Bytes × List Counted :=
  match exchOp x.j 8 ex.layer ex.mb false with
  | none => ([], [])
  | some o =>
    let r := refAt o 0
    let parts := (expertRowsOf x ex rv false).map fun p => p.2.map fun v => rMul (dec32 p.1) v
    let cs := (sumRows (tokenRef x.j ex.layer ex.mb false).cols parts).map fun v => convert r.fmt (flagOvf o) v.ex
    (packRow r.fmt (cs.map (·.1)), cs.map (·.2))

/-- Gate gradients of a backward row by selection slot, +0 where `k_mask` is clear (R229). -/
def gateGrads (x : SliceCtx) (ex : Exchange) (rv : RecvRow) : List Val :=
  let k := kOf x.j ex.layer
  let r := tokenRef x.j ex.layer ex.mb true
  let dy := (unpackRow r.fmt r.cols (rowData x.mem x.j ex rv).1).map fun w => elemVal r.fmt w fun _ => 0
  let gs := (expertRowsOf x ex rv false).map fun p => treeSum ((dy.zip p.2).map fun q => rMul q.1 q.2)
  ((List.range k).foldl (fun (acc : List Val × List Val) i =>
    if bit (rd rv.bytes 14 2) i then (acc.1 ++ [acc.2.headD vZero], acc.2.drop 1) else (acc.1 ++ [vZero], acc.2)) ([], gs)).1

/-- d(input) of a backward row: the FP32 sum of the experts' dX, cast once by R77 and R80, with its counts (R229, R250). -/
def inputGrad (x : SliceCtx) (ex : Exchange) (rv : RecvRow) : Bytes × List Counted :=
  match exchOp x.j 8 ex.layer ex.mb true with
  | none => ([], [])
  | some o =>
    let t := tokenRef x.j ex.layer ex.mb true
    let r := { t with fmt := gradFmt x.j, group := 0 }
    let cs := (sumRows t.cols ((expertRowsOf x ex rv true).map (·.2))).zipIdx.map fun v => castOut x o true r (rowSlot rv.bytes) v.2 v.1.ex
    (packRow r.fmt (cs.map (·.1)), cs.map (·.2))

/-- The row that answers a received row, with the counts of what it holds (Table 7.4). -/
def answerRow (x : SliceCtx) (ex : Exchange) (rv : RecvRow) : Bytes × List Counted :=
  let tag := rv.bytes.take 24
  if rv.backward then
    let gs := gateGrads x ex rv
    let d := inputGrad x ex rv
    (fit (rowHeader (kOf x.j ex.layer) true) (tag ++ (gs.map f32Bytes).flatten) ++ d.1, gs.map valCount ++ d.2)
  else
    let d := partialData x ex rv
    (fit 32 tag ++ d.1, d.2)

/-- Rows that a return beat of a round sends on one port, in position order (R226). -/
def returnRowsOf (x : SliceCtx) (ex : Exchange) (backward : Bool) (round b port : Nat) : List (Nat × RecvRow) :=
  let mine := (packReturn x.s x.j ex backward).filter fun f => decide (f.dest = x.j.coord.e) && decide (f.round = round) &&
    decide (firstPort x.j (flowPath x.j true f.origin f.dest) = port)
  mine.flatMap fun f =>
    let rows := ex.received.filter fun r => decide (r.origin = f.origin) && decide (r.round = round) && (r.backward == backward)
    (beatPositions f b).filterMap fun p => rows[p - f.first]?.map fun rv => (f.origin, rv)

/-- Whether the items of all a row's kept experts are complete in the windows that give y, or dX (R226, R227). -/
def partialReady (j : Job) (ex : Exchange) (rv : RecvRow) : Bool :=
  match expertOp j ex.layer rv.backward with
  | none => true
  | some op =>
    if j.windowsDone.contains (op, ex.mb, rv.round, ex.step) then true
    else match j.workLists.find? fun w => decide (w.op = op) && decide (w.mb = ex.mb) && decide (w.round = rv.round) && decide (w.step = ex.step) with
      | none => false
      | some w => (rowExperts (kOf j ex.layer) rv.bytes).all fun e =>
          let m := (groupedRow j ex rv.round rv.backward e.1 rv.origin (rowSlot rv.bytes) - sumNat (w.rows.take e.1)) / 128
          w.items.all fun i => i.check || !(decide (i.expert = e.1) && decide (i.mTile = m)) || decide (i.phase = 3)

/-- Return beat b of a round on one port: answered rows in position order (R226). -/
def returnWork (x : SliceCtx) (backward : Bool) (layer mb round b port : Nat) : List Effect :=
  match exchAt x.j layer mb with
  | none => []
  | some ex =>
    (returnRowsOf x ex backward round b port).flatMap fun r =>
      let a := answerRow x ex r.2
      sendEffect x.j x.f 2 port (coordPut x.j.coord 0 r.1) a.1 ::
        (match exchOpIx x.j 8 layer mb backward with
         | some op => countsOf op a.2 0 ++ backwardFlag backward a.2
         | none => [])

/-! ### COMBINE (R165, R230) -/

/-- Answers for one own token, by sender e: those returned, and the own local part with its counts. -/
def tokenParts (x : SliceCtx) (ex : Exchange) (backward : Bool) (slot : Nat) : List (Nat × Bytes × List Counted) :=
  let back := (ex.returned.filter fun r => (r.2.1 == backward) && decide (rowSlot r.2.2 = slot)).map fun r => (r.1, r.2.2, [])
  let own := (ex.received.filter fun r => decide (r.origin = x.j.coord.e) && (r.backward == backward) && decide (rowSlot r.bytes = slot)).map
    fun r => (x.j.coord.e, answerRow x ex r)
  sortBy (fun p => p.1) (back ++ own)

/-- Gate gradients of an own token by selection slot: from the row whose `k_mask` has the bit, else +0 (R230). -/
def tokenGates (k : Nat) (parts : List (Nat × Bytes × List Counted)) : List Val :=
  (List.range k).map fun t =>
    match parts.find? fun p => bit (rd p.2.1 14 2) t with
    | some p => dec32 (BitVec.ofNat 32 (rd p.2.1 (24 + 4 * t) 4))
    | none => vZero

/-- COMBINE over rows r0 to r0 + n − 1: partials, or d(input) parts and gate gradients (R165, R230). -/
def combineRows (x : SliceCtx) (op : Nat) (o : OpD) (r0 n : Nat) : List Effect :=
  let backward := flagBack o
  let mb := x.mb.getD (opArg o 0 2)
  match exchAt x.j o.layer mb with
  | none => []
  | some ex =>
    let out := outAt o 0
    let k := kOf x.j o.layer
    let fmt := if backward then gradFmt x.j else (refAt o 0).fmt
    let h := if backward then rowHeader k true else 32
    let rows := ((List.range (min n (out.rows - r0))).map (r0 + ·)).map fun i => (i, tokenParts x ex backward i)
    let ws := rows.flatMap fun r =>
      let vs := r.2.map fun p => (unpackRow fmt out.cols (p.2.1.drop h)).map fun w => elemVal fmt w fun _ => 0
      outRow x o out r.1 (sumRows out.cols vs) ++
        (if backward && decide (2 ≤ o.nOut) then [putWords ((outAt o 1).addr + 4 * k * r.1) (tokenGates k r.2)] else [])
    rowsDone op o ws 0 (rows.flatMap fun r => r.2.flatMap (·.2.2))

/-! ### TOKEN_ROW and COUNTS (R209, R224, R235) -/

/-- A row or COUNTS message of another epoch is discarded and counted, in the running step (R235). -/
def staleRow (s : State) (f layer : Nat) : State :=
  setJob s f fun j => bumpExch j layer fun e => { e with stale := sat32 (e.stale + 1) }

/-- The device of an own token's first expert named by a returned row's `k_mask`. -/
def returnSender (j : Job) (ex : Exchange) (row : Bytes) : Nat :=
  let i := ((List.range 8).find? fun i => bit (rd row 14 2) i).getD 0
  blockOwner (expertsOf j ex.layer) j.lengths.e ((((ex.sel.getD (rowSlot row) []).getD i (0, 0))).1)

/-- A row for function f: a row whose tag names this device answers one of its own (R224, R226, R235). -/
def takeRow (s : State) (f round : Nat) (backward : Bool) (row : Bytes) : State :=
  match jobAt s f with
  | none => s
  | some j =>
    let layer := rd row 12 2
    let mb := rd row 8 2
    if rd row 10 2 ≠ epochOf j mb then staleRow s f layer
    else match exchAt j layer mb with
      | none => s
      | some ex =>
        if coordOf row 0 = j.coord then
          let e := returnSender j ex row
          let s1 := noteArrival s f (.returned layer mb round backward (coordPut j.coord 0 e)) ex.step
          setJob s1 f fun j => setExch j layer mb fun x => { x with returned := x.returned ++ [(e, backward, row)] }
        else
          let o := rd row 0 1
          let base := sumNat ((ex.flows.filter fun g => decide (g.dest = j.coord.e) && decide (g.round = round) && decide (g.origin < o)).map (·.count))
          let idx := (ex.received.filter fun r => decide (r.origin = o) && decide (r.round = round) && (r.backward == backward)).length
          enterRow (noteArrival s f (.rows layer mb round backward (coordOf row 0)) ex.step) f layer mb ⟨o, round, base + idx, backward, row⟩

def execTokenRow (f round : Nat) (backward : Bool) (row : Bytes) (s : State) : Host.Outcome State Fault Refusal :=
  .next (takeRow s f round backward row)

/-- The body of this device's COUNTS message (Table 7.2). -/
def countsBody (j : Job) (x : Exchange) : Bytes :=
  let n := expertsOf j x.layer
  let own := lookupD x.matrix j.coord.e ([], [])
  natLE 2 x.layer ++ natLE 2 x.mb ++ natLE 2 (epochOf j x.mb) ++ natLE 2 n
    ++ ((List.range 8).map fun d => natLE 4 (own.2.getD d 0)).flatten ++ ((List.range n).map fun e => natLE 4 (own.1.getD e 0)).flatten

/-- Hops that a COUNTS message travels from its origin in a direction (R209). -/
def countHops (j : Job) (o dir : Nat) : Nat :=
  let n := j.lengths.e
  match axisLine j 0 with
  | none => if dir = 0 then ceilDiv (n - 1) 2 else (n - 1) / 2
  | some g => if dir = 0 then (g + n - o) % max 1 n else (o + n - (g + 1) % max 1 n) % max 1 n

/-- Ports on which a COUNTS message goes on, `from_` hops from its origin in a direction (R209). -/
def countPort (j : Job) (o dir from_ : Nat) : List Nat :=
  if from_ < countHops j o dir then [axisPort (j.axes.getD 0 0) dir] else []

/-- The step that an exchange serves whose first COUNTS message comes now: the next one where its count beat has come (R50, R208). -/
def countStepOf (s : State) (j : Job) (layer mb : Nat) : Nat :=
  let k := j.committed.step
  match plannedExchange j layer mb false with
  | some q => if realBeat j (k + 1) q.countBeat ≤ s.eng.beat + 1 then k + 1 else k
  | none => k

/-- Takes a COUNTS message into the matrix; one that comes before this device's own counts waits there (R208, R212, R235). -/
def takeCounts (s : State) (f : Nat) (m : Msg) : State :=
  match jobAt s f with
  | none => s
  | some j =>
    let layer := rd m.body 0 2
    let mb := rd m.body 2 2
    if rd m.body 4 2 ≠ epochOf j mb then staleRow s f layer
    else
      let words (off n : Nat) : List Nat := (List.range n).map fun i => rd m.body (off + 4 * i) 4
      let row := (m.origin.e, words 40 (rd m.body 6 2), words 8 8)
      let put (x : Exchange) : Exchange := { x with matrix := x.matrix.filter (fun r => !decide (r.1 = m.origin.e)) ++ [row] }
      match exchAt j layer mb with
      | none =>
        let k := countStepOf s j layer mb
        setJob (noteArrival s f (.counts layer mb m.origin) k) f fun j => { j with exchanges := put (newExchange k layer mb [] []) :: j.exchanges }
      | some x => setJob (noteArrival s f (.counts layer mb m.origin) x.step) f fun j => setExch j layer mb put

/-- Own COUNTS messages of a planned count beat of a step; a cancelled micro-batch of that step sends none (R208, R236). -/
def sendCounts (s : State) (f step layer mb : Nat) : State :=
  match jobAt s f with
  | none => s
  | some j =>
    match j.exchanges.find? fun x => decide (x.layer = layer) && decide (x.mb = mb) && decide (x.step = step) with
    | none => s
    | some x =>
      let ports := countPort j j.coord.e 0 0 ++ countPort j j.coord.e 1 0
      if ports.isEmpty || (decide (step = j.committed.step) && j.cancelled.contains mb) then s else sendMsg s ports 5 f (countsBody j x)

/-! ### Expert loads (R206, R207) -/

/-- Ring totals of a layer's loads over the step's micro-batches that are not cancelled (R206). -/
def ringLoads (j : Job) (layer : Nat) : List Nat :=
  let xs := j.exchanges.filter fun x => decide (x.layer = layer) && decide (x.step = j.committed.step) && !j.cancelled.contains x.mb
  (List.range (expertsOf j layer)).map fun e => sumNat (xs.map fun x => ringTotal j x e)

/-! ### The common work list (R139 to R145, R354) -/

/-- Items of a window in ascending (expert, m-tile, n-tile), then the sentinel copies (R139, R354). -/
def windowItems (j : Job) (step : Nat) (o : OpD) (rows : List Nat) (released : Nat → Nat → Bool) : List WorkItem :=
  let all := (List.range rows.length).flatMap fun e =>
    let g := groupedGeom o rows e
    if rows.getD e 0 = 0 then []
    else (List.range (ceilDiv g.m 128)).flatMap fun m => (List.range (ceilDiv g.n 128)).map fun n => (e, m, n)
  let items := all.zipIdx.map fun x => ⟨x.1.1, x.1.2.1, x.1.2.2, x.2, released x.1.1 x.1.2.1, false, 0, 0⟩
  items ++ (items.filter fun i => isSentinel j step o i.t).map fun i => { i with check := true, released := true }

/-- Halves of a partition for sentinel checks: whether a cluster lies in the upper one (R354). -/
def upperHalf (s : State) (f cluster : Nat) : Bool :=
  let cs := fnClusters s.flash.partMode f
  decide (cs.length / 2 ≤ (cs.findIdx? (· == cluster)).getD 0)

/-- Claims up to `left` items from the counter for a cluster; it stops at an m-tile that is not released (R140, R141, R354). -/
def claimItems (all : List WorkItem) (half : Nat → Bool) (cluster : Nat) : Nat → List WorkItem → List WorkItem
  | _, [] => []
  | 0, l => l
  | left + 1, i :: r =>
    if i.phase ≠ 0 then i :: claimItems all half cluster (left + 1) r
    else if !i.released then i :: r
    else if i.check then
      match all.find? fun k => !k.check && decide (k.t = i.t) && decide (2 ≤ k.phase) with
      | some k =>
        if half (k.at_ / 6) = half cluster then i :: claimItems all half cluster (left + 1) r
        else { i with phase := 1, at_ := cluster } :: claimItems all half cluster left r
      | none => i :: claimItems all half cluster (left + 1) r
    else { i with phase := 1, at_ := cluster } :: claimItems all half cluster left r

/-- A core that is free pulls its next item (R140). -/
def pullItem (s : State) (f : Nat) (w : WorkList) (core : Nat) : WorkList :=
  let c := core / 6
  let held (w : WorkList) : Bool := w.items.any fun i => decide (i.phase = 1) && decide (i.at_ = c)
  let w1 := if held w then w else { w with items := claimItems w.items (upperHalf s f) c 2 w.items }
  let last := lookupD w.last core (2 ^ 32, 2 ^ 32)
  let unit (i : WorkItem) : Bool := decide (i.phase = 1) && decide (i.at_ = c)
  let same (i : WorkItem) : Bool := unit i && decide (i.expert = last.1) && decide (i.nTile = last.2)
  let go (p : WorkItem → Bool) : WorkList := { w1 with items := updFirst p (fun i => { i with phase := 2, at_ := core }) w1.items }
  if w1.items.any same then go same else if held w1 then go unit else w1

/-- Active logical cores of a function (Table 14.2). -/
def fnCores (s : State) (f : Nat) : List Nat := (fnClusters s.flash.partMode f).flatMap fun c => (List.range 6).map (6 * c + ·)

/-- The rows of a window known from the tags take their places, with the counts (R225). -/
def takeRound (s : State) (f layer mb round : Nat) (backward : Bool) : State :=
  match jobAt s f with
  | none => s
  | some j =>
    match exchAt j layer mb with
    | none => s
    | some x =>
      if !byTags j layer mb then s
      else
        let mine := x.received.filter fun r => decide (r.round = round) && (r.backward == backward)
        let rows := (List.range (expertSpan j layer j.coord.e).2).map fun e => (mine.filter fun r => bit (rowBitmap r.bytes) e).length
        let x1 := { x with roundRows := insertK x.roundRows round rows }
        let s1 := writeCounts (setJob s f fun j => setExch j layer mb fun _ => x1) f layer rows
        mine.foldl (fun s r => placeRow s f x1 r) s1

/-- The slice window of a GROUPED_MATMUL begins: it reads its counts and makes its list (R139, R140, R520). -/
def openWindow (s : State) (f op mb round step lastBeat : Nat) : State :=
  match jobAt s f with
  | none => s
  | some j0 =>
    match opNth j0 op with
    | none => s
    | some o =>
      if j0.workLists.any fun w => decide (w.op = op) && decide (w.mb = mb) && decide (w.round = round) && decide (w.step = step) then s
      else
        let s1 := takeRound s f o.layer mb round (flagBack o)
        match jobAt s1 f with
        | none => s1
        | some j =>
          let cut := cutCounts (refAt o 0).rows (readCounts s1.st.mem o)
          let free := (exchAt j o.layer mb).isNone || flagTransA o
          let items := windowItems j step o cut.1 fun e m => free || j.released.contains ⟨o.layer, mb, flagBack o, round, e, m⟩
          let w : WorkList := ⟨op, mb, round, step, cut.1, items, [], lastBeat⟩
          setJob s1 f fun j => onStep step (fun j => addStats j op 0 0 0 cut.2) { j with workLists := j.workLists ++ [w] }

/-- The m-tiles of a local expert whose release beats have come, in the exchanges under way (R141, R225). -/
def dueTiles (s : State) (j : Job) (expert mTile : Nat) : List TileKey :=
  j.exchanges.flatMap fun x =>
    if !x.allocated then []
    else ((List.range (roundsOf j x.layer x.mb)).filter fun r => decide (tileRelease s j x x.backAllocated r expert mTile ≤ s.eng.beat)).map
      fun r => ⟨x.layer, x.mb, x.backAllocated, r, expert, mTile⟩

/-- An m-tile's items become claimable: in the exchanges whose release beats for it have come (R141, R225). -/
def releaseTile (s : State) (f expert mTile : Nat) : State :=
  setJob s f fun j =>
    let keys := dueTiles s j expert mTile
    let due (w : WorkList) : Bool := match opNth j w.op with
      | some o => keys.contains ⟨o.layer, w.mb, flagBack o, w.round, expert, mTile⟩
      | none => false
    { j with released := keys ++ j.released, workLists := j.workLists.map fun w => if !due w then w else
      { w with items := w.items.map fun i => if i.expert = expert ∧ i.mTile = mTile then { i with released := true } else i } }

def execItemRelease (f expert mTile : Nat) (s : State) : Host.Outcome State Fault Refusal := .next (releaseTile s f expert mTile)

end Sys2Proof.Machine
end

