-- ==== Sys2Proof/Machine/Image.lean ====
section
/-! DEFINITION. Images of a chrysalis, the partner area, and export records (spec/11 R363 to R375, spec/08 R282 to R285,
spec/13 R432, R433). -/
namespace Sys2Proof.Machine
open Sys2Proof

/-! ### Images (R363, R364, R372) -/

/-- Ranges of the current banks of a device as offsets in the parameter region, with their lengths (R363). -/
def bankRanges (j : Job) : List (Nat × Nat) :=
  j.params.flatMap fun p =>
    let b := currentBank j p
    (weightBank 0 p b, weightBytes j p) :: (match groupOp j p with
      | some o => if paramFrozen p then [] else [(stateBank 0 p b, stateBytes j o p)]
      | none => [])

/-- The memory cells of the current banks, by offset in the parameter region. -/
def captureImage (s : State) (f : Nat) (j : Job) : Memory :=
  match paramRegion s f with
  | none => []
  | some r =>
    let rs := bankRanges j
    let inside (o : Nat) : Bool := rs.any fun x => decide (x.1 ≤ o) && decide (o < x.1 + x.2)
    (s.st.mem.filter fun c => decide (r.addr ≤ c.1) && inside (c.1 - r.addr)).map fun c => (c.1 - r.addr, c.2)

/-- Copies an image into the current banks (R378). -/
def loadImage (s : State) (f : Nat) (j : Job) (img : Memory) : State :=
  match paramRegion s f with
  | none => s
  | some r =>
    let s1 := (bankRanges j).foldl (fun s x => zeroRange s (r.addr + x.1) x.2) s
    img.foldl (fun s c => storeBytes s (r.addr + c.1) [c.2]) s1

/-- The device whose far memory holds level 1 of this one: the next t, or the next d when T = 1 (Table 11.5). -/
def partnerOf (j : Job) (c : Coord) : Option Coord :=
  if 1 < j.lengths.t then some { c with t := (c.t + 1) % j.lengths.t }
  else if 1 < j.lengths.d then some { c with d := (c.d + 1) % j.lengths.d }
  else none

/-- The member whose level 1 this device holds (Table 11.5). -/
def wardOf (j : Job) (c : Coord) : Coord :=
  if 1 < j.lengths.t then { c with t := (c.t + j.lengths.t - 1) % j.lengths.t } else { c with d := (c.d + j.lengths.d - 1) % max 1 j.lengths.d }

/-- Body of a chunk: step, offset in the parameter region, the coordinate whose state it is, then the bytes (log 55). The offsets
`recordOffset` and `scalarOffset` carry the step record and the job's scalars instead. -/
def chunkBody (step off : Nat) (who : Coord) (b : Bytes) : Bytes := natLE 8 step ++ natLE 8 off ++ coordBytes who ++ zeros 4 ++ b

def recordOffset : Nat := 2 ^ 64 - 1
def scalarOffset : Nat := 2 ^ 64 - 2

/-- The step record (Table 11.8). -/
def recordBytes (c : Chrysalis) : Bytes :=
  let r := c.record
  let b := natLE 8 r.step ++ fit 16 c.seed ++ natLE 4 r.version ++ natLE 4 c.planVersion ++ natLE 8 r.optStep ++ natLE 1 r.lsExp ++ natLE 1 c.dLen
    ++ zeros 2 ++ natLE 4 r.cleanRun ++ natLE 8 c.stopBeat ++ zeros 8 ++ fit 64 c.planDigest
    ++ fit 2048 ((c.cursors.map fun x => natLE 8 x.1 ++ natLE 1 (b2n x.2) ++ zeros 7).flatten)
  b ++ sha512 b

/-- A chrysalis with the fields of a step record; the current bank follows from the version, which counts the commits that switched it. -/
def withRecord (c : Chrysalis) (b : Bytes) : Chrysalis :=
  { c with record := { c.record with step := rd b 0 8, version := rd b 24 4, optStep := rd b 32 8, lsExp := rd b 40 1, cleanRun := rd b 44 4,
                                     bank := rd b 24 4 % 2 },
           seed := slice b 8 16, planVersion := rd b 28 4, dLen := rd b 41 1, stopBeat := rd b 48 8, planDigest := slice b 64 64,
           cursors := (List.range (rd b 41 1)).map fun i => (rd b (128 + 16 * i) 8, bit (rd b (136 + 16 * i) 1) 0) }

/-- p1 and p2 of the update groups, then the bias registers: the part of S outside the banks (R363). -/
def scalarBytes (r : Committed) : Bytes :=
  (r.products.map fun p => natLE 4 p.1.toNat ++ natLE 4 p.2.toNat).flatten ++ (r.biases.map fun b => (b.2.map fun w => natLE 4 w.toNat).flatten).flatten

/-- The state of a chrysalis: the current banks at their laid-out size, then scalars and biases (R363; log 177). -/
def stateOf (j : Job) (c : Chrysalis) : Bytes :=
  fit c.stateBytes (((bankRanges { j with committed := c.record }).map fun r => memRead c.image r.1 r.2).flatten ++ scalarBytes c.record)

/-- The whole image: header, manifest, state (R372). -/
def imageOf (j : Job) (c : Chrysalis) : Bytes :=
  let state := stateOf j c
  let manifest := manifestOf state
  imageHeader j.coord c.planVersion c.planDigest c.stateBytes (recordBytes c) manifest ++ manifest ++ state

/-- A chrysalis as a level-2 drive stores it under the function's key (R481). -/
def driveBytes (w : Bytes) (j : Job) (c : Chrysalis) : Bytes :=
  sealImage (imageDesc j.coord c.record.step c.stopBeat c.stateBytes w) w (imageOf j c)

/-- Bias registers from their words, layer by layer. -/
def biasesFrom (b : Bytes) : Nat → List (Nat × List F32) → List (Nat × List F32)
  | _, [] => []
  | off, l :: r =>
    (l.1, (List.range l.2.length).map fun i => BitVec.ofNat 32 (rd b (off + 4 * i) 4)) :: biasesFrom b (off + 4 * l.2.length) r

/-- Committed values with p1, p2 and the biases of such bytes. -/
def scalarsFrom (c : Committed) (b : Bytes) : Committed :=
  let n := c.products.length
  { c with products := (List.range n).map fun i => (BitVec.ofNat 32 (rd b (8 * i) 4), BitVec.ofNat 32 (rd b (8 * i + 4) 4)),
           biases := biasesFrom b (8 * n) c.biases }

def withScalars (c : Chrysalis) (b : Bytes) : Chrysalis := { c with record := scalarsFrom c.record b }

/-- Splits bytes into runs of the lengths of ranges, each with its offset, and gives the bytes that follow them. -/
def cutRanges : List (Nat × Nat) → Bytes → List (Nat × Bytes) × Bytes
  | [], b => ([], b)
  | r :: t, b => let (l, rest) := cutRanges t (b.drop r.2); ((r.1, b.take r.2) :: l, rest)

/-- A chrysalis with header, scalars and banks of its image (R372, R378). -/
def withImage (j : Job) (c : Chrysalis) (b : Bytes) : Chrysalis :=
  let c1 := withRecord c (imageRecord b)
  let (l, rest) := cutRanges (bankRanges { j with committed := c1.record }) (imageState b)
  { withScalars c1 rest with image := l.foldl (fun m x => memWrite m x.1 x.2) ([] : Memory), stateBytes := rd b 80 8, level2 := true }

/-- The chrysalis of a stored level-2 image that is complete: its record now, its banks when it is restored (R481). -/
def driveChrysalis (x : FnSt) (com : Committed) (b : Bytes) : Option Chrysalis :=
  (driveImage x (descStep b) (descStop b)).map fun img =>
    { withRecord { record := com, seed := [], planVersion := 0, planDigest := [], dLen := 0, stopBeat := 0, stateBytes := descSize b, cursors := [],
                   image := [], level0 := false, level1 := false, level2 := true, level3 := false, l1Slot := 0 } (imageRecord img)
      with planVersion := rd img 12 4 }

/-- A chunk of this device's own coordinate, from the device that holds its image (R376, R381). -/
def takeOwnChunk (j : Job) (step off : Nat) (b : Bytes) : Job :=
  let fresh : Chrysalis := { record := { j.committed with step }, seed := j.hdr.seed, planVersion := 0, planDigest := [], dLen := j.lengths.d, stopBeat := 0,
                             stateBytes := deviceState j, cursors := [], image := [], level0 := false, level1 := true, level2 := false, level3 := false, l1Slot := 0 }
  let put (c : Chrysalis) : Chrysalis :=
    if off = recordOffset then withRecord c b else if off = scalarOffset then withScalars c b else { c with image := memWrite c.image off b }
  if j.chrysalises.any fun c => decide (c.record.step = step) then
    { j with chrysalises := j.chrysalises.map fun c => if c.record.step = step then put c else c }
  else { j with chrysalises := put fresh :: j.chrysalises }

/-- One chunk of a level-1 copy, sent to the partner (R369). -/
def chunkWork (x : SliceCtx) (level off len : Nat) : List Effect :=
  if level ≠ 1 ∨ !x.j.l1Busy then []
  else match x.j.chrysalises.head?, partnerOf x.j x.j.coord with
    | some c, some dst =>
      (portsTo x.s x.j dst).map fun p => sendEffect x.j x.f 4 p dst (chunkBody c.record.step off x.j.coord (memRead c.image off len))
    | _, _ => []

/-- Takes a chunk: of this coordinate's own image, or of the level 1 that this device keeps for another (R364, R369, R381). -/
def takeChunk (s : State) (f : Nat) (item : Bytes) : State :=
  setJob s f fun j =>
    let step := rd item 0 8
    let put (p : PartnerImage) : PartnerImage := { p with image := memWrite p.image (rd item 8 8) (item.drop 24) }
    if coordOf item 16 = j.coord then takeOwnChunk j step (rd item 8 8) (item.drop 24)
    else if j.partner.any fun p => decide (p.step = step) then
      { j with partner := j.partner.map fun p => if p.step = step then put p else p }
    else
      let slots := max 1 j.l1Slots
      let slot := match j.partner.head? with | some p => (p.slot + 1) % slots | none => 0
      { j with partner := put ⟨step, slot, [], false⟩ :: j.partner.filter fun p => !decide (p.slot = slot) }

/-! ### Export records (R282 to R285, R432, R433) -/

/-- A record: the header of Table 8.12 and its body. -/
def exportRecord (j : Job) (type part tensor step offset : Nat) (body : Bytes) : Bytes :=
  natLE 1 type ++ natLE 1 part ++ zeros 2 ++ coordBytes j.coord ++ natLE 4 body.length ++ natLE 4 tensor ++ natLE 8 step
    ++ natLE 8 offset ++ body

/-- Bytes of a word of a part: FP32 values, split masters and biases 4, BF16 weights and moments 2 (R282). -/
def wordWidth (j : Job) (p : ParamEntry) (part : Nat) : Nat :=
  if part = 0 then (if j.hdr.weightMode = 0 then 4 else 2)
  else match groupOp j p with
    | some o => if part < 3 && updBf16 o && decide (updFamily o < 3) then 2 else 4
    | none => 4

/-- Words of a part of a tensor's owned shard in a bank (R282). -/
def exportWords (m : Memory) (j : Job) (region : Nat) (p : ParamEntry) (part bank : Nat) : List Nat :=
  let n := (ownRows j p).2 * p.cols
  let read (base w k : Nat) : List Nat := (List.range k).map fun e => leNat (memRead m (base + w * e) w)
  if part = 0 then
    let base := weightBank region p bank
    if j.hdr.weightMode = 0 then (List.range n).map fun e => (masterAt m j p base e).toNat else read base 2 n
  else match groupOp j p with
    | none => []
    | some o =>
      let base := stateBank region p bank + partOffset (stateParts j o p) (part - 1)
      if paramFrozen p ∨ (stateParts j o p).length < part then []
      else if isFactored o p then read base 4 (if part = 1 then (ownRows j p).2 else p.cols)
      else read base (wordWidth j p part) n

/-- Words of a record at most, so that its length fits in 32 bits (log 169). -/
def recordWords : Nat := 2 ^ 26

/-- A run of n words whose first has a logical index, cut into records: logical index, first word, words. -/
def cutRun (fuel logical first n : Nat) : List (Nat × Nat × Nat) :=
  match fuel with
  | 0 => []
  | k + 1 =>
    if n = 0 then []
    else let m := min n recordWords; (logical, first, m) :: cutRun k (logical + m) (first + m) (n - m)

/-- The records of a part of an owner's shard: words that follow each other in the whole tensor; a shard that is cut along the columns has a run
per row (R282). -/
def exportRuns (j : Job) (p : ParamEntry) (part n : Nat) : List (Nat × Nat × Nat) :=
  let c := shardCorner j p
  let factored := match groupOp j p with | some o => isFactored o p && decide (part ≠ 0) | none => false
  let cut (l e k : Nat) := cutRun (k / recordWords + 1) l e k
  if part = 3 then cut 0 0 n
  else if factored then cut (if part = 1 then c.1 else c.2.1) 0 n
  else if c.2.2 = p.cols then cut (shardIndex j p 0) 0 n
  else (List.range (ownRows j p).2).flatMap fun i => cut (shardIndex j p (i * p.cols)) (i * p.cols) p.cols

/-- Runs of equal flags, in order. -/
def flagRuns : List (Bool × Nat) → List (Bool × List Nat)
  | [] => []
  | (b, v) :: r =>
    match flagRuns r with
    | (c, vs) :: t => if b = c then (b, v :: vs) :: t else (b, [v]) :: (c, vs) :: t
    | [] => [(b, [v])]

/-- The difference encoding of new words against old ones (R283). -/
def diffBody (w : Nat) (new old : List Nat) : Bytes :=
  let xs := (new.zip old).map fun p => (decide (p.1 ≠ p.2), p.1 ^^^ p.2)
  ((flagRuns xs).map fun r =>
    if r.1 then natLE 4 (2 ^ 31 + r.2.length) ++ (r.2.map (natLE w)).flatten else natLE 4 r.2.length).flatten

/-- Writes a record into the area of the SNAP.EXPORT in flight: the bridge to the host, another owner by an item of class 5.
A full area ends the command (R432, R433). -/
def writeRecord (s : State) (f : Nat) (rec : Bytes) : State :=
  match jobAt s f with
  | none => s
  | some j =>
    match j.exporting with
    | none => s
    | some e =>
      match (s.mbx.flights.find? fun x => decide (x.cmd.req = e.req)) with
      | none => setJob s f fun j => { j with exporting := none, exportGap := true }
      | some fl =>
        let log (s : State) : State := setJob s f fun j =>
          { j with exporting := j.exporting.map fun e => { e with log := e.log ++ rec, written := e.written + rec.length } }
        match fl.bridge with
        | some b =>
          let ports := match routeTo s b with | some p => [portIndex p] | none => []
          log (ports.foldl (fun s p => sendItem s p (natLE 1 5 ++ natLE 1 (physHops s b) ++ natLE 1 (f + 1) ++ zeros 1 ++ coordBytes (itemCoord s f b)
            ++ natLE 4 rec.length ++ zeros 4) rec) s)
        | none =>
          if e.len < fl.moved + rec.length then
            let s1 := setJob s f fun j => { j with exporting := none, exportGap := true }
            answerReq s1 e.req ⟨0, 1, 0, natLE 8 (j.lastEnd.getD (2 ^ 64 - 1)) ++ natLE 8 fl.moved, none⟩
          else
            let s1 := hostWrite s (e.addr + fl.moved) rec
            let up (x : Flight) : Flight := { x with moved := x.moved + rec.length }
            log { s1 with mbx := { s1.mbx with flights := s1.mbx.flights.map fun x => if x.cmd.req = e.req then up x else x } }

/-- Sends a GAP record; it counts only where it has been written (R281, R284). -/
def sendGap (s : State) (f step : Nat) : State :=
  match jobAt s f with
  | none => s
  | some j =>
    let s1 := writeRecord s f (exportRecord j 4 0 0 step 0 (natLE 8 (j.lastEnd.getD (2 ^ 64 - 1))))
    setJob s1 f fun j =>
      if j.exporting.isNone then { j with exportGap := true }
      else { j with exportGap := true, exporting := j.exporting.map fun e => { e with mode := 0, gapSent := true },
                    stats := { j.stats with exportGaps := sat32 (j.stats.exportGaps + 1) } }

/-- Whether an update, or a level-1 chunk that takes the slot, ends the records under way: differences read both banks, whole shards only the
bank that was current when they began (R284). -/
def exportBroken (j : Job) (e : ExportInfo) (byUpdate : Bool) : Bool :=
  decide (e.mode ≠ 0) && (!byUpdate || decide (e.mode = 1) || decide (e.bank = 1 - j.committed.bank))

/-- Stops the records of a step and sends GAP (R284). -/
def exportStop (s : State) (f : Nat) (byUpdate : Bool) : State :=
  match jobAt s f with
  | none => s
  | some j => match j.exporting with
    | some e => if exportBroken j e byUpdate then sendGap s f e.step else s
    | none => s

/-- Whether the interval of level 3 has come to its end (R285, R371). -/
def intervalDue (s : State) (j : Job) : Bool :=
  decide (j.hdr.policy.l3IntervalMs ≠ 0) && decide (j.lastExport + beatsOf s (j.hdr.policy.l3IntervalMs * 1000000) ≤ s.eng.beat)

/-- The records that fall due at a slot: none, 1 differences, 2 a whole shard in their place, 3 a set of shards (R283 to R285). Under mode 1 every
step that is committed and not skipped is due once; under mode 2 the shards are due at the interval, and at once for a command that asks for a set
or a policy without an interval (log 169). -/
def exportDue (s : State) (j : Job) : Nat :=
  let asked := match j.exporting with | some e => decide (e.what = 1) || decide (j.hdr.policy.l3IntervalMs = 0) | none => false
  let skipped := match j.history.head? with | some h => h.skipped | none => true
  let wants := match j.exporting with | some e => decide (e.what = 1) | none => false
  if j.committed.step = 0 then 0
  else if j.hdr.exportMode = 2 then (if asked || intervalDue s j then 3 else 0)
  else if j.hdr.exportMode ≠ 1 then 0
  else if wants then 3
  else if skipped || decide (j.lastEnd = some (j.committed.step - 1)) then 0
  else if j.exportGap then 2 else 1

/-- The opening of a step's records: what falls due without a SNAP.EXPORT is a gap (R283 to R285, R433). -/
def exportOpen (s : State) (f : Nat) : State :=
  match jobAt s f with
  | none => s
  | some j =>
    let c := j.committed
    let due := exportDue s j
    let s0 := if due = 3 then setJob s f fun j => { j with lastExport := s.eng.beat } else s
    if due = 0 then s
    else match j.exporting with
      | none => setJob s0 f fun j => { j with exportGap := true }
      | some e =>
        let s1 := if j.exportGap && !e.gapSent then sendGap s0 f (c.step - 1) else s0
        let s2 := setJob s1 f fun j => { j with exporting := j.exporting.map fun e => { e with mode := due, step := c.step - 1, log := [], bank := c.bank } }
        writeRecord s2 f (exportRecord j 1 0 0 (c.step - 1) 0 (natLE 4 c.version ++ natLE 1 c.lsExp ++ zeros 3 ++ natLE 8 c.optStep))

/-- The bank of a tensor that an export reads as the committed one; a frozen tensor has only bank 0 (R265). -/
def exportBank (e : ExportInfo) (p : ParamEntry) : Nat := if paramFrozen p then 0 else e.bank

/-- A part's words as committed, and as they were before the commit: those of a frozen tensor do not change (R283). -/
def exportPair (m : Memory) (j : Job) (region : Nat) (p : ParamEntry) (part : Nat) (e : ExportInfo) : List Nat × List Nat :=
  if part = 3 then
    let words (l : List (Nat × List F32)) : List Nat := (lookupD l p.layer []).map (·.toNat)
    let new := words j.committed.biases
    (new, (List.range new.length).map fun i => (words j.prevBiases).getD i 0)
  else
    let b := exportBank e p
    (exportWords m j region p part b, exportWords m j region p part (if paramFrozen p then b else 1 - b))

/-- The records of one part of a tensor's shard (R282, R283, R285). -/
def exportPart (s : State) (f param part : Nat) : State :=
  match (jobAt s f).bind fun j => (paramAt j param).bind fun p => j.exporting.map fun e => (j, p, e) with
  | none => s
  | some (j, p, e) =>
    match paramRegion s f with
    | none => s
    | some r =>
      if e.mode = 0 ∨ (part ≠ 0 ∧ j.hdr.exportState = 0) ∨ (paramRepT p ∧ j.coord.t ≠ 0) then s
      else
        let (new, old) := exportPair s.st.mem j r.addr p part e
        let w := wordWidth j p part
        let type := if e.mode = 1 then 2 else if e.mode = 3 then 6 else 3
        (exportRuns j p part new.length).foldl (fun s q =>
          let mine (l : List Nat) : List Nat := (l.drop q.2.1).take q.2.2
          let body := if type = 2 then diffBody w (mine new) (mine old) else ((mine new).map (natLE w)).flatten
          writeRecord s f (exportRecord j type part p.tensorId e.step q.1 body)) s

/-- The end of a step's records: their digest, and the completion of the command (R283, R371, R432). -/
def exportClose (s : State) (f : Nat) : State :=
  match jobAt s f with
  | none => s
  | some j =>
    match j.exporting with
    | none => s
    | some e =>
      if e.mode = 0 then s
      else
        let s1 := writeRecord s f (exportRecord j 5 0 0 e.step 0 (sha512 e.log))
        match (jobAt s1 f).bind (·.exporting) with
        | none => s1
        | some e1 =>
          let s2 := setJob s1 f fun j =>
            { j with lastEnd := some e.step, exportGap := false, exporting := none,
                     chrysalises := j.chrysalises.map fun c => if c.record.step = e.step + 1 then { c with level3 := true } else c }
          answerReq s2 e.req (replyOk (natLE 8 e.step ++ natLE 8 e1.written))

/-- What an export slice does when it finishes; an update slice or a level-1 chunk takes the slot of differences (R284). -/
def exportWork (s : State) (f : Nat) (w : Work) : State :=
  match w with
  | .exportBegin => exportOpen s f
  | .exportRecords param part => exportPart s f param part
  | .exportEnd => exportClose s f
  | .chrysalisChunk _ _ _ => exportStop s f false
  | _ => exportStop s f true

end Sys2Proof.Machine
end

