-- ==== Sys2Proof/Machine/Work.lean ====
section
/-! DEFINITION. What a slice computes from the state at its start (spec/02 R25, R45, spec/05 Table 5.3, spec/06 R191 to R198). -/
namespace Sys2Proof.Machine
open Sys2Proof

/-- The logical core whose registers a slice uses; the other resources use none. -/
def resCore : Res → Nat
  | .core n => n
  | _ => 0

/-- The job as a slice of a step sees it: the step after the running one has its own loss scale (R254). -/
def jobFor (j : Job) (step : Nat) : Job := if step = j.committed.step then j else { j with sigma := j.committed.lsExp }

def sliceCtx (s : State) (f : Nat) (j : Job) (step : Nat) (sl : Slice) : SliceCtx :=
  { s, f, j := jobFor j step, step, mb := sl.mb, core := resCore sl.res }

/-! ### Operators -/

/-- A tile, with its rows of an intermediate that its kernel holds (R104, R161). -/
def tileKernel (x : SliceCtx) (op b mt nt b0 b1 rowBase colBase : Nat) : List Effect :=
  match opNth x.j op with
  | none => []
  | some o =>
    let g := matmulGeom o b
    let y := if flagTransA o then withInside x op 0 (refAt o 0).rows else withInside x op (g.a0 + 128 * mt) (tileSpan g.m mt)
    outside (tileWork y op b mt nt b0 b1 rowBase colBase)

/-- Rows that a vector slice needs of an intermediate: those of the slice, or every row for the slice that ends a NORM backward. -/
def insideRows (o : OpD) (r0 n : Nat) : Nat × Nat :=
  let m := (refAt o 0).rows
  if o.cls = 4 ∧ flagBack o ∧ m ≤ r0 + n then (0, m) else (r0, n)

/-- Rows of a vector-class operator by its class (Table 5.4). -/
def rowsOf (x : SliceCtx) (op : Nat) (o : OpD) (r0 n : Nat) : List Effect :=
  let back := flagBack o
  if o.cls = 4 then (if back then normBackward x op o r0 n else normForward x op o r0 n)
  else if o.cls = 5 then elementwise x op o r0 n
  else if o.cls = 6 then (if back then routerBackward x op o r0 n else routerForward x op o)
  else if o.cls = 8 then combineRows x op o r0 n
  else if o.cls = 9 then lossRows x op o r0 n ++ insideEyes x op r0 n
  else if o.cls = 0x0A then (if back then embedBackward x op o r0 n else embedForward x op o r0 n)
  else if o.cls = 0x0B then quantRows x op o r0 n
  else if o.cls = 0x0C then rotateRows x op o r0 n
  else if o.cls = 0x0D then randomRows x op o r0 n
  else []

/-- Rows of a vector-class operator; a kernel's intermediate stores nothing (R161). -/
def rowsWork (x : SliceCtx) (op r0 n : Nat) : List Effect :=
  match opNth x.j op with
  | none => []
  | some o => let k := insideRows o r0 n; outside (rowsOf (withInside x op k.1 k.2) op o r0 n)

/-- One head; a padded head runs no work (R156, R158, R237). -/
def headWork (x : SliceCtx) (op h : Nat) : List Effect :=
  match opNth x.j op with
  | none => []
  | some o =>
    if attHeads o ≤ globalHead x.j o h then [] else if flagBack o then attBackward x op o h else attForward x op o h

/-! ### Moves (R191 to R194) -/

def moveWork (x : SliceCtx) (src dst len : Nat) : List Effect := [.mem dst (memRead x.mem src len)]

/-- A plain tensor of rows × cols at an address, as a move sees it. -/
def bareRef (a rows cols fmt : Nat) : TRef := ⟨a, 0, rows, cols, 0, fmt, 0, 0⟩

/-- A transposing move of one block: element (r, k) becomes element (k, r), its bits unchanged; an edge block as it stands (R192). -/
def transposeWork (x : SliceCtx) (src dst rows cols fmt br bk : Nat) : List Effect :=
  (List.range (tileSpan cols bk)).map fun k =>
    rowWrite (bareRef dst cols rows fmt) (128 * bk + k) (128 * br)
      ((List.range (tileSpan rows br)).map fun i => elemRaw x.mem (bareRef src rows cols fmt) (128 * br + i) (128 * bk + k))

/-- A prefetch from the bank of the micro-batch's version (R194, R266). -/
def prefetchWork (x : SliceCtx) (param off dst len : Nat) : List Effect :=
  match paramAt x.j param, paramRegion x.s x.f with
  | some p, some r => moveWork x (weightBank r.addr p (bankOf x.j p x.step x.mb) + off) dst len
  | _, _ => []

/-- A layer's router biases into cluster SRAM (R205). -/
def biasWork (x : SliceCtx) (layer dst : Nat) : List Effect :=
  [.mem dst (((lookupD x.j.committed.biases layer []).map fun b => natLE 4 b.toNat).flatten)]

/-! ### Items of class 3 between owners and shards (R163, R259; log 56) -/

/-- The body of an item of class 3, with the micro-batch and the step that it serves. -/
def itemBody (x : SliceCtx) (tensor part kind row : Nat) (data : Bytes) : Bytes :=
  natLE 4 tensor ++ natLE 1 part ++ natLE 1 kind ++ natLE 2 x.mbIx ++ natLE 8 row ++ coordBytes x.j.coord ++ natLE 4 x.step ++ data

/-- Bytes of a parameter's bank of the micro-batch's version for the device that prefetches them from here, to store at an address of its own
(R194, R266; log 56). -/
def sendParamWork (x : SliceCtx) (param off len port : Nat) (dst : Coord) (daddr : Nat) : List Effect :=
  match paramAt x.j param, paramRegion x.s x.f with
  | some p, some r =>
    [sendEffect x.j x.f 3 port dst (itemBody x p.tensorId 0 4 daddr (memRead x.mem (weightBank r.addr p (bankOf x.j p x.step x.mb) + off) len))]
  | _, _ => []

/-- Own soft-maximum statistics of rows for another shard of the vocabulary (R163). -/
def lossStatsWork (x : SliceCtx) (op r0 n port : Nat) (dst : Coord) : List Effect :=
  match opNth x.j op with
  | none => []
  | some o =>
    let y := withInside x op r0 n
    let o := (opNth y.j op).getD o
    (List.range n).map fun i =>
      let st := onlineStats (rowOf y (refAt o 0) (r0 + i))
      let z := lossZ y o (r0 + i)
      sendEffect x.j x.f 3 port dst (itemBody x (refAt o 0).tensorId x.j.coord.t 1 (r0 + i)
        (f32Bytes st.1 ++ f32Bytes st.2 ++ f32Bytes (z.getD vZero) ++ natLE 4 (b2n z.isSome)))

/-- The tensor, its UPDATE descriptor and its shard in the holding buffer. -/
def heldParam (j : Job) (param : Nat) : Option (ParamEntry × OpD × Shard) :=
  (paramAt j param).bind fun p => (groupOp j p).bind fun o => (j.holding.find? fun h => decide (h.tensor = p.tensorId)).map fun h => (p, o, h)

/-- The owner's rows of q that belong to a row block that starts on another owner (R259). -/
def factorRowsWork (x : SliceCtx) (param port : Nat) (dst : Coord) : List Effect :=
  match heldParam x.j param with
  | none => []
  | some (p, o, h) =>
    let (r0, n) := ownRows x.j p
    ((List.range n).filter fun i => decide (r0 + i < roundUp r0 128)).map fun i =>
      sendEffect x.j x.f 3 port dst (itemBody x p.tensorId 0 2 (r0 + i) (((factorQ x o p h i).map f32Bytes).flatten))

/-- The owner's column partials, one item per row block (R259). -/
def factorBlocksWork (x : SliceCtx) (param port : Nat) (dst : Coord) : List Effect :=
  match heldParam x.j param with
  | none => []
  | some (p, o, h) =>
    ((List.range (ceilDiv p.rows 128)).filter (ownsBlock x.j p)).map fun b =>
      sendEffect x.j x.f 3 port dst (itemBody x p.tensorId 0 3 b (((factorBlock x o p h b).map f32Bytes).flatten))

/-! ### All slices -/

/-- The contribution of the collective that a descriptor names (R249, R287, R299). -/
def collectiveWork (x : SliceCtx) (op : Nat) (expert : Option Nat) : List Effect :=
  match opNth x.j op with
  | some o => if o.cls = 0x0F then contributeWork x op o expert else if o.cls = 0x10 then gatherOwn x o else []
  | none => []

/-- One stage of a collective: a gather by its descriptor, a reduction else (R294, R298, R299). -/
def stageWork (x : SliceCtx) (op axis stage : Nat) (leg : Bool) (dst : Coord) (port e0 n : Nat) : List Effect :=
  match opNth x.j op with
  | some o => if o.cls = 0x10 then gatherStage x o axis stage dst port e0 n else reduceStage x op axis stage leg dst port e0 n
  | none => reduceStage x op axis stage leg dst port e0 n

/-- A range's state goes into the update cache (R263). -/
def stageStateWork (x : SliceCtx) (param e0 n : Nat) : List Effect :=
  match paramAt x.j param, paramRegion x.s x.f with
  | some p, some r => (match groupOp x.j p with | some o => [.staged (stageRange x o p r.addr e0 n)] | none => [])
  | _, _ => []

/-- What the check core's copy of a tile leaves: its sums, to be compared (R354, R355). -/
def checkOnly (es : List Effect) : List Effect := es.filterMap fun e => match e with | .checkSum c => some (.compareSum c) | _ => none

/-- The check core's copy of a tile; the slot stays unused in a step where the tile is no sentinel (R353 to R355). -/
def sentinelWork (x : SliceCtx) (op b mt nt rowBase colBase : Nat) : List Effect :=
  match opNth x.j op with
  | none => []
  | some o => checkOnly (tileKernel x op b mt nt 0 (ceilDiv (matmulGeom o b).k 32) rowBase colBase)

/-- The words that an update slice stores, as the CRC that engine k and engine k XOR 2 form over them when its range is duplicated (R357). -/
def dupSums (x : SliceCtx) (r : Res) (param e0 n : Nat) (es : List Effect) : List Effect :=
  match r, paramAt x.j param with
  | .updateEngine k, some p =>
    if !meetsDuplicate x.j x.step e0 n then []
    else
      let crc := crc64 (es.map fun e => match e with | .mem _ b => b | _ => []).flatten
      ([k, k ^^^ 2] : List Nat).map fun e => .checkSum ⟨false, p.tensorId, e0, none, crc, e⟩
  | _, _ => []

/-- An update slice, with the sums of a duplicated range (R258, R259, R357). -/
def updateSlice (x : SliceCtx) (sl : Slice) (param e0 n : Nat) (factored : Bool) : List Effect :=
  let es := updateWork x sl param e0 n factored
  let all := match paramAt x.j param with | some p => if factored then (ownRows x.j p).2 * p.cols else n | none => n
  es ++ (if es.any fun e => match e with | .updated _ _ _ => true | _ => false then dupSums x sl.res param e0 all es else [])

/-- The effects of a slice. The check core's copy of a tile leaves only its sums; a return beat and an export slice form
their results when they finish. -/
def workEffects (x : SliceCtx) (sl : Slice) : List Effect :=
  match sl.work with
  | .tile op b mt nt b0 b1 rb cb => tileKernel x op b mt nt b0 b1 rb cb
  | .rows op r0 n => rowsWork x op r0 n
  | .head op h => headWork x op h
  | .groupedWindow _ _ _ => []
  | .move src dst len => moveWork x src dst len
  | .transposeMove src dst rows cols fmt br bk => transposeWork x src dst rows cols fmt br bk
  | .prefetch param off dst len => prefetchWork x param off dst len
  | .sendParam param off len port dst daddr => sendParamWork x param off len port dst daddr
  | .loadScales core column addr n => scaleWork x core column addr n
  | .loadCodebook core bank addr fill a b => bookWork x core bank addr fill a b
  | .accumulateGrad param src n dst round last expert => accumulateWork x param src n dst round last expert
  | .contribute op expert => collectiveWork x op expert
  | .sendStage op axis stage leg dst port e0 n => stageWork x op axis stage leg dst port e0 n
  | .gatherCopy op param => gatherCopyWork x op param
  | .dispatch layer mb round b port => dispatchWork x sl.backward layer mb round b port
  | .returnRows _ _ _ _ _ => [.late sl]
  | .sumLoads layer => [.contribution (loadsOp layer) ((ringLoads x.j layer).map fun (n : Nat) => ⟨false, 0, vInt n⟩)]
  | .stageState param e0 n => stageStateWork x param e0 n
  | .update param e0 n => updateSlice x sl param e0 n false
  | .updateFactored param => updateSlice x sl param 0 0 true
  | .factorRows param port dst => factorRowsWork x param port dst
  | .factorBlocks param port dst => factorBlocksWork x param port dst
  | .lossStats op r0 n port dst => lossStatsWork x op r0 n port dst
  | .normSum => [.contribution normOp [⟨false, 0, ownSquares x⟩]]
  | .clipFactor => (match x.j.normTotal with | some t => clipWork x (dec32 t) | none => [.defer sl])
  | .sentinel op b mt nt rb cb => sentinelWork x op b mt nt rb cb
  | .copyBiases layer dst => biasWork x layer dst
  | .exportBegin => [.exportNow sl.work]
  | .exportEnd => [.exportNow sl.work]
  | .exportRecords _ _ => [.exportNow sl.work]
  | .chrysalisChunk level off len => chunkWork x level off len ++ (if level = 1 && x.j.l1Busy then [.exportNow sl.work] else [])

/-- The results of a slice that forms them at its end (R226). -/
def lateEffects (x : SliceCtx) (sl : Slice) : List Effect :=
  match sl.work with
  | .returnRows layer mb round b port => returnWork x sl.backward layer mb round b port
  | _ => []

/-! ### Addresses that a slice reads (R173, R198; log 57) -/

/-- Bytes of rows r0 to r0 + n − 1 of a tensor, and of their scales. -/
def refSpan (r : TRef) (r0 n : Nat) : List (Nat × Nat) :=
  let k := min n (r.rows - r0)
  let sb := scaleBytes r.group r.cols
  let scales := if r.scaleAddr = 0 then [] else if sb = 0 then [(r.scaleAddr + 4 * r0, 4 * k)] else [(r.scaleAddr + sb * r0, sb * k)]
  if r.addr = 0 then [] else (r.addr + rowBytes r.fmt r.cols * r0, rowBytes r.fmt r.cols * k) :: scales

def wholeRef (r : TRef) : List (Nat × Nat) := refSpan r 0 r.rows

/-- Every input of an operator, its bias included. -/
def opReads (o : OpD) : List (Nat × Nat) :=
  ((o.refs.take o.nIn).flatMap wholeRef) ++ (if o.biasAddr = 0 then [] else [(o.biasAddr, (if o.biasFmt = 1 then 2 else 4) * (outAt o 0).cols)])

/-- Rows of the operands of a MATMUL tile; a transposed or shared operand is read over its whole reduction. -/
def tileReads (o : OpD) (b mt nt : Nat) : List (Nat × Nat) :=
  let g := matmulGeom o b
  let a (im : Bool) := if flagTransA o then refSpan (planeA o im) g.a0 g.k else refSpan (planeA o im) (g.a0 + 128 * mt) (tileSpan g.m mt)
  let c (im : Bool) := if flagTransB o then refSpan (planeB o im) g.b0 g.k else refSpan (planeB o im) (g.b0 + 128 * nt) (tileSpan g.n nt)
  a false ++ c false ++ (if flagComplex o then a true ++ c true else [])
    ++ (if o.biasAddr = 0 then [] else [(o.biasAddr + (if o.biasFmt = 1 then 256 else 512) * nt, (if o.biasFmt = 1 then 2 else 4) * tileSpan g.n nt)])

/-- Rows of the operands of an item of a GROUPED_MATMUL (R520). -/
def itemReads (o : OpD) (rows : List Nat) (e mt nt : Nat) : List (Nat × Nat) :=
  let g := groupedGeom o rows e
  let a (im : Bool) := if flagTransA o then refSpan (planeA o im) g.a0 g.k else refSpan (planeA o im) (g.a0 + 128 * mt) (tileSpan g.m mt)
  let b (im : Bool) :=
    let r := planeB o im
    let r' := { r with addr := r.addr + g.bOff, scaleAddr := if r.scaleAddr = 0 then 0 else r.scaleAddr + g.bScaleOff,
                       rows := if flagTransA o then r.rows else if flagTransB o then g.k else g.n }
    if flagTransA o || flagTransB o then refSpan r' g.b0 g.k else refSpan r' (128 * nt) (tileSpan g.n nt)
  a false ++ b false ++ (if flagComplex o then a true ++ b true else [])
    ++ (if o.biasAddr = 0 then [] else [(o.biasAddr + g.biasOff + (if o.biasFmt = 1 then 256 else 512) * nt, (if o.biasFmt = 1 then 2 else 4) * tileSpan g.n nt)])

/-- Rows r0 to r0 + n − 1 of the inputs as long as the operator's rows; shorter inputs are read whole. -/
def rowsReads (o : OpD) (r0 n : Nat) : List (Nat × Nat) :=
  let rows := max (refAt o 0).rows (outAt o 0).rows
  (o.refs.take o.nIn).flatMap fun r => if r.rows = rows then refSpan r r0 n else wholeRef r

/-- State and low halves that staging reads for a range (R263). -/
def stagingReads (x : SliceCtx) (param e0 n : Nat) : List (Nat × Nat) :=
  match paramAt x.j param, paramRegion x.s x.f with
  | some p, some r => (match groupOp x.j p with | some o => stagedSpans x.j o p r.addr e0 n | none => [])
  | _, _ => []

/-- High halves of a range in the current bank. -/
def highReads (x : SliceCtx) (param e0 n : Nat) : List (Nat × Nat) :=
  match paramAt x.j param, paramRegion x.s x.f with
  | some p, some r => [(weightBank r.addr p (currentBank x.j p) + 2 * e0, 2 * n)]
  | _, _ => []

/-- What an update reads from far memory: the high halves, and state that was parked (R263, R264). -/
def updateReads (x : SliceCtx) (param e0 n : Nat) : List (Nat × Nat) :=
  highReads x param e0 n ++ (match paramAt x.j param with
    | some p => (x.j.parked.filter fun r => decide (r.tensor = p.tensorId)).map fun r => (r.addr, r.len)
    | none => [])

/-- A shard's weights and, where they are exported, its state in the current bank. -/
def exportReads (x : SliceCtx) (param part : Nat) : List (Nat × Nat) :=
  match paramAt x.j param with
  | some p =>
    let n := (ownRows x.j p).2 * p.cols
    if part = 3 then [] else highReads x param 0 n ++ (if part = 0 && x.j.hdr.weightMode ≠ 0 then [] else stagingReads x param 0 n)
  | none => []

/-- Ranges that a slice reads from memory. -/
def sliceReads (x : SliceCtx) (sl : Slice) : List (Nat × Nat) :=
  let ofOp (op : Nat) (g : OpD → List (Nat × Nat)) : List (Nat × Nat) :=
    match opNth x.j op with | some o => g o ++ (insideOps x.j.ops op).flatMap opReads | none => []
  match sl.work with
  | .tile op b mt nt _ _ _ _ => ofOp op fun o => tileReads o b mt nt
  | .rows op r0 n => ofOp op fun o => if o.cls = 6 && !flagBack o then opReads o else let k := insideRows o r0 n; rowsReads o k.1 k.2
  | .head op _ => ofOp op opReads
  | .groupedWindow op _ _ => ofOp op fun o => [(opArg o 8 8, 4 * groupExperts o)]
  | .move src _ len => [(src, len)]
  | .transposeMove src _ rows cols fmt br _ => refSpan (bareRef src rows cols fmt) (128 * br) 128
  | .prefetch param off _ len =>
    (match paramAt x.j param, paramRegion x.s x.f with
     | some p, some r => [(weightBank r.addr p (bankOf x.j p x.step x.mb) + off, len)]
     | _, _ => [])
  | .sendParam param off len _ _ _ =>
    (match paramAt x.j param, paramRegion x.s x.f with
     | some p, some r => [(weightBank r.addr p (bankOf x.j p x.step x.mb) + off, len)]
     | _, _ => [])
  | .loadScales _ _ addr n => [(addr, 4 * min 4096 n)]
  | .loadCodebook _ _ addr _ _ _ => [(addr, 512)]
  | .accumulateGrad _ src n _ _ _ _ => [(src, 4 * n)]
  | .contribute op _ => ofOp op fun o => wholeRef (refAt o 0)
  | .sendStage op _ _ _ _ _ _ _ => ofOp op fun o => if o.cls = 0x10 then wholeRef (if gatherA2A o then refAt o 0 else outAt o 0) else []
  | .gatherCopy _ param =>
    (match paramAt x.j param, paramRegion x.s x.f with
     | some p, some r => [(weightBank r.addr p (bankOf x.j p x.step x.mb), 2 * (ownRows x.j p).2 * p.cols)]
     | _, _ => [])
  | .dispatch layer mb _ _ _ => wholeRef (tokenRef x.j layer mb sl.backward)
  | .stageState param e0 n => stagingReads x param e0 n
  | .update param e0 n => updateReads x param e0 n
  | .updateFactored param => (match paramAt x.j param with | some p => updateReads x param 0 ((ownRows x.j p).2 * p.cols) | none => [])
  | .lossStats op r0 n _ _ => ofOp op fun o => refSpan (refAt o 0) r0 n
  | _ => []

/-- Ranges that a slice reads when it forms its results at its end: the experts' results, or the banks that are exported (R198, R226, R283). -/
def lateReads (x : SliceCtx) (sl : Slice) : List (Nat × Nat) :=
  match sl.work with
  | .returnRows layer _ _ _ _ => wholeRef (expertOut x.j layer false) ++ (if sl.backward then wholeRef (expertOut x.j layer true) else [])
  | .exportRecords param part =>
    (match x.j.exporting with
     | some e =>
       let on (b : Nat) : SliceCtx := { x with j := { x.j with committed := { x.j.committed with bank := b } } }
       if e.mode = 0 then [] else exportReads (on e.bank) param part ++ (if e.mode = 1 then exportReads (on (1 - e.bank)) param part else [])
     | none => [])
  | _ => []

/-- Ranges that effects store. -/
def effectWrites (es : List Effect) : List (Nat × Nat) :=
  es.filterMap fun e => match e with | .mem a b => (if b.isEmpty then none else some (a, b.length)) | _ => none

/-- Whether a slice touches an address of no region (R173). -/
def touchesReserved (reads writes : List (Nat × Nat)) : Bool := (reads ++ writes).any fun r => !rangeExists r.1 r.2

/-- The first uncorrectable word that a slice meets: any that it reads, or one that it writes only in part (R198). -/
def meetsBad (s : State) (reads writes : List (Nat × Nat)) : Option Nat :=
  match reads.findSome? fun r => badIn s r.1 r.2 with
  | some a => some a
  | none => writes.findSome? fun r => badPartial s r.1 r.2

/-- Row of Table 6.6 of an address. -/
def rowOfAddr (a : Nat) : Nat := match regionOf a with | .near => 3 | .far => 5 | _ => 0

end Sys2Proof.Machine
end

