-- ==== Sys2Proof/Machine/DataPhase.lean ====
section
/-! DEFINITION. The data phase: which slices run in a beat, their effects, carries and overruns
(spec/02 R42, R43, R50 to R52, R63, R64; spec/05 R139 to R145; spec/08 R263 to R268). -/
namespace Sys2Proof.Machine
open Sys2Proof

/-! ### Applying effects -/

/-- A tile's eyespot enters its operator's summary; bits [31:29] of a backward product set the nonfinite flag (R132, R253). -/
def addEye (j : Job) (op t : Nat) (e : BitVec 32) : Job :=
  let l := if j.stats.eyes.any fun x => decide (x.op = op) then j.stats.eyes
           else j.stats.eyes ++ [⟨op, 0, 0xFFFFFFFF, 0, 0⟩]
  let back := match opNth j op with | some o => flagBack o | none => false
  let bad := back && decide (2 ^ 29 ≤ e.toNat)
  { j with stats := { j.stats with eyes := l.map fun x => if x.op = op then x.add t e else x }, nonfinite := j.nonfinite || bad,
           counts := updNth j.counts op fun c => { c with tiles := c.tiles + 1 } }

def setCore (s : State) (core : Nat) (g : CoreRegs → CoreRegs) : State :=
  { s with st := { s.st with cores := insertK s.st.cores core (g (lookupD s.st.cores core CoreRegs.init)) } }

/-- A load replaces the first entries of a bank (R91, R98). -/
def overlay {α : Type} (new old : List α) : List α := new ++ old.drop new.length

/-- Whether a staged range belongs to an update slice that has been deferred (R264). -/
def isParked (j : Job) (r : Staged) : Bool :=
  let of (param : Nat) (whole : Bool) (e0 n : Nat) : Bool := match paramAt j param with
    | some p => decide (p.tensorId = r.tensor) && (whole || overlaps e0 n r.e0 r.n)
    | none => false
  j.running.any fun x => !x.started && (match x.slice.work with
    | .update param e0 n => of param false e0 n
    | .updateFactored param => of param true 0 0
    | _ => false)

/-- A free place in the parking area, which follows the holding buffer (R264; log 53). -/
def parkPlace (j : Job) (n : Nat) : Option Nat :=
  j.planArea.bind fun a => findHole (a.1 + holdingBytes j) parkingBytes n (j.parked.map fun r => ⟨r.addr, r.len, false⟩)

/-- One displaced range goes to the parking area. -/
def parkOne (s : State) (f : Nat) (j : Job) (r : Staged) (a : Nat) : State :=
  setJob (storeBytes s a r.bytes) f fun _ =>
    { j with staged := j.staged.erase r, parked := j.parked ++ [⟨r.tensor, r.e0, r.n, a, r.bytes.length⟩],
             stats := { j.stats with parkedOverflow := sat32 (j.stats.parkedOverflow + 1) } }

/-- Staging wins over parked state, which goes to the parking area (R264); the fuel bounds the ranges that are displaced. -/
def spillParked (f : Nat) : Nat → State → State
  | 0, s => s
  | fuel + 1, s =>
    match jobAt s f with
    | none => s
    | some j =>
      if sumNat (j.staged.map (·.bytes.length)) ≤ cacheBytes s then s
      else match j.staged.find? (isParked j) with
        | none => s
        | some r => match parkPlace j r.bytes.length with
          | none => s
          | some a => spillParked f fuel (parkOne s f j r a)

/-- A range comes into the update cache; what it replaces goes (R263). -/
def stageIn (s : State) (f : Nat) (r : Staged) : State :=
  let same (q : Staged) : Bool := decide (q.tensor = r.tensor) && decide (q.e0 = r.e0) && decide (q.n = r.n)
  let s1 := setJob s f fun j => { j with staged := j.staged.filter (fun q => !same q) ++ [r] }
  match jobAt s1 f with
  | some j => spillParked f j.staged.length s1
  | none => s1

/-- Step counters: 0 `deferred_state`, 1 `late_holder`, 2 `parked_overflow`, 3 `export_gaps`. -/
def countStep (j : Job) (which : Nat) : Job :=
  let t := j.stats
  { j with stats := if which = 0 then { t with deferredState := sat32 (t.deferredState + 1) }
                    else if which = 1 then { t with lateHolder := sat32 (t.lateHolder + 1) }
                    else if which = 2 then { t with parkedOverflow := sat32 (t.parkedOverflow + 1) }
                    else { t with exportGaps := sat32 (t.exportGaps + 1) } }

/-- The range of an update is done: it leaves the update cache and the parking area (R270). -/
def updateDone (j : Job) (t e0 n : Nat) : Job :=
  let covers (tensor a k : Nat) : Bool := decide (tensor = t) && decide (e0 ≤ a) && decide (a + k ≤ e0 + n)
  { j with updated := (t, e0, n) :: j.updated, staged := j.staged.filter fun r => !covers r.tensor r.e0 r.n,
           parked := j.parked.filter fun r => !covers r.tensor r.e0 r.n }

/-- A tile's sum against its check core's: they leave the list, and a difference is the fault of R356. -/
def compareSums (s : State) (f : Nat) (c : CheckSum) : State :=
  match jobAt s f with
  | none => s
  | some j =>
    match j.checks.find? fun q => q.tile && decide (q.of = c.of) && decide (q.at_ = c.at_) && decide (q.mb = c.mb) with
    | none => s
    | some q =>
      let s1 := setJob s f fun j => { j with checks := j.checks.erase q }
      if q.crc = c.crc then s1 else mismatch s1 f 0x0202 (physCore s q.by_) (physCore s c.by_) true

/-- Applies one effect of a slice that served a step of function f. -/
def applyEffect (f step : Nat) (s : State) (e : Effect) : State :=
  match e with
  | .mem a b => storeBytes s a b
  | .send x => { s with fab := { s.fab with sent := s.fab.sent ++ [x] } }
  | .eye op t w => setJob s f (onStep step fun j => addEye j op t w)
  | .stats op nans infs sats others => setJob s f (onStep step fun j => addStats j op nans infs sats others)
  | .nonfinite => setJob s f (onStep step fun j => { j with nonfinite := true })
  | .scales core column vals =>
    setCore s core fun c => if column then { c with colScale := overlay vals c.colScale } else { c with rowScale := overlay vals c.rowScale }
  | .codebook core bank vals =>
    setCore s core fun c => if bank = 0 then { c with book0 := overlay vals c.book0 } else { c with book1 := overlay vals c.book1 }
  | .table core vals => setCore s core fun c => { c with table := vals }
  | .part p =>
    { s with st := { s.st with partials := p :: s.st.partials.filter fun q => !samePart p q } }
  | .dropPart p => { s with st := { s.st with partials := s.st.partials.filter fun q => !samePart p q } }
  | .routed layer mb counts distinct sel =>
    setJob s f fun j => if step = j.committed.step && j.cancelled.contains mb then j else openExchange j step layer mb counts distinct sel
  | .contribution op vals => startColl s f op vals
  | .accum k t vals => setJob s f fun j =>
    { j with accums := (k, t, vals) :: j.accums.filter fun a => !(decide (a.1 = k) && decide (a.2.1 = t)) }
  | .updated t e0 n => setJob s f fun j => updateDone j t e0 n
  | .staged r => stageIn s f r
  | .clip norm cf => setJob s f fun j => { j with gradNorm := norm, clipFactor := cf, clipKnown := true }
  | .count w => setJob s f (onStep step fun j => countStep j w)
  | .defer sl => setJob s f fun j => { j with running := j.running ++ [⟨sl, s.eng.beat + 1, step, false, false, []⟩] }
  | .late sl =>
    match jobAt s f with
    | none => s
    | some j =>
      (lateEffects (sliceCtx s f j step sl) sl).foldl (fun s e => match e with
        | .send x => { s with fab := { s.fab with sent := s.fab.sent ++ [x] } }
        | .stats op nans infs sats others => setJob s f (onStep step fun j => addStats j op nans infs sats others)
        | .nonfinite => setJob s f (onStep step fun j => { j with nonfinite := true })
        | _ => s) s
  | .exportNow w => exportWork s f w
  | .checkSum c => setJob s f fun j => { j with checks := c :: j.checks }
  | .compareSum c => compareSums s f c

def applyEffects (f step : Nat) (es : List Effect) (s : State) : State := es.foldl (applyEffect f step) s

/-- Whether a slice casts a weight gradient after its last window: it serves the whole step (R231, R251). -/
def castsGradient : Work → Bool
  | .accumulateGrad _ _ _ _ _ last _ => last
  | _ => false

/-- Whether a slice does not run because its micro-batch is cancelled; the cast of a weight gradient does (R231, R236). -/
def cancelledSlice (j : Job) (step : Nat) (sl : Slice) : Bool :=
  decide (step = j.committed.step) && !castsGradient sl.work && (match sl.mb with | some m => j.cancelled.contains m | none => false)

/-! ### Tags and holders (R266, R267) -/

/-- The parameter whose working copy the plan makes for a GATHER (R249). -/
def gatherParam (j : Job) (op : Nat) : Option Nat :=
  j.plan.bind fun p => p.slices.findSome? fun sl => match sl.work with | .gatherCopy o param => (if o = op then some param else none) | _ => none

/-- Whether elements e0 to e0 + n − 1 of a GATHER's output meet this device's own block (R299). -/
def sendsOwn (j : Job) (op e0 n : Nat) : Bool :=
  match opNth j op with
  | some o => let b := gatherBlock j o j.coord; let c := (outAt o 0).cols; o.cls = 0x10 && overlaps e0 n (b.1 * c) (b.2 * c)
  | none => false

/-- The parameter whose weight bank a slice reads for its micro-batch, or whose working copy it sends (R267). -/
def weightRead (j : Job) : Work → Option Nat
  | .prefetch param _ _ _ => some param
  | .sendParam param _ _ _ _ _ => some param
  | .gatherCopy _ param => some param
  | .sendStage op _ _ _ _ _ e0 n => if sendsOwn j op e0 n then gatherParam j op else none
  | _ => none

/-- The first forward slice of a micro-batch in a step takes the version tag; a read of weights counts a holder. -/
def tagSlice (j : Job) (step : Nat) (sl : Slice) : Job :=
  match sl.mb with
  | none => j
  | some m =>
    let j1 := if sl.backward || j.tags.any fun t => decide (t.1 = step) && decide (t.2.1 = m) then j
              else { j with tags := (step, m, j.committed.version, j.committed.bank) :: j.tags }
    match (weightRead j sl.work).bind (paramAt j) with
    | none => j1
    | some p =>
      let h : Holder := ⟨p.tensorId, bankOf j1 p step (some m), step, m⟩
      if paramFrozen p || j1.holders.contains h then j1 else { j1 with holders := h :: j1.holders }

/-- After the last planned read of a micro-batch from a shard has sent its last byte, its holder goes; a carried read keeps it, a cancelled
micro-batch has no reads to come (R236, R267). -/
def releaseHolder (j : Job) (step : Nat) (sl : Slice) : Job :=
  match sl.mb, weightRead j sl.work with
  | some m, some param =>
    let later (q : Slice) : Bool := decide (q.mb = some m) && decide (weightRead j q.work = some param) && decide (sl.beat < q.beat)
    let busy (r : RunSlice) : Bool := decide (r.step = step) && decide (r.slice.mb = some m) && decide (weightRead j r.slice.work = some param)
    let more := !cancelledSlice j step sl && (match j.plan with | some p => p.slices.any later | none => false)
    match paramAt j param with
    | some p => if more || j.running.any busy then j
                else { j with holders := j.holders.filter fun h => !(decide (h.tensor = p.tensorId) && decide (h.step = step) && decide (h.mb = m)) }
    | none => j
  | _, _ => j

/-! ### Which slices belong to a beat (R50 to R52, R63, R236) -/

/-- The first beat of an update slice of an update-only replay, and its gradient reductions, are left out (R276). -/
def replayOmits (j : Job) (p : Plan) (step : Nat) (sl : Slice) : Bool :=
  j.updateOnly && decide (step = j.committed.step) &&
    (decide (sl.beat < p.firstUpdate) ||
     (match sl.work with
      | .contribute op _ => (match collSpec j op with | some sp => sp.gradient | none => false)
      | .sendStage op _ _ _ _ _ _ _ => (match collSpec j op with | some sp => sp.gradient | none => false)
      | _ => false))

/-- Whether a stop runs in a beat (R365). -/
def inStop (s : State) (j : Job) : Bool := match j.stopEnd with | some e => decide (s.eng.beat < e) | none => false

/-- Whether the copy part of a stop runs: 1.5 ms after its first beat to 4.5 ms before its end (Table 11.6). -/
def inCopy (s : State) (j : Job) : Bool :=
  match j.stopEnd, j.chrysalises.head? with
  | some e, some c => decide (c.stopBeat + 1500000 / s.eng.period ≤ s.eng.beat) && decide (s.eng.beat + 4500000 / s.eng.period < e)
  | _, _ => false

/-- Whether a slice uses far memory in a reserved slot: chrysalis copies and export (R52, R365). -/
def usesFar : Work → Bool
  | .chrysalisChunk _ _ _ => true
  | .exportBegin => true
  | .exportEnd => true
  | .exportRecords _ _ => true
  | _ => false

/-- Whether a job's slices may run on this device at all (R34, R63, R358). -/
def mayRun (s : State) (j : Job) : Bool := !s.eng.suspended && !j.gone

/-- The planned slices of a step at a beat. -/
def plannedAt (j : Job) (p : Plan) (n step : Nat) : List (Slice × Nat) :=
  (p.slices.filter fun sl => !sl.reserved && decide (realBeat j step sl.beat = n) && !replayOmits j p step sl &&
    !cancelledSlice j step sl).map fun sl => (sl, step)

/-- Slices of the running step and of the next one that the timetable gives a beat (R50, R51, R236, R365, R430). -/
def normalSlices (s : State) (j : Job) (n : Nat) : List (Slice × Nat) :=
  match j.plan, j.anchor, j.run with
  | some p, some _, some r =>
    if j.hold.isSome || inStop s j then []
    else (([j.runStep, j.runStep + 1] : List Nat).filter fun k => decide (j.committed.step ≤ k) &&
      (match r.last with | some l => decide (k ≤ l) | none => true)).flatMap (plannedAt j p n)
  | _, _, _ => []

/-- Slices in reserved slots: they repeat every L beats, in hold and in stops too (R51, R52, R63; log 49). -/
def reservedSlices (s : State) (j : Job) (n : Nat) : List (Slice × Nat) :=
  match j.plan with
  | some p =>
    let rel := ((n : Int) - j.slotBase) % (max 1 p.stepBeats : Nat)
    (p.slices.filter fun sl => sl.reserved && decide (sl.beat = rel) && !(inCopy s j && usesFar sl.work)).map fun sl => (sl, j.committed.step)
  | none => []

/-- Every slice that begins in a beat, in plan order. -/
def slicesAt (s : State) (j : Job) (n : Nat) : List (Slice × Nat) :=
  if mayRun s j then normalSlices s j n ++ reservedSlices s j n else []

/-! ### Starting slices (R42, R144, R198) -/

/-- Last real beat of the window that a slice belongs to. -/
def windowEnd (j : Job) (step op mb round : Nat) : Nat :=
  match j.plan with
  | none => 0
  | some p => maxNat (p.slices.filterMap fun sl => if sl.work = .groupedWindow op mb round then some (realBeat j step sl.beat).toNat else none)

/-- The operator that a slice counts for, in the counters of Table 14.11. -/
def opOfWork : Work → Option Nat
  | .tile op _ _ _ _ _ _ _ => some op
  | .rows op _ _ => some op
  | .head op _ => some op
  | .groupedWindow op _ _ => some op
  | .contribute op _ => some op
  | .sendStage op _ _ _ _ _ _ _ => some op
  | .gatherCopy op _ => some op
  | .lossStats op _ _ _ _ => some op
  | .sentinel op _ _ _ _ _ => some op
  | _ => none

def bumpOp (j : Job) (w : Work) (g : OpCount → OpCount) : Job :=
  match opOfWork w with
  | some op => { j with counts := updNth j.counts op g }
  | none => j

/-- What the start of a slice finds: its results, a reserved address, or an uncorrectable word. -/
inductive Started where
  | ok (es : List Effect)
  | reserved
  | bad (addr : Nat)
  deriving DecidableEq, Repr

/-- A slice's results from the state at its start (log 9). -/
def startSlice (s : State) (f : Nat) (step : Nat) (sl : Slice) : Started :=
  match jobAt s f with
  | none => .ok []
  | some j =>
    let x := sliceCtx s f j step sl
    let es := workEffects x sl
    let reads := sliceReads x sl
    let writes := effectWrites es
    if touchesReserved reads writes then .reserved
    else match meetsBad s reads writes with
      | some a => .bad a
      | none => .ok es

/-- Marks the start of a slice in the job: version tag, holder, counters, and the window that it opens. -/
def noteStart (s : State) (f step : Nat) (sl : Slice) : State :=
  let s1 := setJob s f fun j => bumpOp (tagSlice j step sl) sl.work fun c => { c with slices := c.slices + 1 }
  match sl.work, jobAt s1 f with
  | .groupedWindow op mb round, some j => openWindow s1 f op mb round step (windowEnd j step op mb round)
  | _, _ => s1

/-- Whether a resource still holds work that has begun and was carried (R42). -/
def hasRemainder (j : Job) (r : Res) : Bool := j.running.any fun x => decide (x.slice.res = r) && x.carried

/-- The outcome of starting slices: a state, or an address of no region. -/
inductive Outcome where
  | fine (s : State)
  | reserved
  deriving DecidableEq, Repr

/-- Whether a slice is a planned move (R191, R194). -/
def isMove : Work → Bool
  | .move _ _ _ => true
  | .transposeMove _ _ _ _ _ _ _ => true
  | .prefetch _ _ _ _ => true
  | .copyBiases _ _ => true
  | _ => false

/-- Whether a slice reads the destination of a move that has carried and is not done: the carry delays it (R193). -/
def waitsForMove (s : State) (f : Nat) (j : Job) (r : RunSlice) : Bool :=
  let reads := sliceReads (sliceCtx s f j r.step r.slice) r.slice
  j.running.any fun x => x.started && x.carried && isMove x.slice.work &&
    (effectWrites x.effects).any fun w => reads.any fun q => overlaps q.1 q.2 w.1 w.2

/-- Whether a dispatch beat waits for its allocation (R211, R240). -/
def waitsForAllocation (j : Job) (sl : Slice) : Bool :=
  match sl.work with
  | .dispatch layer mb _ _ _ => (match exchAt j layer mb with
    | some x => !(if sl.backward then x.backAllocated else x.allocated)
    | none => true)
  | _ => false

/-- The core whose scale or codebook registers a slice loads. -/
def loadsBank : Work → Option Nat
  | .loadScales core _ _ _ => some core
  | .loadCodebook core _ _ _ _ _ => some core
  | _ => none

/-- Whether an operator reads the bank that a load replaces (R90, R97, R125). -/
def readsBank (o : OpD) : Work → Bool
  | .loadScales _ column _ _ => decide ((if column then o.colScaleAddr else o.rowScaleAddr) ≠ 0)
  | .loadCodebook _ bank _ fill _ _ => isCodebook (if bank = 0 then (refAt o 0).fmt else (planeB o false).fmt) || (fill && viaTable o)
  | _ => false

/-- Whether a tile in flight on a core reads the bank that a load replaces: a tile with partial results or an item (R91, R98, R134). -/
def bankInUse (s : State) (j : Job) (core : Nat) (w : Work) : Bool :=
  let uses (op : Nat) : Bool := match opNth j op with | some o => readsBank o w | none => false
  (s.st.partials.any fun p => decide (p.core = core) && uses p.op) ||
    j.workLists.any fun l => uses l.op && l.items.any fun i => decide (i.phase = 2) && decide (i.at_ = core)

/-- Whether a load waits for the tiles in flight that read its bank. -/
def waitsForTiles (s : State) (j : Job) (w : Work) : Bool := match loadsBank w with | some core => bankInUse s j core w | none => false

/-- Whether a slice continues a tile in flight on its core (R104). -/
def continuesTile (s : State) (r : RunSlice) : Bool :=
  match r.slice.res, r.slice.work with
  | .core c, .tile op b mt nt b0 _ _ _ => decide (b0 ≠ 0) && s.st.partials.any (samePart ⟨c, op, r.step, r.slice.mb, b, mt, nt, 0, []⟩)
  | _, _ => false

/-- Whether a slice must wait: its resource holds a remainder, a carried move holds its data, its allocation is not done, or tiles in flight
read the bank that it loads (R42, R91, R98, R193, R211). -/
def mustWait (s : State) (f : Nat) (j : Job) (r : RunSlice) : Bool :=
  hasRemainder j r.slice.res || waitsForMove s f j r || waitsForAllocation j r.slice || waitsForTiles s j r.slice.work

/-- A slice that has not begun is due in a beat: in hold or a stop, only if it was carried or is reserved. -/
def isDue (s : State) (j : Job) (r : RunSlice) : Bool :=
  !r.started && decide (r.beat ≤ s.eng.beat) && (r.carried || r.slice.reserved || !(j.hold.isSome || inStop s j))

/-- Slices that may begin and those that wait, in order: behind a load that waits, only tiles in flight go on on its core (R91, R134). -/
structure Sorted where
  go : List RunSlice
  wait : List RunSlice
  behind : List Nat
  deriving DecidableEq, Repr

/-- Sorts one slice; `j` holds only the slices that have begun. -/
def sortSlice (s : State) (f : Nat) (j : Job) (a : Sorted) (r : RunSlice) : Sorted :=
  let blocked := match r.slice.res with | .core c => a.behind.contains c && !continuesTile s r | _ => false
  let waits := mustWait s f j r
  if !isDue s j r then { a with wait := a.wait ++ [r] }
  else if blocked || waits then
    { a with wait := a.wait ++ [r], behind := (match loadsBank r.slice.work with | some c => c :: a.behind | none => a.behind) }
  else { a with go := a.go ++ [r] }

/-- Begins one slice on its resource: `scratch` carries the results of the slices before it on the same resource (R41). -/
def beginOne (f : Nat) (acc : Outcome × List (Res × State)) (r : RunSlice) : Outcome × List (Res × State) :=
  match acc.1 with
  | .reserved => acc
  | .fine s =>
    let s1 := noteStart s f r.step r.slice
    let view := match acc.2.find? fun p => decide (p.1 = r.slice.res) with | some p => { p.2 with fns := s1.fns } | none => s1
    match startSlice view f r.step r.slice with
    | .reserved => (.reserved, acc.2)
    | .bad a => (.fine (memFault s1 f (rowOfAddr a) a), acc.2)
    | .ok es =>
      let s2 := setJob s1 f fun j => { j with running := j.running ++ [{ r with started := true, effects := es }] }
      (.fine s2, (r.slice.res, applyEffects f r.step es view) :: acc.2.filter fun p => !decide (p.1 = r.slice.res))

/-- Begins the waiting slices of a function that may begin, and then new ones that nothing holds back. -/
def beginSlices (s : State) (f : Nat) (new : List (Slice × Nat)) : Outcome :=
  match jobAt s f with
  | none => .fine s
  | some j =>
    let fresh := new.map fun p => (⟨p.1, s.eng.beat, p.2, false, false, []⟩ : RunSlice)
    let begun := j.running.filter fun r => r.started
    let q := ((j.running.filter fun r => !r.started) ++ fresh).foldl (sortSlice s f { j with running := begun }) ⟨[], [], []⟩
    let s1 := setJob s f fun j => { j with running := begun ++ q.wait }
    (q.go.foldl (beginOne f) (.fine s1, [])).1

/-! ### Pulling items (R140 to R142, R354) -/

/-- The slice of a work list on a core, for its context. -/
def itemSlice (j : Job) (w : WorkList) (core : Nat) : Slice :=
  ⟨0, .core core, .groupedWindow w.op w.mb w.round, some w.mb, false, match opNth j w.op with | some o => flagBack o | none => false⟩

/-- Whether a core is at work: on an item of any window, or on a planned slice (R140). -/
def coreBusy (j : Job) (core : Nat) : Bool :=
  (j.workLists.any fun w => w.items.any fun i => decide (i.phase = 2) && decide (i.at_ = core)) ||
    j.running.any fun r => r.started && decide (r.slice.res = .core core) && (match r.slice.work with | .groupedWindow _ _ _ => false | _ => true)

def sameWindow (v w : WorkList) : Bool := decide (v.op = w.op) && decide (v.mb = w.mb) && decide (v.round = w.round) && decide (v.step = w.step)

def putWindow (w : WorkList) (j : Job) : Job := { j with workLists := j.workLists.map fun v => if sameWindow v w then w else v }

/-- An idle core pulls from the first window that has an item for it, and loads what that item needs (R140, R142); an uncorrectable word that
the load reads is the fault of R198. -/
def pullCore (f : Nat) (s : State) (core : Nat) : State :=
  match jobAt s f with
  | none => s
  | some j =>
    let mine (i : WorkItem) : Bool := decide (i.phase = 2) && decide (i.at_ = core)
    if coreBusy j core then s
    else match j.workLists.findSome? fun w => let v := pullItem s f w core; (v.items.find? mine).map fun i => (v, i) with
      | none => s
      | some (w, i) =>
        let s1 := setJob s f (putWindow w)
        match opNth j w.op with
        | none => s1
        | some o =>
          let x := sliceCtx s1 f j w.step (itemSlice j w core)
          match (itemLoadReads x o w.rows i.expert i.mTile i.nTile).findSome? fun r => badIn s r.1 r.2 with
          | some a => memFault s1 f (rowOfAddr a) a
          | none => applyEffects f w.step (itemLoads x o w.rows i.expert i.mTile i.nTile (lookupD w.last core (2 ^ 32, 2 ^ 32))) s1

/-- Every idle core of the function pulls, the lowest first, outside hold and stops (R51, R140, R171). -/
def pullAll (s : State) (f : Nat) : State :=
  match jobAt s f with
  | none => s
  | some j => if j.hold.isSome || inStop s j then s else (fnCores s f).foldl (pullCore f) s

/-- The slices of a beat in one function, and the work lists' pulls (R140). -/
def startFn (s : State) (f : Nat) : Outcome :=
  match jobAt s f with
  | none => .fine s
  | some j =>
    if !mayRun s j then .fine s
    else match beginSlices s f (slicesAt s j s.eng.beat) with
      | .reserved => .reserved
      | .fine s1 =>
        match jobAt s1 f with
        | some k =>
          let s2 := if k.running.isEmpty then s1 else { s1 with face := { s1.face with lastActive := some s1.eng.timeNs } }
          .fine (pullAll s2 f)
        | none => .fine s1

/-- The data phase begins: the upsets that the checks find, then every function's slices (R29, R42; spec/95). -/
def dataPhaseStart (s : State) (faults : List DataFault) : Outcome :=
  let s0 := resendAll { s with eng := { s.eng with phase := .data } }
  ([0, 1, 2, 3] : List Nat).foldl (fun o f => match o with | .fine s => startFn s f | .reserved => .reserved)
    (.fine (faults.foldl dataFault s0))

def execDataPhaseStart (faults : List DataFault) (s : State) : Host.Outcome State Fault Refusal :=
  match dataPhaseStart s faults with
  | .fine s => .next s
  | .reserved => .fault .reservedAddress

/-! ### Finishing slices (R42, R43) -/

/-- The first uncorrectable word that results formed at a slice's end meet (R198). -/
def lateBad (s : State) (f : Nat) (r : RunSlice) : Option Nat :=
  (jobAt s f).bind fun j => (lateReads (sliceCtx s f j r.step r.slice) r.slice).findSome? fun q => badIn s q.1 q.2

/-- A slice finishes: its results take effect and its holder may go. -/
def finishSlice (f : Nat) (s : State) (r : RunSlice) : State :=
  let s1 := setJob s f fun j => { j with running := j.running.erase r }
  match lateBad s f r with
  | some a => memFault s1 f (rowOfAddr a) a
  | none => setJob (applyEffects f r.step r.effects s1) f fun j => releaseHolder j r.step r.slice

/-- Number and kind of a resource for the overrun event (R43; log 58): a core by its logical number, active cores counted in ascending order
(R10, Table 1.5; log 149). -/
def resCode : Res → Nat × Nat
  | .core n => (n, 0)
  | .clusterMove c => (c, 1)
  | .dieMove d => (d, 2)
  | .hubStream => (0, 3)
  | .port c => (c, 4)
  | .reduceEngine => (0, 5)
  | .updateEngine k => (k, 6)
  | .exchangeEngine => (0, 7)

/-- Carry counter of a resource: cores, move engines, ports, hub engines, far memory (Table 14.11). -/
def carryClass : Res → Nat
  | .core _ => 0
  | .clusterMove _ => 1
  | .dieMove _ => 1
  | .port _ => 2
  | .hubStream => 4
  | _ => 3

/-- The overrun fault of a resource (R43). -/
def overrun (s : State) (f : Nat) (r : Res) : State :=
  let c := resCode r
  raiseAbort (raiseFn s f 2 0x0102 c.1 c.2 0) f 0x0102

/-- A slice carries into the next beat (R42). -/
def carrySlice (f : Nat) (s : State) (r : RunSlice) : State :=
  let s1 := setJob s f fun j => bumpOp { j with running := j.running.map fun x => if x = r then { x with carried := true } else x } r.slice.work
    fun c => { c with carries := c.carries + 1 }
  { s1 with pow := { s1.pow with carries := updNth s1.pow.carries (carryClass r.slice.res) fun n => sat (2 ^ 32 - 1) (n + 1) } }

/-- Begins the slices that waited for a remainder of this resource; an address of no region stops them as if they had no results. -/
def beginWaiting (s : State) (f : Nat) : State :=
  match beginSlices s f [] with
  | .fine s1 => s1
  | .reserved => s

/-- Whether a return beat still lacks a partial of the rows that it sends (R226). -/
def lacksPartial (s : State) (f : Nat) (j : Job) (r : RunSlice) : Bool :=
  match r.slice.work with
  | .returnRows layer mb round b port => (match exchAt j layer mb with
    | some ex => (returnRowsOf (sliceCtx s f j r.step r.slice) ex r.slice.backward round b port).any fun x => !partialReady j ex x.2
    | none => false)
  | _ => false

/-- Finishes the slices of a resource that have begun and lack nothing. -/
def finishReady (f : Nat) (r : Res) (s : State) : State :=
  match jobAt s f with
  | none => s
  | some j => (j.running.filter fun x => decide (x.slice.res = r) && decide (x.beat ≤ s.eng.beat) && x.started && !lacksPartial s f j x).foldl (finishSlice f) s

/-- Slices of a resource that wait at the end of a data phase: a first time they carry, a second time they overrun (R42, R43). -/
def carryRest (f : Nat) (r : Res) (s : State) : State :=
  match jobAt s f with
  | none => s
  | some j =>
    let rest := j.running.filter fun x => decide (x.slice.res = r) && decide (x.beat ≤ s.eng.beat) && (x.started || isDue s j x)
    if rest.any fun x => x.carried && decide (x.beat < s.eng.beat) then overrun s f r
    else (rest.filter fun x => !x.carried).foldl (carrySlice f) s

/-- The allocation is done: dispatch beats that waited for it begin (R211). -/
def execAllocationComplete (f layer mb : Nat) (backward : Bool) (s : State) : Host.Outcome State Fault Refusal :=
  let s1 := allocationDone s f layer mb backward
  .next (if s1.eng.phase = .data then beginWaiting s1 f else s1)

/-- The end of the data phase for one resource of a function: of its slices only the last may be unfinished, and those that wait carry. -/
def endRes (f : Nat) (unfinished : List Res) (s : State) (r : Res) : State :=
  match jobAt s f with
  | none => s
  | some j =>
    let mine (j : Job) : List RunSlice := j.running.filter fun x => decide (x.slice.res = r) && decide (x.beat ≤ s.eng.beat)
    if unfinished.contains r then
      if (mine j).any fun x => x.carried && decide (x.beat < s.eng.beat) then overrun s f r
      else match (mine j).getLast? with
        | none => s
        | some last =>
          carryRest f r (((mine j).filter fun x => x.started && !decide (x = last) && !lacksPartial s f j x).foldl (finishSlice f) s)
    else carryRest f r (finishReady f r (beginWaiting (finishReady f r s) f))

/-- A window whose items are not all done by the end of the beat after its last one overruns (R144); the event names resource 0 of kind 8
(log 58). -/
def endWindows (s : State) (f : Nat) : State :=
  match jobAt s f with
  | none => s
  | some j =>
    let done (w : WorkList) : Bool := w.items.all fun i => decide (i.phase = 3)
    let open_ (w : WorkList) : Bool := w.items.any fun i => !i.check && !decide (i.phase = 3)
    if j.workLists.any fun w => open_ w && decide (w.lastBeat < s.eng.beat) then
      raiseAbort (raiseFn s f 2 0x0102 0 8 0) f 0x0102
    else setJob s f fun j =>
      { j with workLists := j.workLists.filter fun w => !done w,
               windowsDone := ((j.workLists.filter done).map fun w => (w.op, w.mb, w.round, w.step)) ++ j.windowsDone }

def endFn (unfinished : List Res) (s : State) (f : Nat) : State :=
  match jobAt s f with
  | none => s
  | some j => endWindows (((j.running.map fun x => x.slice.res).eraseDups).foldl (endRes f unfinished) s) f

/-- The data phase ends and the guard begins (R29, R42, R43). -/
def dataPhaseEnd (s : State) (unfinished : List Res) : State :=
  ([0, 1, 2, 3] : List Nat).foldl (endFn unfinished) (resendAll { s with eng := { s.eng with phase := .guard } })

def execDataPhaseEnd (unfinished : List Res) (s : State) : Host.Outcome State Fault Refusal := .next (dataPhaseEnd s unfinished)

/-- A carried remainder finishes: the resource starts its own slices of the beat (R42). -/
def remainderDone (s : State) (r : Res) : State :=
  ([0, 1, 2, 3] : List Nat).foldl (fun s f =>
    match jobAt s f with
    | none => s
    | some j =>
      let mine := j.running.filter fun x => decide (x.slice.res = r) && x.carried && x.started
      if mine.isEmpty then s
      else
        let s1 := (mine.filter fun x => !lacksPartial s f j x).foldl (finishSlice f) s
        if s.eng.phase = .data then pullAll (beginWaiting s1 f) f else s1) s

def execRemainderDone (r : Res) (s : State) : Host.Outcome State Fault Refusal := .next (remainderDone s r)

/-! ### Items of the common work list (R139 to R143, R354) -/

/-- What an item of a window reads from memory, and its effects, on a core (R139, R142). -/
def itemResult (s : State) (f : Nat) (j : Job) (w : WorkList) (i : WorkItem) (core : Nat) : List (Nat × Nat) × List Effect :=
  match opNth j w.op with
  | none => ([], [])
  | some o =>
    let x := localView (sliceCtx s f j w.step (itemSlice j w core)) o.layer w.mb
    let es := itemWork x w.op w.rows i.expert i.mTile i.nTile i.t
    (itemReads o w.rows i.expert i.mTile i.nTile, if i.check then checkOnly es else es)

/-- A core finishes its item, whose results are formed now (log 9), loads that waited for it go on, and the core pulls the next (R91, R140); an
uncorrectable word that the item reads is the fault of R198. -/
def itemDone (s : State) (f core : Nat) : State :=
  match jobAt s f with
  | none => s
  | some j =>
    let here (i : WorkItem) : Bool := decide (i.phase = 2) && decide (i.at_ = core)
    match j.workLists.find? fun w => w.items.any here with
    | none => s
    | some w =>
      match w.items.find? here with
      | none => s
      | some i =>
        let q := itemResult s f j w i core
        match q.1.findSome? fun r => badIn s r.1 r.2 with
        | some a => memFault s f (rowOfAddr a) a
        | none =>
          let w1 : WorkList :=
            { w with items := updFirst here (fun i => { i with phase := 3 }) w.items, last := insertK w.last core (i.expert, i.nTile) }
          let s1 := setJob (applyEffects f w.step q.2 s) f (putWindow w1)
          if s1.eng.phase = .data then
            let s2 := beginWaiting s1 f
            if j.hold.isSome || inStop s2 j then s2 else pullCore f s2 core
          else s1

def execItemComplete (f core : Nat) (s : State) : Host.Outcome State Fault Refusal := .next (itemDone s f core)

end Sys2Proof.Machine
end

