-- ==== Sys2Proof/Machine/Ports.lean ====
section
/-! DEFINITION. Events of the ports: flits, lanes, cables, training, admission, encryption and the bridge (spec/10 R312 to R344;
spec/16 R501, R513, R514). -/
namespace Sys2Proof.Machine
open Sys2Proof

/-! ### Training (R323, Table 10.7) -/

/-- Whether a port has a front cage: T, P and D ports (Table 10.1). -/
def caged (p : Nat) : Bool := p < 8 && p % 4 ≠ 0

/-- Whether the map gives the port's axis the length 1, so that the port stays down (R327). -/
def lengthOne (s : State) (p : Nat) : Bool := s.fab.map.isSome && p < 8 && decide (coordOn (mapLengths s) (p % 4) = 1)

/-- Whether ports may train: from boot stage 8 on, out of standby (R457, Table 14.10). -/
def mayTrain (s : State) : Bool := decide (8 ≤ s.pow.stage) && s.pow.standby.isNone && !decide (s.pow.state = 5)

/-- First stage after presence: the cable read for a cage, lane lock else (Table 10.7). -/
def firstStage (p : Nat) : Nat := if caged p then 2 else 3

/-- Starts training of a port that is present and down (R323). -/
def startTraining (s : State) (p : Nat) : State :=
  let x := portAt s p
  if !mayTrain s || !x.present || decide (x.pstate ≠ 0) || lengthOne s p then s
  else setPort s p fun x => { downPort x with pstate := 1, stage := firstStage p, power := x.power || caged p }

/-- Trains every port that is present and down, at boot stage 8 or after LINK.ADMIT (R323, R511). -/
def trainAll (s : State) : State := (List.range 9).foldl startTraining s

/-- R501, R513: cable presence starts training and switches cable power on. -/
def cableInserted (s : State) (p : Nat) : State :=
  if !caged p then s
  else startTraining (setPort s p fun x => { x with present := true, power := true }) p

def execCableInserted (p : Nat) (s : State) : Host.Outcome State Fault Refusal := .next (cableInserted s p)

/-- R514: loss of cable presence takes the port down; cable power goes off. -/
def cableRemoved (s : State) (p : Nat) : State :=
  if !caged p then s
  else
    let x := portAt s p
    let s1 := if x.pstate = 2 ∨ x.pstate = 5 ∨ x.pstate = 3 then portDown s p else s
    dropDomains (setPort s1 p fun x => { downPort x with present := false, power := false })

def execCableRemoved (p : Nat) (s : State) : Host.Outcome State Fault Refusal := .next (cableRemoved s p)

/-- R323: power-good on both ends of a backplane link starts its training. -/
def backplanePowerGood (s : State) (p : Nat) : State :=
  if p < 8 ∧ p % 4 = 0 then startTraining (setPort s p fun x => { x with present := true }) p else s

def execBackplanePowerGood (p : Nat) (s : State) : Host.Outcome State Fault Refusal := .next (backplanePowerGood s p)

/-- R331: the port's cable is refused; the event names the port. -/
def refuseCable (s : State) (p : Nat) : State :=
  let s1 := setPort s p fun x => { downPort x with pstate := 4, power := false }
  raiseDev s1 5 1 0x0405 (portCode s p) 0 0

/-- R331: nine lanes, at most 12 W, copper on T and optical on P and D. -/
def cableOk (p : Nat) (i : CableInfo) : Bool :=
  i.readable && decide (9 ≤ i.lanes) && decide (i.deciwatts ≤ 120) && decide (i.optical = decide (p % 4 ≠ 1))

def cableReadDone (s : State) (p : Nat) (i : CableInfo) : State :=
  if !caged p || !decide ((portAt s p).pstate = 1) || !decide ((portAt s p).stage = 2) then s
  else if cableOk p i then setPort s p fun x => { x with stage := 3 }
  else refuseCable s p

def execCableReadDone (p : Nat) (info : CableInfo) (s : State) : Host.Outcome State Fault Refusal := .next (cableReadDone s p info)

/-- R501: more than 12 W for 10 ms. -/
def cableOvercurrent (s : State) (p : Nat) : State :=
  if !caged p || !(portAt s p).power then s
  else
    let served := decide ((portAt s p).pstate = 2) || decide ((portAt s p).pstate = 5)
    refuseCable (if served then portDown s p else s) p

def execCableOvercurrent (p : Nat) (s : State) : Host.Outcome State Fault Refusal := .next (cableOvercurrent s p)

/-- The lanes that pass, largest eye margin first, the lower lane on a tie (R324; log 171). -/
def bestLanes (margins : List (Option Nat)) : List Nat :=
  let l := margins.zipIdx.filterMap fun x => x.1.map fun m => (m, x.2)
  let top := maxNat (l.map (·.1))
  (sortBy (fun x => (top - x.1) * 16 + x.2) l).map (·.2)

/-- Widest healthy width of the service port (R343). -/
def serviceWidth (n : Nat) : Nat := if 4 ≤ n then 4 else if 2 ≤ n then 2 else n

/-- The service port is trained: this device is the bridge of its tray (R342). -/
def enterBridge (s : State) (lanes : Nat) : State :=
  let s1 := setPort s 8 fun x => { x with pstate := 2, stage := 9, lanes }
  refreshCrypto { s1 with fab := { s1.fab with bridge := true, serviceIdle := false } }

/-- R324: lane choice after equalisation; then FEC lock and deskew. -/
def trainingStageDone (s : State) (p : Nat) (margins : List (Option Nat)) : State :=
  let x := portAt s p
  if x.pstate ≠ 1 then s
  else if x.stage = 3 then
    let best := bestLanes margins
    let n := best.length
    if p = 8 then
      (if n = 0 then portDown s p
       else setPort s p fun x => { x with stage := 4, lanes := serviceWidth n, dataLanes := best.take (serviceWidth n), spareLane := none })
    else if n < 8 then portDown s p
    else
      let s1 := setPort s p fun x =>
        { x with stage := 4, lanes := 8, spare := decide (9 ≤ n), dataLanes := best.take 8, spareLane := best[8]?, failedRx := none, failedTx := none }
      if n = 8 then raiseDev s1 5 1 0x0403 x.code 0 0 else s1
  else if x.stage = 4 then
    (if p = 8 then enterBridge s x.lanes else setPort s p fun x => { x with stage := 5 })
  else s

def execTrainingStageDone (p : Nat) (margins : List (Option Nat)) (s : State) : Host.Outcome State Fault Refusal :=
  .next (trainingStageDone s p margins)

/-- R323: one restart, then down with an event; a cable that cannot be read in time is refused (R331, log 31). -/
def trainingStageTimeout (s : State) (p : Nat) : State :=
  let x := portAt s p
  if x.pstate ≠ 1 then s
  else if x.stage = 2 then refuseCable s p
  else if x.tries = 0 then setPort s p fun x => { downPort x with pstate := 1, stage := firstStage p, tries := 1 }
  else portDown s p

def execTrainingStageTimeout (p : Nat) (s : State) : Host.Outcome State Fault Refusal := .next (trainingStageTimeout s p)

/-! ### Latency (R44, R325) -/

/-- Half the median of 64 round trips, in ps. -/
def oneWay (rts : List Nat) : Nat :=
  let l := sortBy id rts
  let h := l.length / 2
  (l.getD (h - 1) 0 + l.getD h 0) / 4

def latencyMeasured (s : State) (p : Nat) (rts : List Nat) : State :=
  let x := portAt s p
  if p = 8 ∨ x.pstate ≠ 1 ∨ x.stage ≠ 5 then s
  else
    let l := oneWay rts
    sendIdent (setPort s p fun x => { x with latencyPs := l, lambda := latencyClass p l s.eng.period, stage := 6 }) p

def execLatencyMeasured (p : Nat) (rts : List Nat) (s : State) : Host.Outcome State Fault Refusal := .next (latencyMeasured s p rts)

/-! ### Identity and admission (R326 to R328) -/

/-- The coordinate next along a port's axis and direction, with wrap-around (R327). -/
def nextCoord (s : State) (p : Nat) (c : Coord) : Coord :=
  let a := p % 4
  let n := max 1 (coordOn (mapLengths s) a)
  coordPut c a ((coordOn c a + (if p < 4 then 1 else n - 1)) % n)

/-- The conditions of R327 on a record that arrives on a port, with the bound of R325. -/
def admissible (s : State) (p : Nat) (r : Bytes) : Bool :=
  match s.fab.map, mapCoord s with
  | some m, some me =>
    let them := nextCoord s p me
    decide (rd r 24 8 = m.systemId) && decide (rd r 17 1 = 1) && decide (rd r 19 1 = (portCode s p) ^^^ 4)
      && m.modules.any (fun x => decide (x.serial = rd r 0 8) && decide (x.phys = them) && !m.gone.contains x.serial)
      && decide (s.pow.slotId = me.e) && decide (rd r 57 1 % 16 = them.e)
      && decide ((portAt s p).latencyPs ≤ 2400000) && s.fab.drain.isNone && !s.fab.safe
  | _, _ => false

/-- Both ports of a physical axis are in service: its ring closes (R309, Table 10.9). -/
def closeRings (s : State) : State :=
  { s with fab := { s.fab with map := s.fab.map.map fun m =>
    { m with lines := m.lines.filter fun a => !(decide ((portAt s a.1).pstate = 2) && decide ((portAt s (a.1 + 4)).pstate = 2)) } } }

/-- An admitted port that has time lock waits for the next beat, or for the plan switch (R328). -/
def enterService (s : State) (p : Nat) : State :=
  let x := portAt s p
  if !x.admitted || x.stage ≠ 9 || x.pstate ≠ 1 then s
  else if s.fns.any fun f => f.job.isSome then recompileAll s
  else setPort s p fun x => { x with serviceAt := some (s.eng.beat + 1) }

/-- Admitted ports enter service, at the plan switch (R328). -/
def serveAdmitted (s : State) : State :=
  let s1 := (List.range 8).foldl (fun s p =>
    let x := portAt s p
    if x.admitted && decide (x.stage = 9) && decide (x.pstate = 1) then
      setPort s p fun x => { x with pstate := 2, serviceAt := none } else s) s
  refreshAbortBound (refreshCrypto (closeRings s1))

/-- Ports whose service beat has come (R328). -/
def serveDue (s : State) : State :=
  let due (x : PortSt) : Bool := match x.serviceAt with | some b => decide (b ≤ s.eng.beat) | none => false
  if s.fab.ports.any due then
    let s1 := (List.range 8).foldl (fun s p =>
      if due (portAt s p) then setPort s p fun x => { x with pstate := 2, serviceAt := none } else s) s
    rerank (refreshAbortBound (refreshCrypto (closeRings s1)))
  else s

/-- Answers LINK.ADMIT once every trained port has exchanged identities (R434). -/
def admitDone (s : State) : State :=
  match s.fab.admitting, s.fab.map with
  | some (req, [], n), some m =>
    answerReq { s with fab := { s.fab with admitting := none } } req (replyOk (natLE 8 m.systemId ++ natLE 4 n))
  | _, _ => s

/-- Notes for LINK.ADMIT that a port has exchanged identities, and whether it was admitted. -/
def admitNote (s : State) (p : Nat) (ok : Bool) : State :=
  match s.fab.admitting with
  | some (req, wait, n) =>
    if wait.contains p then
      admitDone { s with fab := { s.fab with admitting := some (req, wait.filter (fun q => !decide (q = p)), n + b2n ok) } }
    else s
  | none => s

/-- The next stage after identity exchange: key agreement when R338 applies, else port time lock (Table 10.7). -/
def afterIdent (s : State) (p : Nat) : State :=
  if ownConf s || (portAt s p).partnerConf then startKeyx (setPort s p fun x => { x with pstate := 1, stage := 7 }) p
  else setPort s p fun x => { x with pstate := 1, stage := 8 }

/-- Whether this device is on its own: no port in service and no job, so that its count is nobody else's (R32; log 154). -/
def alone (s : State) : Bool := (intactPorts s).isEmpty && !jobLoaded s

/-- Whether a record that arrives is that of a system which this device joins: the partner is in lock, and this device has no master, or
is on its own under another one while the partner's count is ahead (R32; log 154). -/
def joins (s : State) (r : Bytes) : Bool :=
  bit (rd r 56 1) 0 &&
  ((s.eng.master.isNone && !s.eng.inLock) ||
    (alone s && decide (s.eng.master ≠ some (rd r 48 8)) && decide (s.eng.beat < rd r 40 8)))

/-- R32: a module whose port first reaches the system adopts its beat count and master, and has yet to gain lock. -/
def adoptBeat (s : State) (r : Bytes) : State :=
  if joins s r then
    { s with eng := { s.eng with beat := rd r 40 8, master := some (rd r 48 8), upstream := none, inLock := false, lockBeats := 0,
                                 badSyncs := 0, missing := 0 } }
  else s

/-- R13, R327, R328: an identity record is checked against the system map; its flags say whether its sender can be a job member. -/
def identRecord (s : State) (p : Nat) (r : Bytes) : State :=
  let x := portAt s p
  if p = 8 ∨ x.pstate = 0 ∨ x.pstate = 4 ∨ x.stage < 6 then s
  else
    let coord := coordOf r 32
    let s1 := noteAbsent (adoptBeat (setPort s p fun x =>
      { x with ident := fit 128 r, partner := rd r 0 8, partnerConf := bit (rd r 56 1) 4,
               partnerCoord := if coord = noCoord then none else some coord }) r) (rd r 0 8) (bit (rd r 56 1) 3)
    if x.pstate = 2 ∨ x.pstate = 5 then admitNote (refreshCrypto s1) p false
    else if s.fab.map.isNone || s.fab.drain.isSome || s.fab.safe then (if x.stage = 6 then afterIdent s1 p else s1)
    else if admissible s1 p r then
      let s2 := setPort s1 p fun x => { x with admitted := true, pstate := 1 }
      let s3 := if x.stage = 6 then afterIdent s2 p else enterService s2 p
      admitNote s3 p (!x.admitted)
    else
      let s2 := setPort s1 p fun x => { x with admitted := false, pstate := 3, stage := 6 }
      let s3 := if x.pstate = 3 then s2 else raiseDev s2 5 1 0x0404 x.code 0 (rd r 0 8)
      admitNote s3 p false

def execIdentRecord (p : Nat) (r : Bytes) (s : State) : Host.Outcome State Fault Refusal := .next (identRecord s p r)

/-- Table 10.7: port time lock ends training. -/
def portTimeLock (s : State) (p : Nat) : State :=
  let x := portAt s p
  if p = 8 ∨ x.pstate ≠ 1 ∨ x.stage ≠ 8 then s
  else enterService (setPort s p fun x => { x with stage := 9, syncRun := 0 }) p

def execPortTimeLock (p : Nat) (s : State) : Host.Outcome State Fault Refusal := .next (portTimeLock s p)

/-! ### Encryption (R338 to R341) -/

/-- The keys and salts of both directions, this end's transmit direction first (R339): HKDF with SHA-512 over the ECDH secret, the salt the
SHA-512 of both public keys, the info field both serials and both port codes, each pair with the lower serial's end first (log 172). -/
def linkKeys (s : State) (p : Nat) (own peer : Bytes) : Bytes × Bytes :=
  let first := decide (s.flash.serial < (portAt s p).partner)
  let pair (a b : Bytes) : Bytes := if first then a ++ b else b ++ a
  let code := portCode s p
  let peerCode := if p = 8 then code else code ^^^ 4
  let k := hkdf (sha512 (pair (own.take 133) (peer.take 133))) (Config.ecdhSecret own (peer.take 133))
    (pair (natLE 8 s.flash.serial) (natLE 8 (portAt s p).partner) ++ pair (natLE 1 code) (natLE 1 peerCode)) 72
  if first then (k.take 36, k.drop 36) else (k.drop 36, k.take 36)

/-- R339: the direction keys and salts are derived, or the port goes down with a security event. Both ends switch to them at their next flit
(R338; log 172). -/
def keyxFlit (s : State) (p : Nat) (payload : Bytes) (verified : Bool) : State :=
  let x := portAt s p
  if x.pstate = 0 ∨ x.pstate = 4 then s
  else if !verified then portDown (raiseDev s 5 3 0x0702 x.code 0 x.partner) p
  else
    let s0 := if x.keying then s else startKeyx s p
    let k := linkKeys s0 p (portAt s0 p).keyOwn payload
    setPort s0 p fun x =>
      { x with enc := true, keying := false, keyTx := k.1, keyRx := k.2,
               ctrTx := x.seqTx, ctrRx := x.seqRx, stage := if x.stage = 7 then 8 else x.stage }

def execKeyx (p : Nat) (payload : Bytes) (verified : Bool) (s : State) : Host.Outcome State Fault Refusal :=
  .next (keyxFlit s p payload verified)

/-- HKDF-Expand(key, "next", 36) (R340). -/
def nextKey (k : Bytes) : Bytes := hkdfExpand (k.take 32) (ascii "next") 36

/-- R340: at every multiple of 2^32 of a direction's counter, its key is replaced. -/
def linkRekey (s : State) (p : Nat) : State :=
  setPort s p fun x =>
    if !x.enc then x
    else { x with keyTx := if x.ctrTx % 2 ^ 32 = 0 then nextKey x.keyTx else x.keyTx,
                  keyRx := if x.ctrRx % 2 ^ 32 = 0 then nextKey x.keyRx else x.keyRx }

def execLinkRekey (p : Nat) (s : State) : Host.Outcome State Fault Refusal := .next (linkRekey s p)

/-! ### Received flits (R317, R320, R321, R341) -/

/-- The counter of a received flit from its sequence number and the counter of the flit expected next (R340). -/
def flitCounter (x : PortSt) (seq : Nat) : Nat :=
  let ahead := (seq + 65536 - x.seqRx) % 65536
  if ahead < 32768 then x.ctrRx + ahead else x.ctrRx + ahead - 65536

def flitGood (s : State) (x : PortSt) (fl : Bytes) : Bool :=
  let ctr := if rd fl 0 1 % 16 = 1 then s.eng.beat else flitCounter x (rd fl 2 2)
  decide (flitCheck x.enc x.keyRx ctr fl = (fl.drop 248).take 8)

/-- A failed check: the next flit, an IDLE flit, asks for the missing sequence number; after eight requests the port goes down (R320, R321). -/
def askAgain (s : State) (p : Nat) : State :=
  let x := portAt s p
  let n := match x.asked with | some (q, n) => if q = x.seqRx then n else 0 | none => 0
  if 8 ≤ n then portDown s p
  else
    let s1 := setPort s p fun x => { x with asked := some (x.seqRx, n + 1), retries := sat (2 ^ 32 - 1) (x.retries + 1) }
    sendFlit { s1 with fab := { s1.fab with sent := s1.fab.sent ++ [.nak p x.seqRx] } } p 0 false (some x.seqRx) []

/-- R341: an integrity failure; four within 1,024 beats take the port down with a security event. -/
def integrityFailure (s : State) (p : Nat) : State :=
  let s1 := setPort s p fun x =>
    { x with integrity := sat (2 ^ 32 - 1) (x.integrity + 1),
             integrityBeats := s.eng.beat :: x.integrityBeats.filter fun b => decide (s.eng.beat < b + 1024) }
  if 4 ≤ (portAt s1 p).integrityBeats.length then portDown (raiseDev s1 5 3 0x0701 (portCode s p) 0 0) p else s1

/-- R320: a flit that passes its check acknowledges, asks for resending, and advances the expected sequence number. -/
def takeFlit (s : State) (p : Nat) (fl : Bytes) : State :=
  let b0 := rd fl 0 1
  let ack := rd fl 4 2
  let x := portAt s p
  let s1 :=
    if bit b0 5 then resendPort (setPort s p fun x => { x with retry := x.retry.filter (fun e => seqLe ack e.1), resendDue := some ack }) p
    else setPort s p fun x => { x with retry := x.retry.filter fun e => !seqLe e.1 ack }
  let s2 := setPort s1 p fun x => { x with partnerLstate := rd fl 1 1 % 8 }
  if retried x.enc (b0 % 16) ∧ rd fl 2 2 = x.seqRx then
    setPort s2 p fun x => { x with seqRx := (x.seqRx + 1) % 65536, ctrRx := x.ctrRx + 1, asked := none }
  else s2

def flitReceived (s : State) (p : Nat) (fl : Bytes) (clean : Bool) : State :=
  let x := portAt s p
  if x.pstate = 0 ∨ x.pstate = 4 then s
  else if flitGood s x fl then takeFlit s p fl
  else
    let s1 := if x.enc && clean then integrityFailure s p else s
    if (portAt s1 p).pstate = 0 ∨ rd fl 0 1 % 16 = 1 then s1 else askAgain s1 p

def execFlitReceived (p : Nat) (fl : Bytes) (clean : Bool) (s : State) : Host.Outcome State Fault Refusal :=
  .next (flitReceived s p (fit 256 fl) clean)

/-- R321: no flit passes the check for 10 µs. -/
def checkTimeout (s : State) (p : Nat) : State :=
  if (portAt s p).pstate = 0 ∨ (portAt s p).pstate = 4 then s else portDown s p

def execCheckTimeout (p : Nat) (s : State) : Host.Outcome State Fault Refusal := .next (checkTimeout s p)

/-! ### Lanes (R314 to R316, R343) -/

/-- R314: the spare takes over a data lane; the event names port, direction (0 receive, 1 transmit) and lane (log 32). -/
def laneFailed (s : State) (p : Nat) (rx : Bool) (lane : Nat) : State :=
  let x := portAt s p
  if x.pstate = 0 ∨ x.pstate = 4 then s
  else
    let s1 := raiseDev (setPort s p fun x => { x with laneFails := sat (2 ^ 32 - 1) (x.laneFails + 1) }) 5 1 0x0401 x.code
      (lane + 256 * (if rx then 0 else 1)) 0
    if p = 8 then setPort s1 p fun x => { x with pstate := 1, stage := 3 }
    else
      let used := if rx then x.failedRx else x.failedTx
      if !x.spare || used.isSome then (if used = some lane then s else portDown s1 p)
      else setPort s1 p fun x => if rx then { x with failedRx := some lane } else { x with failedTx := some lane }

def execLaneFailed (p : Nat) (rx : Bool) (lane : Nat) (s : State) : Host.Outcome State Fault Refusal := .next (laneFailed s p rx lane)

/-- R343: the service port works again at the widest healthy width, and host commands that waited are accepted. -/
def servicePortRetrained (s : State) (lanes : Nat) : State :=
  if (portAt s 8).pstate ≠ 1 then s
  else if lanes = 0 then portDown s 8
  else pumpPayload (dispatchFlights (enterBridge s (serviceWidth lanes)))

def execServicePortRetrained (lanes : Nat) (s : State) : Host.Outcome State Fault Refusal := .next (servicePortRetrained s lanes)

/-! ### The bridge (R342, R344) -/

/-- R342: the service lanes of this slot are enabled; with a lower slot training too, the port is held idle. -/
def serviceLanesEnabled (s : State) (other : Option Nat) : State :=
  let s1 := setPort s 8 fun x => { x with present := true }
  match other with
  | some o =>
    if o < s.pow.slotId then raiseDev { s1 with fab := { s1.fab with serviceIdle := true } } 5 1 0x0406 0x80 o 0
    else enterBridge s1 4
  | none => enterBridge s1 4

def execServiceLanesEnabled (other : Option Nat) (s : State) : Host.Outcome State Fault Refusal := .next (serviceLanesEnabled s other)

/-- Resends a result kept for the bridge (R344, R406). -/
def resendKept (s : State) (x : Cpl) : State :=
  let s1 := forwardPieces s noCoord x.req 2 x.ring 0 noCoord x.result
  forwardTo s1 noCoord x.req 3 x.ring 0 noCoord (x.bytes ++ natLE 8 x.resultAddr)

/-- R344: commands that had not left the old bridge are lost, the others answer to the new one; a payload that had not
fully arrived makes its command fail. -/
def bridgeLost (s : State) (becomes : Bool) : State :=
  let s0 := if s.fab.bridge && !becomes then
      let s1 := setPort s 8 fun x => { downPort x with present := false }
      { s1 with
        fab := { s1.fab with bridge := false },
        mbx := { s1.mbx with flights := (s1.mbx.flights.filter fun f => f.bridge.isSome || (!decide (f.phase = .fetched) && f.targets.isEmpty)).map
                               fun f => { f with bridge := some (f.bridge.getD noCoord) },
                             held := [], rings := List.replicate 9 RingPair.off, armed := false,
                             kept := s1.mbx.kept ++ s1.mbx.held.filter (fun x => x.final) } }
    else s
  let s1 := failFlights { s0 with mbx := { s0.mbx with chunks := [], pieces := [] } } fun f =>
    f.bridge.isSome && decide (f.moved < cPayLen f.cmd)
  if becomes then
    let s2 := enterBridge (setPort s1 8 fun x => { x with present := true }) 4
    { s2 with mbx := { s2.mbx with held := s2.mbx.held ++ s2.mbx.kept, kept := [],
                                   flights := s2.mbx.flights.map fun f => { f with bridge := none } } }
  else s1.mbx.kept.foldl resendKept s1

end Sys2Proof.Machine
end

