-- ==== Sys2Proof/Machine/Link.lean ====
section
/-! DEFINITION. LINK commands, the system map and drains (spec/13 R434, R435, R438; spec/10 R345, R346; spec/16 R510 to R512). -/
namespace Sys2Proof.Machine
open Sys2Proof

/-! ### LINK.STATUS (Table 13.14) -/

def portRecord (x : PortSt) : Bytes :=
  let repl := if x.failedRx.isSome then x.failedRx else x.failedTx
  natLE 1 x.code ++ natLE 1 x.pstate ++ natLE 1 x.stage ++ natLE 1 (x.lanes % 16 + 16 * b2n x.spare + 32 * b2n repl.isSome)
    ++ natLE 1 (repl.getD 255) ++ natLE 1 x.lambda ++ natLE 1 (b2n x.enc) ++ zeros 1 ++ natLE 4 x.latencyPs ++ natLE 4 x.retries
    ++ natLE 8 x.partner ++ coordBytes (x.partnerCoord.getD noCoord) ++ natLE 4 x.integrity ++ zeros 32

def linkStatus (s : State) (c : Cmd) : State :=
  let code := cArg c 32 1
  unlessRefused s c (code = 0xFF || code < 8 || code = 0x80) 4 32 <|
  let ps := if code = 0xFF then s.fab.ports else [portAt s (portIndex code)]
  answer s c (replyRes (natLE 1 ps.length) (ps.map portRecord).flatten)

def execLinkStatus (c : Cmd) (s : State) : Host.Outcome State Fault Refusal := .next (startCmd s c fun s => linkStatus s c)

/-! ### LINK.MAPINFO (R334) -/

/-- The lowest compute function that holds a job, whose map is reported (log 34). -/
def mapJob (s : State) : Option Job := s.fns.findSome? fun x => x.job

/-- The result: axes, logical lengths, line bitmap over the cuts, plan version, members in linear rank. -/
def mapInfoBytes (s : State) : Bytes :=
  match mapJob s with
  | some j =>
    let bitmap := sumNat (([0, 1, 2, 3] : List Nat).map fun i => if (lineGap s (j.axes.getD i i)).isSome then 2 ^ i else 0)
    (j.axes.map fun a => natLE 1 a).flatten ++ coordBytes j.lengths ++ natLE 4 bitmap ++ natLE 4 j.planVersion
      ++ ((liveMembers s j).map fun c => coordBytes c ++ coordBytes (logicalToPhys j c)).flatten
  | none =>
    let bitmap := sumNat (([0, 1, 2, 3] : List Nat).map fun a => if (lineGap s a).isSome then 2 ^ a else 0)
    let ms := sortBy (fun m => coordRank (mapLengths s) m.phys) (liveModules s)
    [0, 1, 2, 3] ++ coordBytes (mapLengths s) ++ natLE 4 bitmap ++ natLE 4 0
      ++ (ms.map fun m => coordBytes m.phys ++ coordBytes m.phys).flatten

def linkMapinfo (s : State) (c : Cmd) : State :=
  let b := mapInfoBytes s
  answer s c (replyRes (b.take 4) b)

def execLinkMapinfo (c : Cmd) (s : State) : Host.Outcome State Fault Refusal := .next (startCmd s c fun s => linkMapinfo s c)

/-! ### LINK.ADMIT (R327, R435) -/

/-- The module records of a map payload. -/
def mapModules (b : Bytes) : List MapModule :=
  (List.range (rd b 12 4)).map fun i => ⟨rd b (32 + 16 * i) 8, coordOf b (32 + 16 * i + 8)⟩

/-- The first record with a coordinate outside the lengths or already used (R435): its coordinate's payload offset (log 35). -/
def badModule (len : Coord) : Nat → List Coord → List MapModule → Option Nat
  | _, _, [] => none
  | i, seen, m :: r =>
    if !coordIn len m.phys || seen.contains m.phys then some (32 + 16 * i + 8) else badModule len (i + 1) (m.phys :: seen) r

/-- The offset at which a map payload is refused, if any (R435); lengths outside R5 are refused at their own offset (log 155). -/
def mapError (b : Bytes) : Option Nat :=
  if b.length < 32 then some 12
  else if !lengthsLegal (coordOf b 8) then some 8
  else if b.length < 32 + 16 * rd b 12 4 then some 12
  else badModule (coordOf b 8) 0 [] (mapModules b)

/-- Rings of this device that run as lines: longer than 1, with a port down or refused (R309). -/
def lineAxes (s : State) (me len : Coord) : List (Nat × Nat) :=
  ([0, 1, 2, 3] : List Nat).filterMap fun a =>
    if coordOn len a ≤ 1 then none
    else (([a, a + 4] : List Nat).find? fun p => decide ((portAt s p).pstate = 0) || decide ((portAt s p).pstate = 4)).map fun p =>
      (a, gapOfPort me len p)

/-- Jobs that wait for a module at a lost coordinate and now have one (R380). -/
def endWaits (s : State) : State :=
  ([0, 1, 2, 3] : List Nat).foldl (fun s f =>
    match jobAt s f with
    | some j0 =>
      let j := { j0 with lost := [] }
      if j.recovery = .waitModule ∧ (lostD s j).isEmpty then
        setJob s f fun j => { beginCompile j none with lost := [], recovery := .recompile 0, verified := false, ranked := some true }
      else s
    | none => s) s

def linkAdmit (s : State) (c : Cmd) : State :=
  let b := c.payload
  match mapError b with
  | some off => answer s c (replyRefused s c 0 off)
  | none =>
    if s.fab.admitting.isSome then answer s c (replyBusy 1)
    else
      let old := match s.fab.map with | some m => m.modules.filter fun x => !m.gone.contains x.serial | none => []
      let mods := mapModules b
      let len := coordOf b 8
      let me := ((mods.find? fun x => decide (x.serial = s.flash.serial)).map (·.phys)).getD ⟨0, 0, 0, 0⟩
      let fresh : SysMap := { systemId := rd b 0 8, lengths := len, modules := mods, gone := [], absent := [], lines := lineAxes s me len, others := [], ranking := [0, 1, 2, 3] }
      let s1 := { s with fab := { s.fab with map := some fresh, safe := false, admitting := some (c.req, [], 0) } }
      let s2 := (List.range 8).foldl (fun s p =>
        if lengthOne s p then setPort s p downPort else s) s1
      let s3 := rerank (refreshAbortBound (trainAll s2))
      let s4 := resendIdents s3
      let trained := (List.range 8).filter fun p => decide (6 ≤ (portAt s4 p).stage)
      let s5 := { s4 with fab := { s4.fab with admitting := some (c.req, trained, 0) } }
      let s6 := trained.foldl (fun s p =>
        let r := (portAt s p).ident
        if !r.isEmpty && decide (rd r 24 8 = fresh.systemId) then identRecord s p r else s) s5
      let s7 := if old = mods then s6 else endWaits (recompileAll s6)
      admitDone s7

def execLinkAdmit (c : Cmd) (s : State) : Host.Outcome State Fault Refusal := .next (startCmd s c fun s => linkAdmit s c)

/-! ### Drains (R345, R346, R510 to R512) -/

/-- Whether removing this module leaves a job with an illegal shape or a tensor that no D rank holds (R346): with neither a warm slab to take
its place nor a second D rank, its shards have no other holder and D falls below 1. -/
def drainLegal (s : State) : Bool :=
  s.fns.all fun x => match x.job with
    | some j => j.gone || decide (0 < j.warm) || decide (1 < j.lengths.d)
    | none => true

/-- Whether a restore runs on any job (R438). -/
def restoringAny (s : State) : Bool :=
  s.fns.any fun x => match x.job with
    | some j => j.restoring.isSome || (match j.recovery with | .recompile 0 => true | .transfers => true | _ => false)
    | none => false

/-- A drain has completed: the module is safe to remove, or the port goes out of service (R345). -/
def finishDrain (s : State) : State :=
  match s.fab.drain with
  | none => s
  | some (scope, code, req) =>
    if scope = 0 then
      reportSafe (([0, 1, 2, 3] : List Nat).foldl (fun s f => setJob s f fun j => { j with gone := true }) s)
    else
      let s1 := setPort s (portIndex code) fun x => { downPort x with present := x.present }
      let s2 := { s1 with fab := { s1.fab with drain := none } }
      answerOpt (setAlert (raiseDev s2 5 0 0x0603 code 0 s.flash.serial) 6) req (replyOk (natLE 8 s.eng.beat))

/-- Starts a drain: the ports drain, IDENT says so, and the plans recompile without the module or port (R345). -/
def startDrain (s : State) (scope code : Nat) (req : Option Nat) : State :=
  let ports := if scope = 0 then List.range 8 else [portIndex code]
  let s1 := ports.foldl (fun s p => if (portAt s p).pstate = 2 then setPort s p fun x => { x with pstate := 5 } else s) s
  let s2 := resendIdents { s1 with fab := { s1.fab with drain := some (scope, code, req), drainWaits := none } }
  if s2.fns.any fun x => x.job.isSome then recompileAll s2 else finishDrain s2

/-- Whether a drain of this module waits for the bridge role to move to another module of the tray (R344, R346; log 173). -/
def bridgeFirst (s : State) (scope : Nat) : Bool :=
  let me := selfPhys s
  decide (scope = 0) && s.fab.bridge && (liveModules s).any fun m => !decide (m.phys = me) && decide (m.phys = { me with e := m.phys.e })

/-- A drain that a restore held back starts at a plan switch, one of the bridge when the role has moved (R346, R438). -/
def startHeldDrain (s : State) : State :=
  match s.fab.drainWaits with
  | some (scope, code, req) => if s.fab.drain.isNone && !bridgeFirst s scope then startDrain s scope code req else s
  | none => s

def linkDrain (s : State) (c : Cmd) : State :=
  let scope := cArg c 32 1
  let code := cArg c 33 1
  unlessRefused s c (scope ≤ 1) 4 32 <|
  unlessRefused s c (scope = 0 || code < 8) 4 33 <|
  unlessRefused s c (s.fab.drain.isNone && s.fab.drainWaits.isNone && !s.fab.safe) 2 0xFFFF <|
  unlessRefused s c (scope = 1 || drainLegal s) 8 0xFFFF <|
  if restoringAny s then
    let s1 := answer s c ⟨3, 0, 0, [], none⟩
    { s1 with fab := { s1.fab with drainWaits := some (scope, code, some c.req) } }
  else if bridgeFirst s scope then
    let s1 := answer s c (replyAccepted [])
    { s1 with fab := { s1.fab with drainWaits := some (scope, code, some c.req) } }
  else startDrain (answer s c (replyAccepted [])) scope code (some c.req)

def execLinkDrain (c : Cmd) (s : State) : Host.Outcome State Fault Refusal := .next (startCmd s c fun s => linkDrain s c)

/-- A removal request from the attention button or PANEL.SERVICE: REMOVAL_REQUESTED with 0 or the refusal reason (R510). -/
def requestRemoval (s : State) : State :=
  if s.fab.drain.isSome || s.fab.drainWaits.isSome || s.fab.safe then s
  else
    let reason := if drainLegal s then 0 else 8
    let s1 := setAlert (raiseDev s 0 0 0x0602 0 reason s.flash.serial) 5
    if reason ≠ 0 then { s1 with face := { s1.face with refusal := true } }
    else if restoringAny s1 || bridgeFirst s1 0 then { s1 with fab := { s1.fab with drainWaits := some (0, 0, none) } }
    else startDrain s1 0 0 none

/-- R344: the bridge is lost here or elsewhere in the tray; a drain that waited for the role to move starts (R346). -/
def bridgeMoves (s : State) (becomes : Bool) : State :=
  let s1 := bridgeLost s becomes
  if restoringAny s1 then s1 else startHeldDrain s1

def execBridgeLost (becomes : Bool) (s : State) : Host.Outcome State Fault Refusal := .next (bridgeMoves s becomes)

end Sys2Proof.Machine
end

