-- ==== Sys2Proof/Machine/Commit.lean ====
section
/-! DEFINITION. The commit, hold, replay anchors, re-sharding and cancels (spec/02 R49 to R51, spec/07 R207, R234 to R236,
spec/08 R254 to R281, spec/11 R367). -/
namespace Sys2Proof.Machine
open Sys2Proof

/-! ### Values after a commit (R207, R254 to R257) -/

/-- The new bias of expert e from the loads of its layer (R207). -/
def newBias (x : ExchEntry) (loads : List Nat) (n : Nat) (e : Nat) (b : F32) : F32 :=
  let tot := sumNat loads
  let l := loads.getD e 0
  let g := dec32 x.gamma
  let sg := if n * l < tot then g else if tot < n * l then vNeg g else vZero
  enc32 (vClamp (vNeg (dec32 x.limit)) (dec32 x.limit) (rAdd (dec32 b) sg))

/-- Router biases after the commit: layers whose ROUTER has `use_bias`, with the loads of the step (R207). -/
def newBiases (j : Job) : List (Nat × List F32) :=
  j.committed.biases.map fun b =>
    match routerOf j b.1, exchOf j b.1, j.loads.find? fun l => decide (l.1 = b.1) with
    | some o, some x, some l =>
      if routerUseBias o then (b.1, b.2.zipIdx.map fun v => newBias x l.2 (routerExperts o) v.2 v.1) else b
    | _, _, _ => b

/-- p1 and p2 of every update group after the step (R257). -/
def newProducts (j : Job) : List (F32 × F32) :=
  (updateOps j).zipIdx.map fun o =>
    let ps := j.committed.products.getD o.2 (0x3F800000, 0x3F800000)
    (enc32 (rMul (dec32 ps.1) (opF32 o.1 8)), enc32 (rMul (dec32 ps.2) (opF32 o.1 12)))

/-- The committed values after the commit of the running step (Table 8.8). -/
def committedAfter (j : Job) (skip : Bool) : Committed :=
  let c := j.committed
  let ls := scaleAfter j skip
  let base : Committed := { c with step := c.step + 1, lsExp := ls.1, cleanRun := ls.2, biases := newBiases j }
  if skip then base
  else { base with optStep := c.optStep + 1, products := newProducts j, version := (c.version + 1) % 2 ^ 32, bank := 1 - c.bank }

/-- Statistics of the step as its commit leaves them (R239, R281). -/
def finalStats (j : Job) (skip : Bool) (after : Committed) : StepStats :=
  let ex (x : ExchStats) : ExchStats :=
    let es := List.range (expertSpan j x.layer j.coord.e).2
    let used := es.filter fun e => decide (0 < expertRows j x.layer e)
    { x with zeroExperts := es.length - used.length, cancelled := j.cancelled.length,
             maxExponent := if fewTokenOn j x.layer then maxNat (used.map (fewToken j x.layer)) else 0 }
  let layers := j.exch.map fun e => (j.stats.exch.find? fun x => decide (x.layer = e.layer)).getD (ExchStats.init e.layer)
  let clips := vLt vZero (dec32 j.hdr.clipNorm)
  { j.stats with skipped := skip, sigma := j.sigma, nextLs := after.lsExp, gradNorm := if clips then j.gradNorm else 0,
                 clipFactor := if clips then j.clipFactor else 0x3F800000, version := after.version, exch := layers.map ex }

/-! ### Far memory of a plan (R252, R264, R363, R369) -/

/-- Whether level 1 exists (R364, Table 11.4). -/
def level1Exists (k : Job) : Bool := (decide (1 < k.lengths.t) || decide (1 < k.lengths.d)) && decide (k.hdr.policy.l1Slots ≠ 0xFF)

/-- Far bytes left of the partition beside its allocations and the staging area. -/
def farLeft (s : State) (f : Nat) (k : Job) : Nat :=
  (fnFar s.flash.partMode f).2 - (sumNat ((fnAt s f).far.map (·.size)) + deviceState k)

/-- `l1_slots` in force: automatic gives 2 when R363 admits 2, else 1; 0xFF when level 1 does not exist (R363, R369). -/
def l1InForce (s : State) (f : Nat) (k : Job) : Nat :=
  if !level1Exists k then 0xFF
  else if k.hdr.policy.l1Slots ≠ 0 then k.hdr.policy.l1Slots
  else if 2 * deviceState k ≤ farLeft s f k then 2 else 1

/-- Far memory that a plan reserves: holding buffer, parking, staging and partner areas (Table 13.10). -/
def planFar (s : State) (f : Nat) (k : Job) : Nat :=
  let l := l1InForce s f k
  let st := roundUp (deviceState k) stripe
  holdingBytes k + parkingBytes + st + (if l = 0xFF then 0 else l * st)

/-- The area that a plan reserves: the lowest hole of the function's far share (log 53). -/
def planAreaOf (s : State) (f : Nat) (k : Job) : Option (Nat × Nat) :=
  let n := planFar s f k
  (findHole (fnFar s.flash.partMode f).1 (fnFar s.flash.partMode f).2 n (fnAt s f).far).map fun a => (a, n)

/-! ### Plan switch (R49, R278, R279) -/

/-- The device's logical coordinate under a map, if it is a member (R334, R360). -/
def coordUnder (s : State) (j : Job) : Option Coord := (boxCoords j.lengths).find? fun c => decide (logicalToPhys j c = selfPhys s)

/-- The logical d of the first retired cursor, which a repaired slab takes again (R383). -/
def retiredPlace (j : Job) : Option Nat := j.chrysalises.head?.bind fun c => c.cursors.findIdx? fun x => x.2

/-- The members of an axis in the order of their logical indices: ascending, from the one that follows the gap in the + direction (R337). -/
def ringOrder (n : Nat) (l : List Nat) : List Nat :=
  let start := match ((List.range n).filter fun i => !l.contains i).getLast? with | some g => g + 1 | none => 0
  sortBy (fun i => (i + n - start) % n) l

/-- Length of the physical axis that carries the D cut. -/
def dPhysOf (s : State) (j : Job) : Nat := coordOn (mapLengths s) (j.axes.getD 3 3)

/-- Slab positions of a longer job: the lowest free positions join; a slab that returns after a shrink takes its old logical d (R337, R383). -/
def slabsGrown (s : State) (j : Job) (d : Nat) : List Nat :=
  let n := dPhysOf s j
  let free := (List.range n).filter fun i => !j.slabs.contains i
  let all := (j.slabs ++ free).take d
  if (retiredPlace j).isSome then ringOrder n all else all

/-- Whether a plan's slabs follow those in force: unchanged, or the lowest warm slab in place of one that leaves; fewer by the last ones, or by
one that leaves, counted from the member after it (R337, R345, R360, R380); more by `slabsGrown`. A slab with a module that drains here is
none of them (R345). -/
def slabsFollow (s : State) (j : Job) (q : List Nat) : Bool :=
  let d := q.length
  let n := dPhysOf s j
  let old := j.slabs
  let leaves := match s.fab.drain with | some (0, _, _) => (some (coordOn (selfPhys s) (j.axes.getD 3 3))) | _ => none
  (match leaves with | some i => !q.contains i | none => true) &&
  (if d = old.length then
     decide (q = old) || (match (if 0 < j.warm then (List.range n).find? fun i => !old.contains i && decide (j.lengths.d ≤ i) else none) with
       | some w => (List.range d).any fun k => decide (q = setNth old k w)
       | none => false)
   else if d < old.length then
     decide (q = old.take d) || (decide (d + 1 = old.length) && (List.range old.length).any fun k => decide (q = old.drop (k + 1) ++ old.take k))
   else decide (q = slabsGrown s j d))

/-- Chrysalises after the D length has grown: a retired cursor is in use again (R383). -/
def resumeCursors (j : Job) (d : Nat) : List Chrysalis :=
  match retiredPlace j with
  | some k => if d ≤ j.slabs.length then j.chrysalises else j.chrysalises.map fun c => { c with cursors := updNth c.cursors k fun x => (x.1, false) }
  | none => j.chrysalises

/-- The policy after a JOB.PLAN: its first four fields as compiled, the others as in force (R362). -/
def mergePolicy (plan now : Policy) : Policy :=
  { now with sentinelShift := plan.sentinelShift, dupShift := plan.dupShift, warmSlabs := plan.warmSlabs, l1Slots := plan.l1Slots }

/-- W after a plan with a new policy, after JOB.RESIZE, or after a warm slab has taken the place of one that leaves (R359 to R361, R427). -/
def warmAfter (s : State) (j : Job) (h : JobHdr) (slabs : List Nat) (dLen : Nat) : Nat :=
  let dPhys := coordOn (mapLengths s) (j.axes.getD 3 3)
  match j.newWarm with
  | some w => min w (dPhys - dLen)
  | none =>
    if decide (slabs.length = j.slabs.length) && !decide (slabs = j.slabs) then j.warm - 1
    else if h.policy.warmSlabs = j.hdr.policy.warmSlabs then j.warm else min (dPhys - dLen) (if h.policy.warmSlabs = 0 then warmDefault (coordSize (mapLengths s)) dPhys else h.policy.warmSlabs)

/-- σ of the running step under the plan in force: `ls_exp` after the commit before the last one when LOSS slices run ahead of the commit, after
the last one otherwise (R254). -/
def sigmaNow (j : Job) : Nat := match j.plan with | some p => if p.scaleLag = 1 then j.lsBefore else j.committed.lsExp | none => j.committed.lsExp

/-- A plan comes into force with the lengths and axes that it was compiled for, the operators that JOB.PLAN read and its far memory. -/
def enterPlan (s : State) (f : Nat) (j : Job) (p : Plan) (v : Nat) : Job :=
  let o := j.nextOps.getD (j.ops, j.hdr)
  let fit0 (l : List OpCount) : List OpCount := (List.range o.1.length).map fun i => l.getD i ⟨0, 0, 0⟩
  let j1 := { j with plan := some p, planVersion := v, next := none, nextOps := none, ops := o.1,
                     hdr := { o.2 with policy := mergePolicy o.2.policy j.hdr.policy },
                     warm := warmAfter s j o.2 p.map.slabs p.map.lengths.d, newWarm := none, lengths := p.map.lengths, axes := p.map.axes, slabs := p.map.slabs, newLengths := none, ranked := none,
                     chrysalises := resumeCursors j p.map.lengths.d, epochs := (List.range p.microBatches).map fun i => j.epochs.getD i 0,
                     counts := fit0 j.counts, countsDone := fit0 j.countsDone, countsBefore := fit0 j.countsBefore }
  let c := coordUnder s j1
  let members := (boxCoords j1.lengths).map (logicalToPhys j1)
  let j2 := { fitBiases j1 with lost := j1.lost.filter (fun p => !members.contains p), coord := c.getD j.coord, sigma := if j.run.isSome && j.commit.isNone then j.sigma else sigmaNow j1, gone := c.isNone || j.left.contains s.flash.serial }
  { j2 with planArea := planAreaOf s f j2, l1Slots := l1InForce s f j2 }

/-- The verified plan that waits comes into force at a commit; its first anchor leaves room for C + Q (R49, R279). -/
def switchPlan (s : State) (f : Nat) (j : Job) : Job :=
  match j.next with
  | some (p, v, true) =>
    let k := enterPlan s f j p v
    let first := p.slices.foldl (fun m sl => min m sl.beat) 0
    let old := match j.anchor, j.plan with | some a, some q => a + q.stepBeats | _, _ => (s.eng.beat : Int)
    let quiet : Int := s.eng.beat + quietWindow s + 1
    let a := max old (quiet - first)
    { k with verified := true, anchor := some a, runStep := j.committed.step, slotBase := a, epochs := k.epochs.map fun e => (e + 1) % 65536,
             running := j.running.filter (fun r => r.slice.reserved), exchanges := [], tags := [], holders := [], workLists := [],
             arrivals := [], collectives := [], nextNonfinite := false }
  | _ => j

/-! ### Stops that fall due (R365, R367) -/

/-- Bytes per µs of the stop's copy (R365). -/
def copyRate (s : State) : Nat := 2400000 / fnCount s.flash.partMode

/-- S_max of the plan in force, the device's own state without one (R365). -/
def stateMax (j : Job) : Nat := match j.plan with | some p => p.map.stateMax | none => deviceState j

/-- T_stop in ns. -/
def stopNs (s : State) (j : Job) : Nat := 6000000 + ceilDiv (stateMax j * 1000) (copyRate s)

/-- Z of R365. -/
def stopBeats (s : State) (j : Job) : Nat := ceilDiv (stopNs s j) s.eng.period

/-- The interval in ms: the policy's, or sqrt(2 × T_stop × M) rounded and clamped (R367). -/
def stopInterval (s : State) (j : Job) : Nat :=
  if j.hdr.policy.l0IntervalMs ≠ 0 then j.hdr.policy.l0IntervalMs
  else
    let m := 1200000 * 65536 / max 1 (jobDevices j)
    clamp 1000 3600000 ((isqrt (4 * (2 * stopNs s j * m / 1000000)) + 1) / 2)

/-- A stop falls due at a commit: by its interval, or after a change of owners (R367). -/
def stopDue (s : State) (j : Job) : Bool :=
  j.ownersChange || decide (j.lastStop + beatsOf s (stopInterval s j * 1000000) ≤ s.eng.beat)

/-! ### The commit beat (R272, Table 8.8) -/

/-- The effective bytes of a command that completes at the plan switch (Table 13.9). -/
def switchReply (j : Job) (c : Cmd) : Reply :=
  if cOp c = 0x0406 then replyOk (natLE 1 j.lengths.d ++ natLE 1 j.warm ++ zeros 6 ++ natLE 4 j.planVersion)
  else replyOk (coordBytes j.lengths ++ zeros 4 ++ natLE 4 j.planVersion)

/-- The 32 bytes of a policy (Table 11.4). -/
def policyBytes (p : Policy) : Bytes :=
  fit 32 (natLE 1 p.sentinelShift ++ natLE 1 p.dupShift ++ natLE 1 p.warmSlabs ++ natLE 1 p.l1Slots ++ natLE 1 p.l2Every
    ++ natLE 1 p.l2Keep ++ natLE 1 p.onLoss ++ natLE 1 p.replayLimit ++ natLE 4 p.l0IntervalMs ++ natLE 4 p.l3IntervalMs)

/-- The reply of SNAP.POLICY (Table 13.12). -/
def policyReply (p : Policy) : Reply := replyRes ((policyBytes p).take 4) (policyBytes p)

/-- The job after the commit of its running step (R254 to R257, R265, R272, R302). -/
def commitJob (j : Job) (ci : CommitInfo) : Job :=
  let after := committedAfter j ci.skip
  let sigma := sigmaNow { j with committed := after, lsBefore := j.committed.lsExp }
  let k := after.step
  { j with
    commit := some { ci with applied := true }, committed := after, lsBefore := j.committed.lsExp, prevBiases := j.committed.biases, holding := [],
    sigma, abortOrigin := none, attempt := 0, abandoned := 0, causes := [], restoredOnce := false,
    history := (finalStats j ci.skip after :: j.history).take 64,
    stats := { j.nextStats with step := k, sigma, version := after.version }, nextStats := StepStats.init (k + 1) after.lsExp after.version,
    nonfinite := j.nextNonfinite, nextNonfinite := false, voted := false, updateOnly := false, updated := [], staged := [], parked := [],
    checks := [], normTotal := none, clipFactor := 0x3F800000, clipKnown := false, gradNorm := 0, loads := [], factor := [],
    accums := j.accums.filter (fun a => decide (k ≤ a.1)), windowsDone := j.windowsDone.filter (fun w => decide (k ≤ w.2.2.2)), barriersDone := [],
    lossParts := j.lossParts.filter fun p => !decide (p.step = j.committed.step % 2 ^ 32), cancelled := [],
    exchanges := j.exchanges.filter (fun x => decide (k ≤ x.step)), workLists := j.workLists.filter (fun w => decide (k ≤ w.step)),
    tags := j.tags.filter (fun t => decide (k ≤ t.1)), arrivals := j.arrivals.filter (fun a => decide (k ≤ a.2.1)),
    countsBefore := j.countsDone, countsDone := j.counts, countedStep := some j.committed.step,
    hdr := match j.policyNext with | some (p, _) => { j.hdr with policy := mergePolicy j.hdr.policy p } | none => j.hdr,
    policyNext := none,
    run := j.run.map fun r => { r with lastCommitted := j.committed.step } }

/-- Hold ends at the commit beat; the timetable resumes at the next one (R51; log 40). -/
def endHold (s : State) (j : Job) : Job :=
  if j.hold.isSome then { shiftPlan s.eng.beat 1 j with hold := none, holdBeats := j.holdBeats + 1 } else j

/-- The effects of a commit at the end of its beat (R272). -/
def commitBeat (s : State) (f : Nat) : State :=
  match jobAt s f with
  | none => s
  | some j =>
    match j.commit with
    | none => s
    | some ci =>
      if ci.applied || decide (s.eng.beat < ci.beat) || j.anchor.isNone then s
      else
        let k := commitJob (endHold s j) ci
        let k1 := if ci.planSwitch then switchPlan s f k else k
        let due := stopDue s k1
        let want := match k1.stopWanted with | some q => some q | none => if due then some none else none
        let k2 := { k1 with stopWanted := want, stopFrom := if want.isSome then some (ci.beat + quietWindow s + 1) else none }
        let s1 := markStep (setJob s f fun _ => k2)
        let s2 := match j.policyNext with
          | some (_, q) => answerOpt s1 q (policyReply k2.hdr.policy)
          | none => s1
        if !ci.planSwitch then s2
        else
          let s3 := j.atSwitch.foldl (fun s q => match flightOf s q with | some fl => answer s fl.cmd (switchReply k2 fl.cmd) | none => s) s2
          startHeldDrain (serveAdmitted (setJob s3 f fun j => { j with atSwitch := [] }))

def execCommitBeat (f : Nat) (s : State) : Host.Outcome State Fault Refusal := .next (commitBeat s f)

/-! ### Rows that move to their new owners (R279; log 60) -/

/-- Where the elements of a shard lie in a bank: base address and bytes per element of the high halves, the low halves and each state part; the
statistics of a factored tensor are none of these. -/
def elemPlanes (j : Job) (region : Nat) (p : ParamEntry) (b : Nat) : List (Nat × Nat) :=
  let w := weightBank region p b
  let state := match groupOp j p with
    | some o =>
      let parts := stateParts j o p
      if paramFrozen p || isFactored o p then []
      else (List.range parts.length).map fun k => (stateBank region p b + partOffset parts k, if updBf16 o && updFamily o < 3 then 2 else 4)
    | none => []
  (w, 2) :: (if j.hdr.weightMode = 0 then [(w + lowOffset (bankElems j p), 2)] else []) ++ state

/-- Address of the factored statistics r and c of a tensor in a bank, where it has them (R259). -/
def factorStats (j : Job) (region : Nat) (p : ParamEntry) (b : Nat) : Option (Nat × Nat) :=
  (groupOp j p).bind fun o =>
    if isFactored o p && !paramFrozen p then some (stateBank region p b, stateBank region p b + partOffset (stateParts j o p) 1) else none

/-- The bytes of one owned row in the current banks: high halves, low halves, state parts, or its entry of r. -/
def rowPayload (m : Memory) (j : Job) (region : Nat) (p : ParamEntry) (i : Nat) : Bytes :=
  let b := currentBank j p
  ((elemPlanes j region p b).map fun q => memRead m (q.1 + q.2 * (i * p.cols)) (q.2 * p.cols)).flatten
    ++ (match factorStats j region p b with | some q => memRead m (q.1 + 4 * i) 4 | none => [])

/-- The bank that a moved part belongs in: that of its version (R265, R279). -/
def movedBank (p : ParamEntry) (version : Nat) : Nat := if paramFrozen p then 0 else version % 2

/-- Stores columns c0 to c0 + n − 1 of local row i from a row of `whole` columns that begins `skip` columns before them. -/
def storeRowPart (s : State) (j : Job) (region : Nat) (p : ParamEntry) (b i c0 n whole skip : Nat) (data : Bytes) : State :=
  let put (a : State × Bytes) (q : Nat × Nat) : State × Bytes :=
    (storeBytes a.1 (q.1 + q.2 * (i * p.cols + c0)) (slice a.2 (q.2 * skip) (q.2 * n)), a.2.drop (q.2 * whole))
  let r := (elemPlanes j region p b).foldl put (s, data)
  match factorStats j region p b with
  | some q => storeBytes r.1 (q.1 + 4 * i) (r.2.take 4)
  | none => r.1

/-- What an item of moved state says before its bytes: version, first logical column, columns, plan version. -/
def movedHead (j : Job) (col n : Nat) : Bytes := natLE 4 j.committed.version ++ natLE 4 col ++ natLE 4 n ++ natLE 4 j.planVersion

/-- Takes a logical row that its old owner has sent, as far as it lies in this device's shard. -/
def takeMovedRow (s : State) (f tensor row : Nat) (b : Bytes) : State :=
  match jobAt s f, paramRegion s f with
  | some j, some r =>
    match j.params.find? fun p => decide (p.tensorId = tensor) with
    | some p =>
      let c := shardCorner j p
      let col := rd b 4 4
      let lo := max col c.2.1
      let hi := min (col + rd b 8 4) (c.2.1 + p.cols)
      if c.1 ≤ row ∧ row < c.1 + (ownRows j p).2 ∧ lo < hi then
        storeRowPart s j r.addr p (movedBank p (rd b 0 4)) (row - c.1) (lo - c.2.1) (hi - lo) (rd b 8 4) (lo - col) (b.drop 16)
      else s
    | none => s
  | _, _ => s

/-- Takes the column statistics c of a factored tensor, of which every owner keeps a full copy (R259, R279). -/
def takeMovedColumns (s : State) (f tensor : Nat) (b : Bytes) : State :=
  match jobAt s f, paramRegion s f with
  | some j, some r =>
    match j.params.find? fun p => decide (p.tensorId = tensor) with
    | some p =>
      let c := shardCorner j p
      let col := rd b 4 4
      let lo := max col c.2.1
      let hi := min (col + rd b 8 4) (c.2.1 + p.cols)
      match factorStats j r.addr p (movedBank p (rd b 0 4)) with
      | some q => if lo < hi then storeBytes s (q.2 + 4 * (lo - c.2.1)) (slice (b.drop 16) (4 * (lo - col)) (4 * (hi - lo))) else s
      | none => s
    | none => s
  | _, _ => s

/-- A member that has just joined takes the scalars and runs from the anchor (R279, R345). -/
def takeJoin (s : State) (f version : Nat) (b : Bytes) : State :=
  setJob s f fun j =>
    if j.gone || j.run.isSome || !decide (j.planVersion = version) then j
    else
      let big : Nat := 2 ^ 64 - 1
      let c0 : Committed := { j.committed with step := rd b 0 8, optStep := rd b 8 8, lsExp := rd b 16 1, version := rd b 20 4, bank := rd b 20 4 % 2,
                                               cleanRun := rd b 24 4 }
      let c := scalarsFrom c0 (b.drop 560)
      let anchor : Option Int := if rd b 32 8 = big then none else some (Int.ofNat (rd b 32 8))
      let j1 := { j with committed := c, lsBefore := rd b 17 1, prevBiases := c.biases, anchor, runStep := c.step, slotBase := anchor.getD 0,
                         epochs := (List.range j.epochs.length).map fun i => rd b (48 + 2 * i) 2, attempt := 0, abandoned := 0, causes := [],
                         stats := StepStats.init c.step c.lsExp c.version, nextStats := StepStats.init (c.step + 1) c.lsExp c.version,
                         run := if anchor.isNone then none else some ⟨rd b 28 4, if rd b 40 8 = big then none else some (rd b 40 8), c.step - 1, s.eng.beat⟩ }
      { j1 with sigma := sigmaNow j1 }

/-- Takes moved state of kind 0 (a row), 5 (scalars) or 6 (column statistics); what belongs to a plan that is not in force here yet waits for it. -/
def takeMoved (s : State) (f tensor kind row : Nat) (data : Bytes) : State :=
  match jobAt s f with
  | none => s
  | some j =>
    let version := if kind = 5 then row else rd data 12 4
    if j.planVersion < version then setJob s f fun j => { j with early := j.early ++ [(tensor, kind, row, data)] }
    else if kind = 0 then takeMovedRow s f tensor row data
    else if kind = 5 then takeJoin s f row data
    else takeMovedColumns s f tensor data

/-- Sends an item of class 3 to a coordinate of the job. -/
def sendParamItem (s : State) (f : Nat) (j : Job) (dst : Coord) (tensor kind row : Nat) (data : Bytes) : State :=
  let body := itemBody ⟨s, f, j, j.committed.step, none, 0⟩ tensor 0 kind row data
  (portsTo s j dst).foldl (fun s q => sendItem s q (itemDesc 3 (hopsTo j dst) f dst body.length) body) s

/-- The coordinates that may own a row of a position's part after a change of shape: the owner along D while the other lengths stay, else every
member, which keeps what is its own. -/
def rowTargets (old j : Job) (row : Option (Nat × Nat)) : List Coord :=
  if old.lengths.e = j.lengths.e ∧ old.lengths.t = j.lengths.t ∧ old.lengths.p = j.lengths.p then
    match row with
    | some q => [{ old.coord with d := blockOwner q.1 j.lengths.d q.2 }]
    | none => (List.range j.lengths.d).map fun d => { old.coord with d }
  else boxCoords j.lengths

/-- Gives moved state to a coordinate: this device takes its own part at once. -/
def giveMoved (s : State) (f : Nat) (j : Job) (kind tensor row : Nat) (data : Bytes) (dst : Coord) : State :=
  if !j.gone && decide (dst = j.coord) then takeMoved s f tensor kind row data
  else sendParamItem s f j dst tensor kind row data

/-- One tensor's rows and column statistics, read from `src` in the old shape, go to their owners in the new one (R279). -/
def moveTensor (src : Memory) (old : Job) (f : Nat) (s : State) (p : ParamEntry) : State :=
  match jobAt s f, paramRegion s f with
  | some j, some r =>
    let c := shardCorner old p
    let o := ownRows old p
    let head := movedHead { old with planVersion := j.planVersion } c.2.1 p.cols
    let s1 := (List.range o.2).foldl (fun s i =>
      (rowTargets old j (some (p.rows, o.1 + i))).foldl
        (giveMoved · f j 0 p.tensorId (c.1 + i) (head ++ rowPayload src old r.addr p i)) s) s
    match factorStats old r.addr p (currentBank old p) with
    | some q =>
      if old.coord.d ≠ 0 then s1
      else (rowTargets old j none).foldl (giveMoved · f j 6 p.tensorId 0 (head ++ memRead src q.2 (4 * p.cols))) s1
    | none => s1
  | _, _ => s

/-- Scalars of the job that a device that joins takes over: Table 8.8's values and the run in progress (R279, R345; log 60). -/
def joinBody (j : Job) : Bytes :=
  let c := j.committed
  let big : Nat := 2 ^ 64 - 1
  natLE 8 c.step ++ natLE 8 c.optStep ++ natLE 1 c.lsExp ++ natLE 1 j.lsBefore ++ zeros 2 ++ natLE 4 c.version ++ natLE 4 c.cleanRun
    ++ natLE 4 (match j.run with | some r => r.req | none => 0)
    ++ natLE 8 (match j.anchor with | some a => a.toNat | none => big) ++ natLE 8 (match j.run.bind (·.last) with | some l => l | none => big)
    ++ fit 512 ((j.epochs.map (natLE 2)).flatten) ++ scalarBytes c

/-- What has waited for the plan that has come into force. -/
def takeEarly (s : State) (f : Nat) : State :=
  match jobAt s f with
  | none => s
  | some j => j.early.foldl (fun s e => takeMoved s f e.1 e.2.1 e.2.2.1 e.2.2.2) (setJob s f fun j => { j with early := [] })

/-- The first old member sends the scalars to every member that was none before (R279, R345). -/
def sendJoins (s : State) (f : Nat) (old : Job) : State :=
  match jobAt s f with
  | none => s
  | some j =>
    let before := (boxCoords old.lengths).map (logicalToPhys old)
    if old.coord ≠ ⟨0, 0, 0, 0⟩ then s
    else ((boxCoords j.lengths).filter fun c => !before.contains (logicalToPhys j c)).foldl
      (fun s c => sendParamItem s f j c 0 5 j.planVersion (joinBody j)) s

/-- The moves after a change of the owner rows, from the job in its shape before it; a device that was no member has nothing to move (R279, R280). -/
def moveRows (s : State) (f : Nat) (old : Job) : State :=
  match jobAt s f with
  | none => s
  | some j =>
    if old.gone || !coordIn old.lengths old.coord then s
    else
      let s1 := sendJoins s f old
      if old.lengths = j.lengths ∧ old.coord = j.coord ∧ !j.gone then s1
      else setJob (j.params.foldl (moveTensor s1.st.mem { old with committed := j.committed } f) s1) f fun j => { j with ownersChange := true }

/-- The job in the shape that it had before a plan switch. -/
def jobBefore (j : Job) (ci : CommitInfo) : Job :=
  { j with lengths := ci.prevLengths, coord := ci.prevCoord, axes := ci.prevAxes, slabs := ci.prevSlabs, plan := ci.prevPlan, gone := ci.prevGone }

/-! ### Irrevocable commits (R273) -/

/-- After beat C + Q: the holding buffer is released, a plan switch moves rows and drains, and a run may end (R273, R279, R345, R430). -/
def commitIrrevocable (s : State) (f : Nat) : State :=
  match jobAt s f with
  | none => s
  | some j =>
    match j.commit with
    | none => s
    | some ci =>
      if !ci.applied || decide (s.eng.beat ≤ ci.beat + quietWindow s) then s
      else
        let s1 := setJob s f fun j => { j with commit := none, run := j.run.map fun r => { r with irrevocableBeat := s.eng.beat } }
        let s2 := if ci.planSwitch then finishDrain (takeEarly (moveRows s1 f (jobBefore j ci)) f) else s1
        match j.run with
        | some r => if r.last = some ci.step then finishRun (setJob s2 f fun j => { j with anchor := none }) f 0 0 else s2
        | none => s2

def execCommitIrrevocable (f : Nat) (s : State) : Host.Outcome State Fault Refusal := .next (commitIrrevocable s f)

/-! ### Hold, replay anchors and cancels (R51, R236, R276) -/

/-- Hold that has lasted `commit_slack_beats` beats abandons the step (R51). -/
def holdExpiry (s : State) (f : Nat) : State :=
  match jobAt s f with
  | none => s
  | some j =>
    match j.hold with
    | some h => if h + j.hdr.commitSlack ≤ s.eng.beat then raiseAbort s f 0x0101 else s
    | none => s

def execHoldExpiry (f : Nat) (s : State) : Host.Outcome State Fault Refusal := .next (holdExpiry s f)

/-- Whether a held shard has a NaN or an infinity (R253). -/
def heldNonfinite (j : Job) : Bool := j.holding.any fun h => h.values.any fun w => !(dec32 w).isFin

/-- Ranges that the plan stages before u0 and that neither the update cache nor the parking area holds (R276; log 168). -/
def rangesToStage (j : Job) (p : Plan) : List (Nat × Nat × Nat) :=
  p.slices.filterMap fun sl => match sl.work with
    | .stageState param e0 n =>
      (match paramAt j param with
       | some q => if sl.beat < p.firstUpdate && !isStaged j q.tensorId e0 n then some (param, e0, n) else none
       | none => none)
    | _ => none

/-- An update-only replay stages anew what the updates of the abandoned attempt have used up (R276; log 168). -/
def stageAgain (s : State) (f : Nat) : State :=
  match jobAt s f with
  | none => s
  | some j =>
    match j.plan with
    | some p => (rangesToStage j p).foldl (fun s q =>
        (stageStateWork ⟨s, f, j, j.committed.step, none, 0⟩ q.1 q.2.1 q.2.2).foldl (applyEffect f j.committed.step) s) s
    | none => s

/-- The replay starts at its anchor beat: update-only from u0 of the step, or full from u0 of the step before (R276). -/
def replayAnchor (s : State) (f : Nat) : State :=
  match jobAt s f with
  | none => s
  | some j =>
    match j.replay, j.plan with
    | some (kind, r), some p =>
      if s.eng.beat < r ∨ j.gone then s
      else
        let a : Int := r - p.firstUpdate + (if kind = 1 then 0 else p.stepBeats)
        let k := { j with replay := none, recovery := .none, anchor := some a, runStep := j.committed.step, slotBase := a, updateOnly := decide (kind = 1),
                          votes := dropCommitVotes j.votes }
        if kind = 1 then stageAgain (setJob s f fun _ => { k with nonfinite := heldNonfinite j || !(dec32 j.gradNorm).isFin }) f
        else setJob s f fun _ =>
          { k with holding := [], staged := [], parked := [], normTotal := none, clipFactor := 0x3F800000, clipKnown := false, gradNorm := 0, loads := [] }
    | _, _ => s

def execReplayAnchor (f : Nat) (s : State) : Host.Outcome State Fault Refusal := .next (replayAnchor s f)

/-- Items of a cancelled micro-batch that have not begun are dropped; one in flight finishes and its result is discarded at the end of the
step (R236). -/
def dropItems (step mb : Nat) (w : WorkList) : WorkList :=
  if w.mb = mb ∧ w.step = step then { w with items := w.items.filter fun i => decide (2 ≤ i.phase) } else w

/-- Holders after a cancel: those of the micro-batch go, but for shards that a slice in progress still reads (R236, R267). -/
def cancelHolders (j : Job) (mb : Nat) : List Holder :=
  let reads (h : Holder) (r : RunSlice) : Bool := r.started && decide (r.step = h.step) && decide (r.slice.mb = some mb) &&
    (match (weightRead j r.slice.work).bind (paramAt j) with | some p => decide (p.tensorId = h.tensor) | none => false)
  j.holders.filter fun h => !(decide (h.mb = mb) && decide (h.step = j.committed.step)) || j.running.any (reads h)

/-- A cancel takes effect: the micro-batch's epoch rises, its waiting slices and items go, and the command completes (R234, R236). -/
def cancelEffective (s : State) (f mb : Nat) : State :=
  match jobAt s f with
  | none => s
  | some j =>
    match j.cancels.find? fun c => decide (c.1 = mb) with
    | none => s
    | some c =>
      if s.eng.beat < c.2.1 then s
      else
        let s1 := setJob s f fun j =>
          { j with cancels := j.cancels.erase c, cancelled := mb :: j.cancelled,
                   epochs := updNth j.epochs mb fun e => (e + 1) % 65536,
                   workLists := j.workLists.map (dropItems j.committed.step mb), holders := cancelHolders j mb,
                   running := j.running.filter fun r => r.started || !cancelledSlice { j with cancelled := [mb] } r.step r.slice }
        answerReq s1 c.2.2 (replyOk (natLE 8 c.2.1 ++ natLE 2 ((j.epochs.getD mb 0 + 1) % 65536)))

def execCancelEffective (f mb : Nat) (s : State) : Host.Outcome State Fault Refusal := .next (cancelEffective s f mb)

end Sys2Proof.Machine
end

