-- ==== Sys2Proof/Machine/Transfers.lean ====
section
/-! DEFINITION. Images of a chrysalis put back into force, and the transfers of a device-loss recovery (spec/11 R376 to R381). -/
namespace Sys2Proof.Machine
open Sys2Proof

/-! ### Sending images (R381) -/

/-- Sends the image of a coordinate to the device that holds the coordinate `dst` now: step record, scalars, banks (log 55). -/
def sendImage (s : State) (f : Nat) (j : Job) (dst who : Coord) (c : Chrysalis) (img : Memory) : State :=
  let k := { j with committed := c.record }
  let send (s : State) (off : Nat) (b : Bytes) : State :=
    let body := chunkBody c.record.step off who b
    (portsTo s j dst).foldl (fun s p => sendItem s p (itemDesc 4 (hopsTo j dst) f dst body.length) body) s
  let s1 := send (send s recordOffset (recordBytes c)) scalarOffset (scalarBytes c.record)
  (bankRanges k).foldl (fun s x => send s x.1 (memRead img x.1 x.2)) s1

/-- The job in the shape that it had before the loss. -/
def oldShape (j : Job) : Job :=
  match j.loss with
  | some l =>
    let old := { j with slabs := l.slabs, axes := l.axes, gone := l.gone }
    if l.lengths = j.lengths then old else { old with lengths := l.lengths, coord := l.coord }
  | none => j

/-- The complete image that this device keeps for the member whose level 1 it holds (R364, R376). -/
def wardImage (j : Job) (step : Nat) : Option Memory := (j.partner.find? fun p => p.complete && decide (p.step = step)).map (·.image)

/-- A device of a leaving slab sends its image and its partner area to its counterpart; the partner of a lost coordinate sends
what it keeps for it (R381). -/
def sendTransfers (s : State) (f : Nat) : State :=
  match jobAt s f with
  | none => s
  | some j =>
    match j.loss, j.restoring with
    | some l, some (_, i, _) =>
      if !j.transfersDue then s
      else
        let s0 := setJob s f fun j => { j with transfersDue := false }
        match j.chrysalises[i]? with
        | none => s0
        | some c =>
          if l.lengths ≠ j.lengths then s0
          else
            let old := { oldShape j with coord := l.coord }
            let ward := wardOf old l.coord
            let img := wardImage j c.record.step
            let leaving := j.gone && coordIn l.lengths l.coord && !j.left.contains s.flash.serial
            let s1 := if leaving then sendImage s0 f j l.coord l.coord c c.image else s0
            let s2 := match img with
              | some m => if leaving then sendImage s1 f j l.coord ward c m else s1
              | none => s1
            match img with
            | some m => if memberGone s j (logicalToPhys old ward) then sendImage s2 f j ward ward c m else s2
            | none => s2
    | _, _ => s

/-! ### Restoring (R376, R378, R381) -/

/-- A job whose committed values come from a step record: it is as at the start of the restored step (R254, R302, R378). -/
def restoredJob (j : Job) (c : Chrysalis) : Job :=
  let k := { j with committed := c.record, sigma := c.record.lsExp, hdr := { j.hdr with seed := c.seed } }
  { clearStepWork k with
    holding := [], holders := [], staged := [], parked := [], lsBefore := c.record.lsExp, prevBiases := c.record.biases, abortOrigin := none,
    normTotal := none, clipFactor := 0x3F800000, clipKnown := false, gradNorm := 0, loads := [], attempt := 0, abandoned := 0, causes := [],
    commit := none, restoring := none, exportGap := true, committedHit := false, holdingHit := false, sentinelHit := false }

/-- Rows of a lost member that this device keeps go to their new owners (R381). -/
def moveWardRows (s : State) (f : Nat) (old : Job) (step : Nat) : State :=
  match jobAt s f, wardImage old step with
  | some j, some m =>
    let ward := wardOf old old.coord
    if memberGone s j (logicalToPhys old ward) then
      let lost := { old with coord := ward, committed := j.committed }
      (j.params.foldl (moveTensor (loadImage s f lost m).st.mem lost f) s)
    else s
  | _, _ => s

/-- The chrysalis to restore: from level 2, what the drive holds (R376, R481). -/
def restoredFrom (s : State) (f level : Nat) (j : Job) (c : Chrysalis) : Chrysalis :=
  if level = 4 then (match driveImage (fnAt s f) c.record.step c.stopBeat with | some b => withImage (oldShape j) c b | none => c) else c

/-- Puts a chrysalis into force; after a shrink its rows then move to their new owners (R378, R381). -/
def restoreInto (s : State) (f : Nat) (c : Chrysalis) : State :=
  match jobAt s f with
  | none => s
  | some j =>
    let old := oldShape j
    let s1 := setJob (loadImage s f { old with committed := c.record } c.image) f fun j => restoredJob j c
    if old.lengths = j.lengths then s1
    else moveWardRows (moveRows s1 f old) f { old with committed := c.record } c.record.step

end Sys2Proof.Machine
end

