-- ==== Sys2Proof/Machine/Beat.lean ====
section
/-! DEFINITION. Beat boundaries, the message phase and the deadline test (spec/02 R29 to R39, R51 to R62, spec/08 R270,
spec/10 R332, R333). -/
namespace Sys2Proof.Machine
open Sys2Proof

/-! ### The beat boundary (R29, R32, R53) -/

/-- Length of a beat in quarters of a ns: the data phase grows by an eighth or a quarter (R53, Table 2.6). -/
def beatQuarters (period level : Nat) : Nat :=
  4 * period + (if level = 0 then 0 else if level = 1 then (period - 1250) / 2 else period - 1250)

/-- Local time in 2^-8 ns, steered by the servo (R32, Table 10.6). -/
def localTime (s : State) : Int := (64 * s.eng.timeQ : Nat) + s.eng.steer

def word64 (i : Int) : Nat := (i % 2 ^ 64).toNat

/-- The SYNC payload of a port (Table 10.6). Its `stretch_floor` is the highest of the sender's own and those that came from below in the
last beat, so that the master hears every device (R57; log 152). -/
def syncPayload (s : State) (x : PortSt) : Bytes :=
  natLE 8 s.eng.beat ++ natLE 8 (word64 (localTime s)) ++ natLE 8 x.tRxLast ++ natLE 8 x.tTxLast ++ natLE 8 (s.eng.master.getD 0)
    ++ natLE 1 s.eng.depth ++ natLE 1 (b2n s.eng.inLock + 2 * b2n s.eng.masterLocked + 4 * b2n s.eng.holdover)
    ++ natLE 1 (max s.eng.ownFloor s.eng.belowLast) ++ natLE 1 s.eng.level ++ natLE 4 s.eng.period

/-- Every port in service sends one SYNC flit (R332). -/
def sendSync (s : State) : State :=
  let ps := (List.range 9).filter fun p => decide ((portAt s p).pstate = 2) || decide ((portAt s p).pstate = 5)
  { s with fab := { s.fab with sent := s.fab.sent ++ ps.map fun p => Sent.sync p (syncPayload s (portAt s p)) } }

/-- The beat engine at a boundary: count, time, the missing SYNC flits and assertions of the beat that ends (R32, R35, R57). -/
def tick (e : BeatEngine) : BeatEngine :=
  { e with beat := e.beat + 1, phase := .sync, timeQ := e.timeQ + beatQuarters e.period e.level,
           missing := if e.upstream.isNone || e.syncSeen then 0 else min 4 (e.missing + 1), syncSeen := false,
           lockBeats := if e.inLock then e.lockBeats + 1 else 0,
           idleBeats := if e.asserted || decide (e.level ≤ e.ownFloor) then 0 else e.idleBeats + 1, asserted := false,
           belowLast := e.below, below := 0, express := [] }

/-- A job at the boundary of beat n: the next step begins, hold goes on, or hold begins (R50, R51). -/
def tickJob (n : Nat) (j : Job) : Job :=
  let j1 := if j.hold.isSome then { shiftPlan (n - 1) 1 j with holdBeats := j.holdBeats + 1 } else j
  match j1.anchor, j1.plan, j1.run with
  | some a, some p, some _ =>
    let j2 := if j1.runStep + 1 = j1.committed.step ∧ a + p.stepBeats ≤ n then
        { j1 with anchor := some (a + p.stepBeats), runStep := j1.runStep + 1 } else j1
    let named := match j2.commit with | some ci => !ci.applied && decide (ci.beat = n) | none => false
    let stopped := match j2.stopEnd with | some e => decide (n < e) | none => false
    if j2.hold.isNone && !stopped && !named && decide (j2.committed.step = j2.runStep) && decide (j2.anchor.map (fun (b : Int) => b + (p.commitPoint : Int)) = some (n : Int)) then
      { j2 with hold := some n }
    else j2
  | _, _, _ => j1

/-- STEP.ABORT completes once its ABORT has reached every device (R39, R430). -/
def abortsDone (s : State) (f : Nat) : State :=
  match jobAt s f with
  | none => s
  | some j =>
    let due (a : Nat × Nat × Nat) : Bool := decide (a.2.1 + quietWindow s ≤ s.eng.beat)
    let s1 := setJob s f fun j => { j with aborting := j.aborting.filter fun a => !due a }
    (j.aborting.filter due).foldl (fun s a => answerReq s a.1 (replyOk (natLE 8 a.2.1 ++ natLE 8 a.2.2))) s1

/-- A beat boundary: the sync phase begins. -/
def beatBoundary (s : State) : State :=
  let s1 := { s with eng := tick s.eng, fns := s.fns.map fun x => { x with job := x.job.map (tickJob (s.eng.beat + 1)) } }
  sendSync (refreshIdents (serveDue (([0, 1, 2, 3] : List Nat).foldl (fun s f => sendTransfers (abortsDone s f) f) s1)))

def execBeatBoundary (s : State) : Host.Outcome State Fault Refusal := .next (beatBoundary s)

/-! ### The message phase (R37, R39, R270) -/

/-- Whether every planned update of the running step has been done, and no check still runs (R270, R355). -/
def updatesDone (j : Job) (p : Plan) : Bool :=
  let done (t e0 n : Nat) : Bool := j.updated.any fun u => decide (u.1 = t) && decide (u.2.1 ≤ e0) && decide (e0 + n ≤ u.2.1 + u.2.2)
  let planned := p.slices.all fun sl => match sl.work with
    | .update param e0 n => (match paramAt j param with | some q => done q.tensorId e0 n | none => true)
    | .updateFactored param => (match paramAt j param with | some q => done q.tensorId 0 ((ownRows j q).2 * q.cols) | none => true)
    | _ => true
  let checks := j.running.any (fun r => match r.slice.work with | .sentinel _ _ _ _ _ _ => true | _ => false)
    || j.workLists.any (fun w => w.items.any fun i => i.check && !decide (i.phase = 3))
  planned && !checks

/-- The commit vote of a beat at or after the planned vote beat (R270). -/
def voteCommit (s : State) (f : Nat) : State :=
  match jobAt s f with
  | none => s
  | some j =>
    match j.plan, j.anchor with
    | some p, some a =>
      if cpDown s 1 || j.voted || j.run.isNone || !decide (j.runStep = j.committed.step) || !decide (a + p.voteBeat ≤ s.eng.beat) || s.eng.suspended || j.gone
          || !updatesDone j p || !holdingComplete j then s
      else castVote (setJob s f fun j => { j with voted := true }) f 1 j.committed.step (1 + 2 * b2n j.nonfinite)
    | _, _ => s

/-- Planned barriers and count exchanges of a beat (R208, R305). -/
def plannedMessages (s : State) (f : Nat) : State :=
  match jobAt s f with
  | none => s
  | some j =>
    match j.plan, j.anchor, j.run with
    | some p, some _, some _ =>
      if j.hold.isSome || inStop s j || !mayRun s j then s
      else
        let steps (b : Int) : List Nat := ([j.runStep, j.runStep + 1] : List Nat).filter fun k => decide (j.committed.step ≤ k) && decide (realBeat j k b = s.eng.beat)
        let s1 := (p.barriers.filter fun b => !(steps b.2).isEmpty).foldl (fun s b => castVote s f 0 b.1 1) s
        (p.exchanges.filter fun x => !x.backward).foldl (fun s x => (steps x.countBeat).foldl (fun s k => sendCounts s f k x.layer x.mb) s) s1
    | _, _, _ => s

/-- What has left on a port in this message phase: all bytes, bytes of priorities 5 to 8, and priorities that wait. -/
structure PortUse where
  port : Nat
  all : Nat
  low : Nat
  waits : List Nat
  deriving DecidableEq, Repr

/-- Whether a message fits on a port: 350,000 bytes, of which priorities above 4 leave 16 KiB free (R37, R39). -/
def fits (u : PortUse) (m : Msg) : Bool :=
  let n := (msgBytes m).length
  !u.waits.contains m.code && decide (u.all + n ≤ 350000) && (decide (m.code ≤ 4) || decide (u.low + n ≤ 350000 - 16384))

def useOf (us : List PortUse) (p : Nat) : PortUse := (us.find? fun u => decide (u.port = p)).getD ⟨p, 0, 0, []⟩

def putUse (us : List PortUse) (u : PortUse) : List PortUse := u :: us.filter fun v => !decide (v.port = u.port)

/-- One message on its ports: what leaves, what waits. -/
def sendOne (acc : List PortUse × List Sent × List (Msg × List Nat)) (q : Msg × List Nat) : List PortUse × List Sent × List (Msg × List Nat) :=
  let n := (msgBytes q.1).length
  let step (a : List PortUse × List Sent × List Nat) (p : Nat) : List PortUse × List Sent × List Nat :=
    let u := useOf a.1 p
    if fits u q.1 then (putUse a.1 { u with all := u.all + n, low := if q.1.code ≤ 4 then u.low else u.low + n }, a.2.1 ++ [.msg p q.1], a.2.2)
    else (putUse a.1 { u with waits := q.1.code :: u.waits }, a.2.1, a.2.2 ++ [p])
  let r := q.2.foldl step (acc.1, acc.2.1, [])
  (r.1, r.2.1, if r.2.2.isEmpty then acc.2.2 else acc.2.2 ++ [(q.1, r.2.2)])

/-- The message phase: planned messages and votes, then the queue by priority; what does not fit waits (R37), and so do EVENT and
FORWARD while CP0 is in reset (R22). -/
def messagePhaseStart (s : State) : State :=
  let s0 := wireAll { s with eng := { s.eng with phase := .sync } }
  let s1 := ([0, 1, 2, 3] : List Nat).foldl (fun s f => voteCommit (plannedMessages s f) f) s0
  let s2 := pumpPayload (dispatchFlights s1)
  let held (q : Msg × List Nat) : Bool := cpDown s2 0 && decide (7 ≤ q.1.code)
  let r := (sortBy (fun q => q.1.code) (s2.eng.queue.filter fun q => !held q)).foldl sendOne ([], [], [])
  let s3 := { s2 with eng := { s2.eng with queue := r.2.2 ++ s2.eng.queue.filter held, phase := .message }, fab := { s2.fab with sent := s2.fab.sent ++ r.2.1 } }
  resendAll (wireAll s3)

def execMessagePhaseStart (s : State) : Host.Outcome State Fault Refusal := .next (messagePhaseStart s)

/-! ### The deadline test (R45, R61, R210, R236) -/

/-- Whether an item of a step has arrived: of a round of a flow, every row that is due (R61; log 61). -/
def itemMet (j : Job) (step : Nat) (i : Item) : Bool :=
  let came := (j.arrivals.filter fun a => decide (a.1 = i) && decide (a.2.1 = step)).length
  let exch (layer mb : Nat) : Option Exchange :=
    j.exchanges.find? fun x => decide (x.layer = layer) && decide (x.mb = mb) && decide (x.step = step)
  let need := match i with
    | .rows layer mb r _ o => (match exch layer mb with | some x => dueRows j x o.e j.coord.e r | none => 0)
    | .returned layer mb r _ o => (match exch layer mb with | some x => dueReturned j x o.e r | none => 0)
    | _ => 1
  decide (need ≤ came)

/-- The micro-batch that an item belongs to. -/
def itemMb : Item → Option Nat
  | .counts _ mb _ => some mb
  | .rows _ mb _ _ _ => some mb
  | .returned _ mb _ _ _ => some mb
  | _ => none

/-- Kind, number and sender of an item, for the TIMEOUT event (R61; log 62). -/
def itemName : Item → Nat × Nat × Coord
  | .counts layer mb o => (0, layer * 65536 + mb, o)
  | .segment t stage _ o => (1, t * 65536 + stage, o)
  | .rows layer mb _ _ o => (2, layer * 65536 + mb, o)
  | .returned layer mb _ _ o => (3, layer * 65536 + mb, o)
  | .data c o => (4, c, o)

/-- Whether an update-only replay has no use for a deadline: it lies before u0, or is about a gradient reduction (R276). -/
def deadlineOmitted (j : Job) (p : Plan) (step : Nat) (d : Deadline) : Bool :=
  j.updateOnly && decide (step = j.committed.step) && (decide (d.beat < p.firstUpdate) ||
    (match d.item with
     | .segment t stage _ _ => (match (collOpOf j t (stage / 256)).bind (collSpec j) with | some sp => sp.gradient | none => false)
     | _ => false))

/-- Deadlines of a beat whose item has not arrived. -/
def missedItems (s : State) (j : Job) : List Item :=
  match j.plan, j.anchor, j.run with
  | some p, some _, some r =>
    if j.hold.isSome || inStop s j || !mayRun s j then []
    else (([j.runStep, j.runStep + 1] : List Nat).filter fun k => decide (j.committed.step ≤ k) &&
        (match r.last with | some l => decide (k ≤ l) | none => true)).flatMap fun k =>
      (p.deadlines.filter fun d => decide (realBeat j k d.beat = s.eng.beat) && !deadlineOmitted j p k d && !itemMet j k d.item &&
        !(decide (k = j.committed.step) && (match itemMb d.item with | some m => j.cancelled.contains m | none => false))).map (·.item)
  | _, _, _ => []

/-- The TIMEOUT event of one missing item, which names it and its sender (R61; log 62). -/
def raiseTimeout (f : Nat) (s : State) (i : Item) : State :=
  let n := itemName i
  raiseFn s f 2 0x0103 (leNat (coordBytes n.2.2)) n.1 n.2.1

/-- The deadline test at the end of a beat: every missing item is a timeout, and the step is abandoned (R61). -/
def deadlineTest (s : State) (f : Nat) : State :=
  match jobAt s f with
  | none => s
  | some j =>
    let l := missedItems s j
    if l.isEmpty then s else raiseAbort (l.foldl (raiseTimeout f) s) f 0x0103

def execDeadlineTest (s : State) : Host.Outcome State Fault Refusal := .next (([0, 1, 2, 3] : List Nat).foldl deadlineTest s)

end Sys2Proof.Machine
end

