-- ==== Sys2Proof/Machine/Power.lean ====
section
/-! DEFINITION. The power manager, thermal limits, standby and power domains (spec/14 R450 to R456; spec/02 R54 to R59; spec/16 R494 to R504). -/
namespace Sys2Proof.Machine
open Sys2Proof

/-! ### The power manager (R453 to R455) -/

/-- Whether the power manager or the limiter runs: main logic on. -/
def managed (s : State) : Bool := s.pow.input && s.pow.standby.isNone && decide (4 ≤ s.pow.stage)

/-- The clock after a sample: R453, and below the floor when the 1 ms mean reaches 1,400 W there (R455). Without that limit the clock
is never held below the floor (R40, R54; log 150). The limiter only lowers. -/
def nextClock (s : State) (r : PowerReading) : Nat :=
  let f := s.pow.clock
  let fl := clockFloor s
  if 1400 ≤ r.meanW ∧ f ≤ fl then f - 25
  else if 1380 < r.sampleW ∨ 95 < r.tMax then max fl (f - 25)
  else if r.sampleW < 1340 ∧ r.tMax < 92 ∧ !s.pow.limiter then max fl (min 1900 (f + 25))
  else if s.pow.limiter then f
  else max fl f

/-- Consecutive samples above 1,380 W with the clock at the floor (R454). -/
def nextHot (s : State) (r : PowerReading) : Nat :=
  if s.pow.clock ≤ clockFloor s ∧ 1380 < r.sampleW then s.pow.hotSamples + 1 else 0

/-- Whether the forecast shows that the plan clock cannot be held (R454, R188). -/
def forecastShort (s : State) (r : PowerReading) (hot : Nat) : Bool :=
  (decide (s.pow.clock ≤ clockFloor s) && (decide (4 ≤ hot) || decide (100 ≤ r.tForecast))) || r.farShort

/-- The lowest level whose floor a clock keeps (R57). -/
def levelOf (s : State) (clock : Nat) : Nat :=
  if floorAt (highClock s) 0 ≤ clock then 0 else if floorAt (highClock s) 1 ≤ clock then 1 else 2

/-- A forecast requests the level above the one in force, unless it is covered (R55, R56). -/
def askStretch (s : State) : State :=
  let want := min 2 (s.eng.level + 1)
  let s1 := { s with pow := { s.pow with stretchAsked := true },
                     eng := { s.eng with requested := max s.eng.requested want, ownFloor := max s.eng.ownFloor want } }
  if want ≤ coveredLevel s then s1
  else requestLevel { s1 with pow := { s1.pow with requests := sat (2 ^ 32 - 1) (s1.pow.requests + 1) } } want

/-- Adds a sample to its second of the system time base (Table 15.5). -/
def addSample (s : State) (r : PowerReading) : State :=
  let n := s.eng.timeNs / 1000000000
  let x := s.pow.second
  let one : SecSum := ⟨n, 1, r.sampleW, s.pow.clock, clockFloor s⟩
  if x.second = n then
    { s with pow := { s.pow with second := ⟨n, x.samples + 1, x.watts + r.sampleW, x.clock + s.pow.clock, x.floor + clockFloor s⟩ } }
  else { s with pow := { s.pow with second := one, lastSecond := if x.second + 1 = n then x else ⟨n - 1, 0, 0, 0, 0⟩ } }

/-- R453 to R455, R59: one sample. -/
def powerSample (s : State) (r : PowerReading) : State :=
  if !managed s then s
  else
    let f := nextClock s r
    let hot := nextHot s r
    let fl := clockFloor s
    let ask := forecastShort s r hot && !s.pow.limiter
    let thr := b2n (decide (1380 < r.sampleW)) + 2 * b2n (decide (95 < r.tMax)) + 4 * b2n s.pow.limiter + 8 * b2n (decide (f < fl))
    let s1 := { s with pow := { s.pow with clock := f, hotSamples := hot, reading := r, peakW := max s.pow.peakW r.meanW, throttle := thr,
                                           stretchAsked := ask || (s.pow.stretchAsked && decide (s.eng.level < s.eng.ownFloor)) } }
    let s2 := addSample { s1 with eng := { s1.eng with ownFloor := max (levelOf s1 f) (if s1.pow.stretchAsked then s1.eng.ownFloor else 0) } } r
    let s3 := if ask then askStretch s2 else s2
    if f < fl ∧ fl ≤ s.pow.clock then abortAll (raiseDev s3 0 2 0x0105 0 f 0) 0x0105 else s3

def execPowerSample (r : PowerReading) (s : State) : Host.Outcome State Fault Refusal := .next (powerSample s r)

/-! ### Standby (R456, R494) -/

/-- A molt that standby ends stays incomplete: the function is off until the next device reset molts it again (R486, R488). -/
def breakMolts (s : State) : State :=
  ([0, 1, 2, 3] : List Nat).foldl (fun s f =>
    if (fnAt s f).molt.isSome then
      freeDrives (setFn s f fun x => { x with molt := none, failed := true, l2Key := none, hashKey := none }) f
    else s) s

/-- Latches a standby cause in bits [9:8] with bit 2 (Table 16.5). -/
def latchStandby (s : State) (cause : Nat) : State :=
  latchAlerts { s with face := { s.face with alerts := s.face.alerts &&& ~~~(0x300 : BitVec 32) } } (BitVec.ofNat 32 (4 + 256 * cause))

/-- R456: fault, ABORT for every running step, everything off but the always-on domain. -/
def enterStandby (s : State) (cause : Nat) : State :=
  if !s.pow.input || s.pow.standby.isSome then s
  else
    let s1 := abortAll (raiseDev s 0 2 0x0901 0 cause 0) 0x0901
    let s2 := clearDevice (releaseAlerts (breakMolts s1))
    let s3 := { s2 with
      mbx := resetMailbox s2.mbx,
      fab := { s2.fab with ports := s2.fab.ports.map fun x => { x with power := false } },
      pow := { s2.pow with standby := some cause, domains := [], state := 0, stage := 3, resetWaits := false, selftest := none,
                           hotSamples := 0, stretchAsked := false, cpReset := [], frozen := [] },
      flash := { s2.flash with staging := none, activation := none } }
    latchStandby s3 cause

/-- Critical limit of a sensor (Table 14.8). -/
def criticalAt (sensor : Nat) : Int := if sensor ≤ 4 then 110 else if sensor ≤ 12 then 100 else if sensor ≤ 20 then 105 else 50

def noteTemp (s : State) (sensor : Nat) (t : Int) : State := { s with pow := { s.pow with temps := insertK s.pow.temps sensor t } }

def execThermalCritical (sensor : Nat) (celsius : Int) (s : State) : Host.Outcome State Fault Refusal :=
  .next (let s1 := noteTemp s sensor celsius
         if criticalAt sensor ≤ celsius then enterStandby s1 0 else s1)

/-- Regulation and stretch figures of Table 14.8; the coolant has no stretch figure. -/
def regulationAt (sensor : Nat) : Int := if sensor ≤ 4 then 95 else if sensor ≤ 20 then 85 else 40

def stretchFigure (sensor : Nat) : Option Int :=
  if sensor ≤ 4 then none else if sensor ≤ 12 then some 92 else if sensor ≤ 20 then some 95 else none

/-- R456, R188: a sensor passes its regulation figure: doubled refresh or a warning, alert bit 3, and a stretch request at
the stretch figure. -/
def thermalWarning (s : State) (sensor : Nat) (t : Int) : State :=
  let memory := decide (5 ≤ sensor) && decide (sensor ≤ 20)
  let s1 := noteTemp s sensor t
  if !managed s then s1
  else if t ≤ regulationAt sensor then { s1 with st := { s1.st with doubled := s1.st.doubled.filter fun x => !decide (x = sensor) } }
  else
    let s2 := if memory && !s1.st.doubled.contains sensor then { s1 with st := { s1.st with doubled := s1.st.doubled ++ [sensor] } } else s1
    let s3 := setAlert (raiseDev s2 0 1 0x0902 sensor (t % 2 ^ 32).toNat 0) 3
    match stretchFigure sensor with
    | some k => if k ≤ t ∧ !s3.pow.limiter then askStretch s3 else s3
    | none => s3

def execThermalWarning (sensor : Nat) (celsius : Int) (s : State) : Host.Outcome State Fault Refusal :=
  .next (thermalWarning s sensor celsius)

/-- R496: a low level of 100 µs on LEAK_N; the module's own sense drives it low at once. -/
def leakAsserted (s : State) (own : Bool) (us : Nat) : State :=
  let s1 := if own && s.pow.input then { s with pow := { s.pow with leakDrive := true } } else s
  if 100 ≤ us then enterStandby s1 (if own then 1 else 2) else s1

def execLeakNAsserted (own : Bool) (us : Nat) (s : State) : Host.Outcome State Fault Refusal := .next (leakAsserted s own us)

/-- R496: after 10 s of dry sense the module releases its own drive. -/
def execLeakSenseDry (s : State) : Host.Outcome State Fault Refusal := .next { s with pow := { s.pow with leakDrive := false } }

/-- R502: below 46.0 V for 1 ms. -/
def execInputUndervoltage (millivolts us : Nat) (s : State) : Host.Outcome State Fault Refusal :=
  .next (if millivolts < 46000 ∧ 1000 ≤ us then enterStandby s 3 else s)

/-- R504: the hot-swap controller has opened. -/
def execHotswapFault (s : State) : Host.Outcome State Fault Refusal := .next (enterStandby s 3)

/-! ### Power domains (R450, R451, R190) -/

/-- Domains that the device wants on and that are off. -/
def missingDomains (s : State) : List Nat :=
  (List.range 93).filter fun d => domainWanted s d && !s.pow.domains.contains d && !(decide (80 ≤ d) && decide (d ≤ 88))

/-- The result of JOB.LOAD once its domains are on (R426, R451). -/
def loadReply (j : Job) : Reply := replyOk j.digest8

/-- R190, R451: domains finish switching on; far memory enters service, and the commands that waited complete. -/
def domainSwitchedOn (s : State) (ds : List Nat) : State :=
  if !managed s then s
  else
    let new := ds.filter fun d => domainWanted s d && !s.pow.domains.contains d
    let s1 := { s with pow := { s.pow with domains := sortBy id (s.pow.domains ++ new.eraseDups) } }
    let groups := (List.range 8).all fun g => s1.pow.domains.contains (72 + g)
    let loaded := s1.fns.any fun x => x.job.isSome
    let s2 := if groups && loaded then { s1 with st := { s1.st with farState := 2 } } else s1
    if (missingDomains s2).isEmpty then
      ([0, 1, 2, 3] : List Nat).foldl (fun s f =>
        match jobAt s f with
        | some j =>
          match j.loading with
          | some q => answerReq (setJob s f fun j => { j with loading := none }) q (loadReply j)
          | none => s
        | none => s) s2
    else s2

def execDomainSwitchedOn (domains : List Nat) (s : State) : Host.Outcome State Fault Refusal := .next (domainSwitchedOn s domains)

/-- Table 14.7: the flash controller switches off 10 s after the last level-2 write or restore. -/
def execFlashIdleOff (s : State) : Host.Outcome State Fault Refusal :=
  .next (
    let busy := s.fns.any fun x => match x.job with
      | some j => j.l2Busy || (match j.restoring with | some (_, _, lv) => bit lv 2 | none => false)
      | none => false
    if busy then s else { s with pow := { s.pow with domains := s.pow.domains.filter fun d => !decide (d = 95) } })

end Sys2Proof.Machine
end

