-- ==== Sys2Proof/Machine/Boot.lean ====
section
/-! DEFINITION. Power, cold boot, MOD_RST_N and self-test (spec/14 R446, R457, R458; spec/15 R466 to R470; spec/16 R492 to R495). -/
namespace Sys2Proof.Machine
open Sys2Proof

/-! ### Power input -/

/-- A function without power: tenant, key and drives are in flash; a molt that was running leaves no key (R488, Table 14.4). -/
def coldFn (x : FnSt) : FnSt :=
  { FnSt.init with lastTenant := x.lastTenant, molted := x.molted && !x.failed && x.molt.isNone && x.tenant.isEmpty,
                   l2Key := if x.molt.isSome then none else x.l2Key,
                   drives := if x.molt.isSome then [] else x.drives }

/-- The module without power: flash and drives keep their contents, the model's own traces stay (R446, R488). -/
def coldState (s : State) : State :=
  let r := State.reset
  { r with
    pending := s.pending,
    free := s.free,
    fns := s.fns.map coldFn,
    flash := { s.flash with runB := false, staging := none, activation := none, unlockedOnce := false, unlocked := false },
    mbx := { r.mbx with hostOut := s.mbx.hostOut, notices := s.mbx.notices },
    fab := { r.fab with sent := s.fab.sent, wired := s.fab.wired },
    face := { r.face with ibis := s.face.ibis, i3cOut := s.face.i3cOut },
    sec := { r.sec with nextSession := s.sec.nextSession, nextKey := s.sec.nextKey, spdmOut := s.sec.spdmOut },
    pow := { r.pow with input := false } }

/-- The input falls below the level at which the always-on domain runs. -/
def execPowerLoss (s : State) : Host.Outcome State Fault Refusal := .next (coldState s)

/-- R457, R492, R504: 54 V starts cold boot, which reads SLOT_ID in stage 1. -/
def powerApplied (s : State) (slotId : Nat) : State :=
  if s.pow.input then
    (if s.pow.stage = 1 then { s with pow := { s.pow with slotId := slotId % 16 } } else s)
  else { s with pow := { s.pow with input := true, slotId := slotId % 16 } }

def execPowerApplied (slotId : Nat) (s : State) : Host.Outcome State Fault Refusal := .next (powerApplied s slotId)

/-! ### Boot stages (Table 14.10) -/

/-- DEV_STATUS `state` becomes 5, with alert bit 1 (R458). -/
def failBoot (s : State) : State := setAlert { s with pow := { s.pow with state := 5 } } 1

/-- Whether a slot's image is valid: its verification and R466's rollback rule. -/
def slotValid (s : State) (ok : Bool) (img : Option Image) : Bool :=
  ok && (match img with | some i => decide (s.flash.counter ≤ i.svn) | none => false)

/-- Stage 3: slot A, then slot B, then the configuration record (R458, R468, R470). -/
def bootVerify (s : State) (f : BootFind) : State :=
  let a := slotValid s f.slotAValid s.flash.slotA
  let b := slotValid s f.slotBValid s.flash.slotB
  if !(a || b) || !f.configValid then failBoot s
  else
    let s1 := { s with flash := { s.flash with runB := !a, aliasGen := s.flash.aliasGen + 1 } }
    if s1.pow.rstHeld then { s1 with pow := { s1.pow with state := 4 } }
    else { s1 with pow := { s1.pow with stage := 4, domains := [93] } }

/-- Stage 5: the self-test zeroes memories and finds failing cores and rows (R458, Table 14.4). -/
def bootSelftest (s : State) (f : BootFind) : State :=
  let cores := (f.failures.filter fun x => decide (x.kind = 0)).map (·.index)
  dropDomains { s with
    st := { s.st with mem := [], bad := [], cores := [], partials := [], bist := cores },
    pow := { s.pow with unrepaired := f.unrepaired || f.failures.any fun x => decide (x.kind = 3), stage := 6 } }

/-- Stage 9: adoption of the system's beat count, or own mastership (R32, R35). -/
def bootSync (s : State) (adopted : Option (Nat × Nat)) : State :=
  let s1 := { s with pow := { s.pow with stage := 10 } }
  match adopted with
  | some (beat, master) => { s1 with eng := { s1.eng with beat, master := some master, depth := 1, inLock := true, lockBeats := 0 } }
  | none =>
    if s1.eng.master.isSome then { s1 with eng := { s1.eng with inLock := true, lockBeats := 0 } }
    else { s1 with eng := { s1.eng with beat := if s.pow.state = 0 then 0 else s1.eng.beat,
                                        timeQ := if s.pow.state = 0 then 0 else s1.eng.timeQ,
                                        master := some s.flash.serial, depth := 0, upstream := none, inLock := true, lockBeats := 0 } }

/-- Stage 10: READY. The running image's `svn` raises the counter (R467); functions that a reset must molt start to (R486). -/
def bootReady (s : State) : State :=
  let svn := match (if s.flash.runB then s.flash.slotB else s.flash.slotA) with | some i => i.svn | none => 0
  let st := if anyShort s || s.pow.unrepaired then 2 else 1
  let s1 := { s with pow := { s.pow with state := st, standby := none },
                     flash := { s.flash with counter := max s.flash.counter svn },
                     face := { s.face with ibis := s.face.ibis ++ [1] } }
  ([0, 1, 2, 3] : List Nat).foldl (fun s f =>
    if ((fnAt s f).confidential || (fnAt s f).failed) && fnExists s f then startMolt s f none 2 else s) (setAlert s1 0)

/-- R457, R458: a stage completes and the next begins; the far-memory training of a cold boot repairs the listed rows (R189). -/
def bootStageComplete (s : State) (f : BootFind) : State :=
  if !s.pow.input || s.pow.standby.isSome || !(decide (s.pow.state = 0) || decide (s.pow.state = 4)) || s.pow.resetWaits then s
  else
    let n := s.pow.stage
    if n = 3 then (if s.pow.state = 4 then s else bootVerify s f)
    else if n = 5 then bootSelftest s f
    else if n = 6 then let s1 := recomputeSpares s; { s1 with pow := { s1.pow with stage := 7 } }
    else if n = 7 then
      let s1 := if s.pow.state = 0 then repairRows s else s
      trainAll { s1 with st := { s1.st with farState := 1 },
                         pow := { s1.pow with stage := 8, domains := sortBy id (s1.pow.domains ++ (List.range 8).map (72 + ·)) } }
    else if n = 9 then bootSync s f.adopted
    else if n = 10 then bootReady s
    else { s with pow := { s.pow with stage := n + 1 } }

def execBootStageComplete (f : BootFind) (s : State) : Host.Outcome State Fault Refusal := .next (bootStageComplete s f)

/-- R458: a stage from 1 to 7 that misses its time fails the boot; stages 8 and 9 end at their times. -/
def bootStageTimeout (s : State) : State :=
  if !s.pow.input || s.pow.standby.isSome || !(decide (s.pow.state = 0) || decide (s.pow.state = 4)) || s.pow.rstHeld || s.pow.resetWaits then s
  else if s.pow.stage ≤ 7 then failBoot s
  else if s.pow.stage = 8 then { s with pow := { s.pow with stage := 9 } }
  else if s.pow.stage = 9 then bootSync s none
  else s

def execBootStageTimeout (s : State) : Host.Outcome State Fault Refusal := .next (bootStageTimeout s)

/-! ### MOD_RST_N (R446, R493, R495) -/

/-- A low level of at least 1 ms resets the device by force; molts run first (Table 14.13). -/
def modRstAssert (s : State) (us : Nat) : State :=
  if us < 1000 ∨ !s.pow.input then s
  else
    let s1 := { s with pow := { s.pow with rstHeld := true } }
    if s1.pow.standby.isSome || decide (s1.pow.stage < 4) then s1 else requestReset s1

def execModRstAssert (us : Nat) (s : State) : Host.Outcome State Fault Refusal := .next (modRstAssert s us)

/-- Release runs stages 4 to 10, unless a standby condition still holds (R495). -/
def modRstRelease (s : State) (still : Option Nat) : State :=
  if !s.pow.rstHeld then s
  else
    let s1 := { s with pow := { s.pow with rstHeld := false } }
    let go (s : State) : State :=
      { s with pow := { s.pow with stage := 4, state := 4, standby := none, domains := [93],
                                   readyBy := s.eng.beat + beatsOf s 57000000000 } }
    match s1.pow.standby, still with
    | some _, some k => latchStandby { s1 with pow := { s1.pow with standby := some k } } k
    | some _, none => go s1
    | none, some k => enterStandby s1 k
    | none, none => if s1.pow.stage = 3 ∧ s1.pow.state = 4 then go s1 else s1

def execModRstRelease (still : Option Nat) (s : State) : Host.Outcome State Fault Refusal := .next (modRstRelease s still)

/-! ### DEV.SELFTEST (R421) -/

/-- R421: failing items are listed, the spare map is applied again, the axes are re-ranked, and the command completes. -/
def selftestComplete (s : State) (failures : List FailItem) : State :=
  match s.pow.selftest with
  | none => s
  | some (req, scope) =>
    let was := anyShort s
    let s1 := failures.foldl (fun s x => if x.kind ≤ 2 then listFailure s ⟨x.kind, x.index, x.addr⟩ else s) s
    let s2 := applyShort (recomputeSpares { s1 with pow := { s1.pow with selftest := none } })
    let s3 := ([0, 1, 2, 3] : List Nat).foldl (fun s f => if loadedState (fnState s f) then s else loseCores s f)
      (dropDomains (if bit scope 3 then rerank s2 else s2))
    let s4 := if anyShort s3 && !was then leaveAll s3 0x0201 else s3
    let res := (failures.map fun x => natLE 1 x.kind ++ natLE 4 x.index ++ natLE 8 x.addr ++ zeros 3).flatten
    answerReq s4 req (replyRes (natLE 4 failures.length ++ natLE 1 scope) res)

def execSelftestComplete (failures : List FailItem) (s : State) : Host.Outcome State Fault Refusal := .next (selftestComplete s failures)

end Sys2Proof.Machine
end

