-- ==== Sys2Proof/Machine/Fn.lean ====
section
/-! DEFINITION. FN commands and the ends of resets and molts (spec/13 R423, R424; spec/14 R443, R447; spec/15 R485, R486). -/
namespace Sys2Proof.Machine
open Sys2Proof

/-- Whether a new mode gives every near allocation to the function that holds it (R423). -/
def nearStays (s : State) (mode : Nat) : Bool :=
  (List.range 4).all fun f => (fnAt s f).near.all fun l =>
    decide (f < fnCount mode) && (fnDies mode f).contains ((l.addr - nearBase) / nearDie)

/-- R423, R440, R462. -/
def fnPartition (s : State) (c : Cmd) : State :=
  let mode := cArg c 32 1
  let quiet := (List.range 4).all fun f => fnState s f ≤ 1
  let envOk := !((s.env.running || s.env.booting) && decide (fnCount mode < s.env.func))
  unlessRefused s c (mode ≤ 2) 4 32 <|
  unlessRefused s c (quiet && envOk && nearStays s mode) 2 0xFFFF <|
  let s1 := (List.range 4).foldl (fun s f => if fnCount mode ≤ f then unconfigure s (f + 1) else s) s
  answer (dropDomains { s1 with flash := { s1.flash with partMode := mode } }) c (replyOk (natLE 1 mode))

def execFnPartition (c : Cmd) (s : State) : Host.Outcome State Fault Refusal :=
  .next (startCmd s c fun s => fnPartition s c)

/-- R387, R412, R423: configures ring pair n = `function`, whose counters start once the completion is written; a disable waits for the pair's
commands in flight. A command that another device forwards configures at once: no completion is written here. -/
def fnEnable (s : State) (c : Cmd) : State :=
  let n := cFunction c
  unlessRefused s c (n ≠ 0) 2 8 <|
  unlessRefused s c (cArg c 50 1 ≤ 1) 4 50 <|
  if cArg c 50 1 = 1 then
    let slots := pow2Up (clamp 8 256 (cArg c 48 2))
    let far := match flightOf s c.req with | some f => f.bridge.isSome | none => false
    let s1 := setRing s n fun r =>
      { r with configured := far, enabling := if far then none else some c.req, cmdBase := cArg c 32 8, cplBase := cArg c 40 8, slots, cmdHead := 0, cmdTail := 0,
               cplHead := 0, cplTail := 0, busy := [] }
    answer s1 c (replyOk (natLE 2 slots ++ [1]))
  else if s.mbx.flights.any (fun f => f.bridge.isNone && decide (f.cmd.ring = n)) then s
  else answer (setRing s n fun r => { r with configured := false, enabling := none, slots := 0 }) c (replyOk [0, 0, 0])

def execFnEnable (c : Cmd) (s : State) : Host.Outcome State Fault Refusal :=
  .next (startCmd s c fun s => fnEnable s c)

/-- R423, R475, R476, R480: names a tenant and the mode of an idle compute function, and draws its level-2 key. -/
def fnAssign (s : State) (c : Cmd) : State :=
  let f := cIx c
  let tenant := slice c.desc 32 16
  let conf := decide (cArg c 48 1 = 1)
  unlessRefused s c (1 ≤ cFunction c && cFunction c ≤ 4) 2 8 <|
  unlessRefused s c (cArg c 48 1 ≤ 1) 4 48 <|
  needState s c [1] <|
  unlessRefused s c (!(conf && s.flash.unlocked) && (conf || !(fnAt s f).confidential)) 2 48 <|
  unlessRefused s c ((fnAt s f).molted || decide ((fnAt s f).lastTenant = tenant)) 0x0A 32 <|
  let s1 := setFn s f fun x =>
    { x with tenant, lastTenant := tenant, molted := false, confidential := conf, l2Key := some (drawnKey s.sec.nextKey) }
  let s2 := { s1 with sec := { s1.sec with nextKey := s1.sec.nextKey + 1 } }
  answer (refreshCrypto (freeDrives s2 f)) c (replyOk (natLE 1 (b2n conf) ++ zeros 7 ++ tenant.take 8))

def execFnAssign (c : Cmd) (s : State) : Host.Outcome State Fault Refusal :=
  .next (startCmd s c fun s => fnAssign s c)

/-- Codes of the ports over which a plan carries collectives (R303). -/
def collectivePorts (j : Job) : List Nat :=
  match j.plan with
  | some p => ((p.slices.filterMap fun sl => match sl.work with | .sendStage _ _ _ _ _ port _ _ => some port | _ => none).eraseDups)
  | none => []

/-- The function-reset header on every port that carries the function's collectives (R303, Table 9.4 flags bit 1). -/
def sendResetHeaders (s : State) (f : Nat) : State :=
  match jobAt s f with
  | none => s
  | some j =>
    let head := natLE 8 0 ++ natLE 1 2 ++ natLE 1 j.attempt ++ zeros 2 ++ coordBytes j.coord ++ zeros 12 ++ natLE 4 (j.committed.step % 2 ^ 32)
    (collectivePorts j).foldl (fun s code => sendItem s (portIndex code) (natLE 1 1 ++ natLE 1 (f + 1) ++ zeros 14) head) s

/-- Tells the other members that this function leaves the job with its reset (R445; log 27). -/
def announceReset (s : State) (f : Nat) : State :=
  match jobAt s f with
  | none => s
  | some j =>
    if j.gone then s
    else
      let s1 := sendMsg s (intactPorts s) 1 f (abortBody j functionLeft)
      { s1 with eng := { s1.eng with abortsSeen := (originOf s f, s.eng.beat) :: s1.eng.abortsSeen } }

/-- Bounds of Table 14.5 and Table 14.3 in ns. -/
def resetBound (n : Nat) : Nat :=
  if n ≤ 4 then 40000000 else if n = 5 then 5000000 else if n = 6 then 20000000 else if n = 7 then 5000000 else 100000000

/-- The staging window loses what it holds of the commands that a condition names; one with a chunk in the window completes with
FAILED (Tables 14.5 and 15.7). -/
def emptyWindow (s : State) (p : Flight → Bool) : State :=
  let reqs := (s.mbx.flights.filter p).map (·.cmd.req)
  let inWindow := s.mbx.chunks.map (·.req)
  let s1 := failFlights s fun x => p x && inWindow.contains x.cmd.req && !decide (x.phase = .final)
  { s1 with mbx := { s1.mbx with chunks := s1.mbx.chunks.filter fun k => !reqs.contains k.req,
                                 pieces := s1.mbx.pieces.filter fun x => !reqs.contains x.1 } }

/-- R443 and Table 14.5 at acceptance: what stops at once. -/
def beginReset (s : State) (n : Nat) (req : Option Nat) (molt : Bool) : State :=
  let info : ResetInfo := ⟨s.eng.beat + beatsOf s (resetBound n + (if molt then 2500000000 else 0)), req, molt⟩
  if n ≤ 4 then
    let f := n - 1
    let s1 := failFlights s fun x => decide (x.cmd.ring = n) && !decide (x.phase = .final)
    let s2 := finishRun (announceReset (sendResetHeaders (stopEnvOf s1 f) f) f) f 7 0
    let s3 := setJob (dropPartials s2 f) f fun j => { dropStop (clearStepWork j) with running := [], anchor := none, recovery := .none }
    setFn s3 f fun x => { x with reset := some info }
  else
    let s1 :=
      if n = 5 then failFlights s fun x => decide (cCat x.cmd = 7) && !decide (x.phase = .final)
      else if n = 6 then
        ([0, 1, 2, 3] : List Nat).foldl (fun s f =>
          let s1 := match jobAt s f with
            | some j => match j.restoring with
              | some (q, _, lv) => if bit lv 2 then answerOpt (setJob s f fun j => { j with restoring := none }) q (replyFailed 0 []) else s
              | none => s
            | none => s
          setJob s1 f fun j => { j with l2Busy := false }) s
      else if n = 7 then
        let s1 := emptyWindow s fun _ => true
        { s1 with mbx := { s1.mbx with chunks := [], pieces := [] } }
      else stopEnv s
    { s1 with env := { s1.env with resets := s1.env.resets ++ [(n, info)] } }

/-- R423, R443, R447. -/
def fnReset (s : State) (c : Cmd) : State :=
  let n := cFunction c
  let molt := decide (cArg c 32 1 = 1)
  unlessRefused s c (n ≠ 0) 2 8 <|
  unlessRefused s c (cArg c 32 1 ≤ 1) 4 32 <|
  if 1 ≤ n ∧ n ≤ 4 ∧ fnState s (n - 1) = 0 then answer s c (replyRefused s c 2 0xFFFF)
  else beginReset (answer s c (replyAccepted [])) n (some c.req) (molt && n ≤ 4)

def execFnReset (c : Cmd) (s : State) : Host.Outcome State Fault Refusal :=
  .next (startCmd s c fun s => fnReset s c)

/-- R423, R484: a molt of an idle function. -/
def fnMolt (s : State) (c : Cmd) : State :=
  unlessRefused s c (1 ≤ cFunction c && cFunction c ≤ 4) 2 8 <|
  needState s c [1] <|
  startMolt (answer s c (replyAccepted [])) (cIx c) (some c.req) 0

def execFnMolt (c : Cmd) (s : State) : Host.Outcome State Fault Refusal :=
  .next (startCmd s c fun s => fnMolt s c)

/-- The parts of Table 14.3 of a compute function, then its molt when asked for; Table 14.5 of F5 to F8. Index 0 is F1. -/
def fnResetComplete (s : State) (fn : Nat) : State :=
  if fn < 4 then
    match (fnAt s fn).reset with
    | none => s
    | some r =>
      let s1 := clearFar (clearSram (clearNear s fn) fn) fn false
      let s2 := setFn (unconfigure s1 (fn + 1)) fn fun x => { x with job := none, reset := none }
      let s3 := endSessions (dropDomains (farOffIfUnused s2)) fun n => n = fn + 2
      if r.molt then startMolt s3 fn r.req 1
      else answerOpt s3 r.req (replyOk (natLE 8 s.eng.beat))
  else
    match s.env.resets.find? (fun x => decide (x.1 = fn + 1)) with
    | none => s
    | some (n, r) =>
      let s1 := endSessions (unconfigure { s with env := { s.env with resets := s.env.resets.filter fun x => !decide (x.1 = n) } } n)
        fun k => k = n + 1
      answerOpt s1 r.req (replyOk (natLE 8 s.eng.beat))

def execFnResetComplete (fn : Nat) (s : State) : Host.Outcome State Fault Refusal := .next (fnResetComplete s fn)

/-- The work of Table 15.7 parts before `upto`, counted from 1 (R485). -/
def moltWork (s : State) (f upto : Nat) : State :=
  let s1 := if 2 < upto then freeDrives (setFn s f fun x => { x with l2Key := none, hashKey := none }) f else s
  let s2 := if 3 < upto then clearSram s1 f else s1
  let s3 := if 4 < upto then clearNear s2 f else s2
  let s4 := if 5 < upto then clearFar s3 f true else s3
  if 6 < upto then stopEnvOf (emptyWindow s4 fun x => decide (x.cmd.ring = f + 1)) f else s4

/-- R424, R485, R486: closes a molt, or leaves the function off when a part failed. -/
def moltEnd (s : State) (f : Nat) (failedPart : Option Nat) : State :=
  match (fnAt s f).molt with
  | none => s
  | some m =>
    let s1 := moltWork s f (failedPart.getD 100)
    let s2 := match failedPart with
      | none =>
        let s2 := setFn s1 f fun x =>
          { x with molt := none, tenant := [], confidential := false, molted := true, failed := false, job := none }
        raiseFn s2 f 0 0x0802 (f + 1) 0 0
      | some p =>
        let s2 := setFn s1 f fun x => { x with molt := none, failed := true, job := none }
        raiseFn s2 f 3 0x0704 (f + 1) p 0
    let s3 := endSessions (refreshCrypto (dropDomains (farOffIfUnused s2))) fun n => n = f + 2
    let s4 := answerOpt s3 m.req (if failedPart.isNone then replyOk (natLE 8 s.eng.beat) else replyFailed 0 [])
    if molting s4 then s4
    else
      let s4 := { s4 with pow := { s4.pow with frozen := [] } }
      let s5 := releaseAlerts s4
      let s6 := if s5.fab.safeHeld then reportSafe s5 else s5
      if s6.pow.resetWaits then deviceReset s6 else s6

def execMoltEnd (fn : Nat) (failedPart : Option Nat) (s : State) : Host.Outcome State Fault Refusal :=
  .next (moltEnd s fn failedPart)

end Sys2Proof.Machine
end

