-- ==== Sys2Proof/Machine/Mem.lean ====
section
/-! DEFINITION. MEM commands (spec/13 R425, spec/06 R174 to R176, R181, R198). -/
namespace Sys2Proof.Machine
open Sys2Proof

/-- The die in which a near allocation goes, and its address (Table 13.7). -/
def placeNear (s : State) (f die n : Nat) : Option Nat :=
  let dies := if die = 0xFF then fnDies s.flash.partMode f else [die]
  dies.findSome? fun d => findHole (nearBase + d * nearDie) nearDie n (fnAt s f).near

/-- The far memory that the plan in force holds (Table 13.10; log 53). -/
def planHeld (s : State) (f : Nat) : List Alloc :=
  match jobAt s f with
  | some j => j.planArea.toList.map fun a => ⟨a.1, a.2, false⟩
  | none => []

/-- The bytes of a new far allocation: what an earlier allocation of the function left, or zero (R444). -/
def leftOver (s : State) (a n : Nat) : State :=
  let (k, s1) := drawFree s
  { s1 with st := { s1.st with mem := s1.st.mem.filter fun c => !(decide (a ≤ c.1) && decide (c.1 < a + n)) || Config.farKept k c.1 } }

/-- R175, R176, R181, R242, R444. -/
def memAlloc (s : State) (c : Cmd) : State :=
  let f := cIx c
  let tier := cArg c 32 1
  let die := cArg c 33 1
  let param := bit (cArg c 34 1) 0
  let n := stripes (cArg c 40 8)
  let ok (a : Nat) (s : State) : State := answer s c (replyOk (natLE 8 a ++ natLE 8 n))
  unlessRefused s c (tier < 2) 4 32 <|
  unlessRefused s c (!(param && tier = 0)) 0x0D 34 <|
  needState s c (if tier = 0 then [1, 2, 3, 4] else [2, 3, 4]) <|
  if tier = 0 then
    unlessRefused s c (die = 0xFF || (fnDies s.flash.partMode f).contains die) 0x0C 33 <|
    match placeNear s f die n with
    | some a => ok a (setFn s f fun x => { x with near := sortBy (fun l => l.addr) (⟨a, n, false⟩ :: x.near) })
    | none => answer s c (replyRefused s c 6 40)
  else
    unlessRefused s c (!(param && (paramRegion s f).isSome)) 2 0xFFFF <|
    match findHole (fnFar s.flash.partMode f).1 (fnFar s.flash.partMode f).2 n ((fnAt s f).far ++ planHeld s f) with
    | some a => ok a (leftOver (setFn s f fun x => { x with far := sortBy (fun l => l.addr) (⟨a, n, param⟩ :: x.far) }) a n)
    | none => answer s c (replyRefused s c 6 40)

def execMemAlloc (c : Cmd) (s : State) : Host.Outcome State Fault Refusal :=
  .next (startCmd s c fun s => memAlloc s c)

/-- Whether the range of the running environment lies in an allocation of F(f + 1) (R437). -/
def envHolds (s : State) (f : Nat) (l : Alloc) : Bool :=
  (s.env.running || s.env.booting) && decide (s.env.func = f + 1) && overlaps l.addr l.size s.env.addr (max 1 s.env.size)

/-- An address that a host command of function f names: reserved addresses are ABSENT, SRAM and another function's memory are refused with
reason 0x0C at the address field (R173, R174, R176). -/
def withAddress (s : State) (c : Cmd) (f a : Nat) (body : State) : State :=
  let r := regionOf a
  if r = .reserved then answer s c (replyAbsent a ⟨255, 255, 255, 255⟩ 255)
  else unlessRefused s c ((r = .near || r = .far) && ownsAddr s f a) 0x0C 40 body

/-- Table 13.7: frees an allocation that starts at the address. -/
def memFree (s : State) (c : Cmd) : State :=
  let f := cIx c
  let a := cArg c 40 8
  needState s c [1, 2, 3] <|
  withAddress s c f a <|
  match ((fnAt s f).near ++ (fnAt s f).far).find? fun l => decide (l.addr = a) with
  | none => answer s c (replyAbsent a ⟨255, 255, 255, 255⟩ 255)
  | some l =>
    unlessRefused s c (!(l.param && (jobAt s f).isSome)) 2 0xFFFF <|
    unlessRefused s c (!envHolds s f l) 2 0xFFFF <|
    let keep (y : Alloc) : Bool := !decide (y.addr = a)
    answer (setFn s f fun x => { x with near := x.near.filter keep, far := x.far.filter keep }) c (replyOk (natLE 8 l.size))

def execMemFree (c : Cmd) (s : State) : Host.Outcome State Fault Refusal :=
  .next (startCmd s c fun s => memFree s c)

/-- The address tests of MEM.WRITE and MEM.READ (R173, R174, R176, R425). -/
def withRange (s : State) (c : Cmd) (a n : Nat) (body : State) : State :=
  withAddress s c (cIx c) a <| unlessRefused s c (inOneAlloc s (cIx c) a n) 0x0C 40 body

/-- R198, R247: stores the payload. -/
def memWriteCmd (s : State) (c : Cmd) : State :=
  let a := cArg c 40 8
  let b := fit (cPayLen c) c.payload
  needState s c [1, 2, 3, 4] <|
  withRange s c a b.length <|
  match badPartial s a b.length with
  | some w => answer s c (replyFailed 0 (natLE 8 w))
  | none => answer (clearLows (storeBytes s a b) (cIx c) a b) c (replyOk (natLE 8 b.length))

def execMemWrite (c : Cmd) (s : State) : Host.Outcome State Fault Refusal :=
  .next (startCmd s c fun s => memWriteCmd s c)

/-- Bytes that a read delivers: the whole length without a named area, else what the area holds (R414). -/
def deliveredLen (c : Cmd) (n : Nat) : Nat := if cArg c 48 8 = 0 then n else min n (cArg c 56 8)

/-- Table 13.7, R198. -/
def memReadCmd (s : State) (c : Cmd) : State :=
  let n := clamp 1 (2 ^ 63) (cArg c 32 8)
  let a := cArg c 40 8
  needState s c [1, 2, 3, 4] <|
  withRange s c a n <|
  match badIn s a n with
  | some w => answer (countError s 0) c (replyFailed 0 (natLE 8 w))
  | none => answer s c (replyRes (natLE 8 (deliveredLen c n)) (memRead s.st.mem a n))

def execMemRead (c : Cmd) (s : State) : Host.Outcome State Fault Refusal :=
  .next (startCmd s c fun s => memReadCmd s c)

/-- R408: clamped to 1 to 8 MiB, rounded up to a power of two; waits for the chunks in flight (log entry 11). -/
def memWindowCmd (s : State) (c : Cmd) : State :=
  if s.mbx.chunks.isEmpty then
    let w := pow2Up (clamp (2 ^ 20) (2 ^ 23) (cArg c 32 8))
    answer { s with mbx := { s.mbx with window := w } } c (replyOk (natLE 8 w))
  else s

def execMemWindow (c : Cmd) (s : State) : Host.Outcome State Fault Refusal :=
  .next (startCmd s c fun s => memWindowCmd s c)

end Sys2Proof.Machine
end

