-- ==== Sys2Proof/Machine/HostEnv.lean ====
section
/-! DEFINITION. HOST commands, environment events and watchdogs (spec/13 R436, R437; spec/14 R449; spec/15 R479). -/
namespace Sys2Proof.Machine
open Sys2Proof

/-- Cores that an environment gets now: cluster 1 only while a plan compiles or the function is confidential (R23, R479). -/
def envCores (s : State) (f cores : Nat) : Nat :=
  if compilingAny s || (fnAt s f).confidential then min cores 16 else cores

/-- R436, R437. -/
def hostEnvStart (s : State) (c : Cmd) : State :=
  let n := cArg c 32 1
  let cores := clamp 1 32 (cArg c 33 1)
  let a := cArg c 40 8
  let size := cArg c 48 8
  let inNear := (fnAt s (n - 1)).near.any fun l => decide (l.addr ≤ a) && decide (a + size ≤ l.addr + l.size) && decide (0 < size)
  unlessRefused s c (1 ≤ n && n ≤ 4) 4 32 <|
  if !fnExists s (n - 1) then answer s c (replyAbsent 0 ⟨255, 255, 255, 255⟩ n)
  else
    unlessRefused s c (s.flash.envImage.isSome && !(s.env.running || s.env.booting)) 2 0xFFFF <|
    withAddress s c (n - 1) a <|
    unlessRefused s c inNear 0x0C 40 <|
    let s1 := answer s c (replyAccepted (natLE 1 (envCores s (n - 1) cores) ++ natLE 1 cores))
    { s1 with env := { s1.env with booting := true, func := n, cores, addr := a, size, req := some c.req } }

def execHostEnvStart (c : Cmd) (s : State) : Host.Outcome State Fault Refusal :=
  .next (startCmd s c fun s => hostEnvStart s c)

/-- R436: the environment signals boot; a newer image raises its anti-rollback counter (R467). -/
def envBooted (s : State) : State :=
  if !s.env.booting then s
  else
    let svn := match s.flash.envImage with | some i => i.svn | none => 0
    let req := s.env.req
    let s1 := { s with env := { s.env with booting := false, running := true, req := none },
                       flash := { s.flash with envCounter := max s.flash.envCounter svn } }
    answerOpt s1 req (replyOk (natLE 1 (envCores s (s.env.func - 1) s.env.cores) ++ natLE 1 s.env.cores))

def execEnvBooted (s : State) : Host.Outcome State Fault Refusal := .next (envBooted s)

/-- The beat of acceptance of a command: that of its fetch (R62, R402). -/
def acceptBeat (s : State) (c : Cmd) : Nat := match flightOf s c.req with | some f => f.fetchBeat | none => s.eng.beat

/-- R436: the environment stops at the end of the grace time, counted from the beat of acceptance (R62). -/
def hostEnvStop (s : State) (c : Cmd) : State :=
  let grace := clamp 0 60000 (cArg c 32 4)
  if !(s.env.running || s.env.booting) then answer s c (replyOk (natLE 8 s.eng.beat))
  else if grace = 0 then answer (stopEnv s) c (replyOk (natLE 8 s.eng.beat))
  else
    let s0 := if s.env.booting then answerOpt s s.env.req (replyFailed 0 []) else s
    let s1 := setFlight s0 c.req fun f => { f with phase := .interim }
    { s1 with env := { s1.env with graceEnd := some (acceptBeat s c + beatsOf s (grace * 1000000)), req := some c.req, booting := false,
                                   running := true } }

def execHostEnvStop (c : Cmd) (s : State) : Host.Outcome State Fault Refusal :=
  .next (startCmd s c fun s => hostEnvStop s c)

/-- R436: the grace time ends; stopping answers the pending HOST.ENV_STOP. -/
def execEnvGraceExpiry (s : State) : Host.Outcome State Fault Refusal :=
  .next (if s.env.graceEnd.isSome then stopEnv s else s)

/-- R449: the environment arms its watchdog, 10 ms to 10 s, or disarms it with 0. -/
def execEnvWatchdogArm (periodMs : Nat) (s : State) : Host.Outcome State Fault Refusal :=
  .next (if s.env.running then
      { s with env := { s.env with watchdogMs := if periodMs = 0 then 0 else clamp 10 10000 periodMs } }
    else s)

/-- R449: F8 reset and a CP_WATCHDOG event with `subject` 8. -/
def execEnvWatchdogExpiry (s : State) : Host.Outcome State Fault Refusal :=
  .next (if s.env.watchdogMs = 0 then s
    else
      let s1 := raiseDev (stopEnv s) 8 1 0x0204 8 0 0
      { s1 with env := { s1.env with resets := s1.env.resets ++ [(8, ⟨s.eng.beat + beatsOf s 100000000, none, false⟩)] } })

end Sys2Proof.Machine
end

