-- ==== Sys2Proof/Machine/Sync.lean ====
section
/-! DEFINITION. Time synchronisation, election, lock and membership (spec/02 R32 to R36, spec/10 R328, R332, spec/11 R358, R383). -/
namespace Sys2Proof.Machine
open Sys2Proof

/-! ### SYNC flits (R332) -/

/-- A 64-bit difference as a signed number (R332). -/
def signed64 (i : Int) : Int :=
  let m := i % 2 ^ 64
  if m < 2 ^ 63 then m else m - 2 ^ 64

/-- The offset of R332 from the four timestamps, (t2 − t1) − (t4 − t3) in units of 2^-9 ns: halved in its unit, not in its value. -/
def offsetOf (t1 t2 t3 t4 : Nat) : Int := signed64 ((t2 : Int) - t1) - signed64 ((t4 : Int) - t3)

/-- ±100 ns in units of 2^-9 ns (R34). -/
def lockRange : Nat := 51200

/-- One servo move in 2^-8 ns: toward the upstream partner and not past it (R32, R332). -/
def servoMove (beat : Nat) (o : Int) : Int :=
  let n : Int := min (o.natAbs / 2) (Config.servoStep beat o)
  if o < 0 then -n else n

/-- Bookkeeping of lock: three consecutive bad sync phases leave it at LOCK_LOST; a good one gains it (R34). -/
def lockStep (e : BeatEngine) (o : Int) : BeatEngine :=
  if lockRange < o.natAbs then { e with badSyncs := min 3 (e.badSyncs + 1) }
  else { e with badSyncs := 0, inLock := true, lockBeats := if e.inLock then e.lockBeats else 0 }

/-- SYNC_DEPTH when the depth of the sync tree rises above 80 hops (R33). -/
def setDepth (s : State) (d : Nat) : State :=
  let s1 := { s with eng := { s.eng with depth := d } }
  if 80 < d ∧ s.eng.depth ≠ d then raiseDev s1 5 1 0x0502 0 d 0 else s1

/-- The part of a SYNC flit that comes from the upstream neighbour: master, depth, offset, servo, lock (R32 to R34). -/
def upstreamSync (s : State) (b : Bytes) (t4 : Nat) : State :=
  let o := offsetOf (rd b 24 8) (rd b 16 8) (rd b 8 8) t4
  let s1 := setDepth { s with eng := { s.eng with syncSeen := true, missing := 0, master := some (rd b 32 8),
                                                  masterLocked := bit (rd b 41 1) 1, holdover := bit (rd b 41 1) 2 } } (min 255 (rd b 40 1 + 1))
  if rd b 24 8 = 0 then s1
  else { s1 with eng := lockStep { s1.eng with offset := o, steer := s1.eng.steer + servoMove s.eng.beat o } o }

/-- A device without an upstream port takes the first port that brings its master's time (R32; log 63). -/
def takesUpstream (s : State) (b : Bytes) : Bool :=
  s.eng.upstream.isNone && !isMaster s && (s.eng.master.isNone || decide (s.eng.master = some (rd b 32 8)))

/-- A device that has joined takes the base period in force from its upstream neighbour (R31, Table 10.6; log 30). -/
def adoptPeriod (s : State) (b : Bytes) : State :=
  if s.eng.lockBeats < Config.lockBeats && s.eng.periodPending.isNone && !jobLoaded s then
    refreshLambda { s with eng := { s.eng with period := periodInForce (rd b 44 4) } }
  else s

/-- The assertion in a header: it counts against the level in force, and what comes from below goes on upward (R57; log 152). -/
def noteFloor (e : BeatEngine) (b : Bytes) : BeatEngine :=
  { e with asserted := e.asserted || (decide (0 < e.level) && decide (e.level ≤ rd b 42 1)),
           below := if e.depth < rd b 40 1 then max e.below (min 2 (rd b 42 1)) else e.below }

/-- A SYNC flit on a port with its 48 payload bytes and the local arrival time (R57, R323, R332). -/
def syncFlit (s : State) (p : Nat) (b : Bytes) (t4 : Nat) : State :=
  let x := portAt s p
  let s1 := setPort s p fun x => { x with tRxLast := t4 % 2 ^ 64, tTxLast := rd b 8 8 }
  if x.pstate = 1 ∧ x.stage = 8 then setPort s1 p fun x => { x with syncRun := min 16 (x.syncRun + 1) }
  else if x.pstate ≠ 2 ∧ x.pstate ≠ 5 then s
  else
    let s2 := if takesUpstream s b && decide (p ≠ 8) then { s1 with eng := { s1.eng with upstream := some p } } else s1
    let s3 := if s2.eng.upstream = some p then adoptPeriod (upstreamSync s2 b t4) b else s2
    { s3 with eng := noteFloor s3.eng b }

def execSyncFlit (p : Nat) (b : Bytes) (t4 : Nat) (s : State) : Host.Outcome State Fault Refusal := .next (syncFlit s p b t4)

/-! ### The sync tree and election (R35) -/

/-- Four beats without a SYNC flit: the firmware rebuilds the tree, or the device holds over until a new master is elected (R35). -/
def upstreamLoss (s : State) (reachable : Bool) (up : Option Nat) (depth : Nat) : State :=
  if s.eng.missing < 4 ∨ s.eng.upstream.isNone then s
  else
    let s1 := { s with eng := { s.eng with missing := 0, syncSeen := false } }
    if reachable then setDepth { s1 with eng := { s1.eng with upstream := up } } depth
    else { s1 with eng := { s1.eng with upstream := none, holdover := true } }

def execUpstreamLoss (reachable : Bool) (up : Option Nat) (depth : Nat) (s : State) : Host.Outcome State Fault Refusal :=
  .next (upstreamLoss s reachable up depth)

/-- Whether candidate a is better than b (Table 2.2). -/
def betterMaster (a b : Candidate) : Bool :=
  if a.locked ≠ b.locked then a.locked
  else if a.priority ≠ b.priority then decide (a.priority < b.priority)
  else decide (a.serial < b.serial)

def ownCandidate (s : State) : Candidate :=
  ⟨decide (s.eng.refMode ≠ 0) && s.eng.refSignal && s.eng.refLocked, s.eng.priority, s.flash.serial⟩

def electMaster (s : State) (others : List Candidate) : Candidate :=
  others.foldl (fun a b => if betterMaster b a then b else a) (ownCandidate s)

/-- Hops from this device to a module of the map, and the port of the first one (R32). -/
def treeTo (s : State) (serial : Nat) : Option (Nat × Nat) :=
  (s.fab.map.bind fun m => m.modules.find? fun x => decide (x.serial = serial)).bind fun x =>
    (routeTo s x.phys).map fun p =>
      (portIndex p, sumNat (([0, 1, 2, 3] : List Nat).map fun a =>
        (shortWay (coordOn (mapLengths s) a) (coordOn (selfPhys s) a) (coordOn x.phys a) (lineGap s a)).1))

/-- The election completes: the best device by Table 2.2 is master, and holdover ends (R35). -/
def electionComplete (s : State) (others : List Candidate) : State :=
  let w := electMaster s others
  let e := { s.eng with master := some w.serial, masterLocked := w.locked, holdover := false, missing := 0, syncSeen := false }
  if w.serial = s.flash.serial then
    setDepth { s with eng := { e with upstream := none, offset := 0, badSyncs := 0, inLock := true } } 0
  else match treeTo s w.serial with
    | some (p, d) => setDepth { s with eng := { e with upstream := some p } } d
    | none => setDepth { s with eng := { e with upstream := (intactPorts s).head? } } 1

/-- R35, R31: the election, then the requests for a period that the lost master has not answered. -/
def execMasterElectionComplete (others : List Candidate) (s : State) : Host.Outcome State Fault Refusal :=
  .next (renewAsks (electionComplete s others))

/-! ### Lock (R34, R358) -/

/-- Three consecutive sync phases beyond ±100 ns: out of lock, a fault, the step is abandoned, the device is suspended (R34). -/
def lockLost (s : State) : State :=
  if !s.eng.inLock || decide (s.eng.badSyncs < 3) then s
  else
    let s1 := { s with eng := { s.eng with inLock := false, lockBeats := 0, suspended := true, lockAbort := some s.eng.beat } }
    abortAll (raiseDev s1 5 2 0x0501 0 0 0) 0x0501

def execLockLost (s : State) : Host.Outcome State Fault Refusal := .next (lockLost s)

/-- 4,096 beats after the ABORT without lock: the device leaves its jobs (R358). -/
def lockWindowExpiry (s : State) : State :=
  match s.eng.lockAbort with
  | some b =>
    if s.eng.inLock || decide (s.eng.beat < b + Config.lockWindow) then s
    else leaveAll { s with eng := { s.eng with lockAbort := none, suspended := false } } 0x0501
  | none => s

def execLockWindowExpiry (s : State) : Host.Outcome State Fault Refusal := .next (lockWindowExpiry s)

/-- 1,024 beats back in lock: the suspension ends and the abandoned steps are replayed (R34). -/
def suspensionEnd (s : State) : State :=
  if s.eng.suspended && s.eng.inLock && decide (Config.lockBeats ≤ s.eng.lockBeats) then
    ([0, 1, 2, 3] : List Nat).foldl voteReplay { s with eng := { s.eng with suspended := false, lockAbort := none } }
  else s

def execSuspensionEnd (s : State) : Host.Outcome State Fault Refusal := .next (suspensionEnd s)

/-! ### Membership (R328, R383) -/

/-- A module that has returned to a job and held lock for 1,024 beats (R383): in its old place it counts as a member and the plans
recompile; its slab becomes warm again where W is short; else the D cut grows by one at the plan switch. -/
def memberAfterLock (s : State) (f : Nat) : State :=
  match jobAt s f with
  | none => s
  | some j =>
    if !s.eng.inLock || decide (s.eng.lockBeats < Config.lockBeats) || s.eng.suspended || !j.gone || s.fab.safe then s
    else
      let me := coordOn (selfPhys s) (j.axes.getD 3 3)
      let dPhys := coordOn (mapLengths s) (j.axes.getD 3 3)
      let w := if j.hdr.policy.warmSlabs = 0 then warmDefault (coordSize (mapLengths s)) dPhys else j.hdr.policy.warmSlabs
      let s1 := { s with fab := { s.fab with map := s.fab.map.map fun m => { m with gone := m.gone.filter fun g => !decide (g = s.flash.serial) } } }
      let s2 := setJob s1 f fun j => { j with left := j.left.filter fun g => !decide (g = s.flash.serial), ownersChange := true }
      if j.slabs.contains me then recompileJob (setJob s2 f fun j => { j with gone := false }) f
      else if j.warm < w then setJob s2 f fun j => { j with warm := j.warm + 1 }
      else setJob s2 f fun j =>
        { beginCompile j none with newLengths := some { j.lengths with d := j.lengths.d + 1 } }

def execMemberAfterLock (f : Nat) (s : State) : Host.Outcome State Fault Refusal := .next (memberAfterLock s f)

end Sys2Proof.Machine
end

