-- ==== Sys2Proof/Machine/Messages.lean ====
section
/-! DEFINITION. Control messages and items as they arrive (spec/02 R37 to R39, R47, R56, R63, R64, spec/07 R209, spec/09 R304 to R309,
spec/10 R319, spec/12 R403 to R409). -/
namespace Sys2Proof.Machine
open Sys2Proof

/-- The compute function index that a message names (log 26). -/
def msgFn (m : Msg) : Nat := m.sub - 1

/-- Intact direction ports other than the one of arrival (R308). -/
def otherPorts (s : State) (p : Nat) : List Nat := (intactPorts s).filter fun q => !decide (q = p)

/-- Whether a processor in reset holds the duty that a message asks for: CP1 commits, barriers and plans, CP0 events and forwarding
(R22, Table 1.10; log 151). -/
def messageHeld (s : State) (code : Nat) : Bool :=
  (cpDown s 1 && (code = 3 || code = 4 || code = 6)) || (cpDown s 0 && (code = 7 || code = 8))

/-- A message whose duty is held waits for the processor (R22). -/
def unlessHeld (s : State) (code p : Nat) (m : Msg) (taken : State) : State :=
  if messageHeld s code then { s with mbx := { s.mbx with cpHeld := s.mbx.cpHeld ++ [(code, p, m)] } } else taken

/-! ### ABORT (R63, R64, R302, R308) -/

/-- Reason of an ABORT that ends a run: STEP.ABORT with `stop` (R430; log 27). -/
def stopReason : Nat := 0x10000

/-- Serial of the live module at a physical coordinate. -/
def serialAt (s : State) (c : Coord) : Option Nat := ((liveModules s).find? fun m => decide (m.phys = c)).map (·.serial)

/-- Whether an ABORT's reason says that its origin, or the origin's function alone, has left the job (R358, R445; log 27). -/
def leaveReason (r : Nat) : Bool := decide (r = 0x0601) || decide (r = functionLeft)

/-- The map and the job after an ABORT that says that its origin has left the job (R358, R445; log 27). -/
def abortLoss (s : State) (f : Nat) (j : Job) (m : Msg) : State :=
  let reason := rd m.body 12 4
  let who := logicalToPhys j m.origin
  if reason = 0x0601 then
    match serialAt s who with
    | some n => markLost s n
    | none => s
  else if reason = functionLeft then setJob s f fun j => { j with lost := if j.lost.contains who then j.lost else who :: j.lost }
  else s

/-- An ABORT at one job: it abandons the step that it names, or the step after it when it comes after the commit (R63, R64). A step
that is abandoned already is voted on anew only for a further loss (Table 11.10); where no step runs, recovery from a loss begins (R446). -/
def abortJob (s : State) (f : Nat) (m : Msg) : State :=
  match jobAt s f with
  | none => s
  | some j =>
    let step := rd m.body 4 8
    let reason := rd m.body 12 4
    let open_ := match j.commit with | some ci => ci.applied && decide (step + 1 = j.committed.step) | none => false
    if rd m.body 0 4 ≠ rd j.digest8 0 4 then s
    else
      let s1 := abortLoss s f j m
      let hit := match jobAt s1 f with | some k => !(lostD s1 k).isEmpty | none => false
      if leaveReason reason && j.run.isNone && hit then startLoss s1 f
      else if !(decide (step = j.committed.step) || open_) then s1
      else if j.anchor.isNone && decide (reason ≠ stopReason) then
        if leaveReason reason ∧ j.run.isSome then voteReplay (setJob s1 f fun j => { j with recovery := .voting, replay := none }) f
        else s1
      else abandonStep s1 f reason m.beat (decide (reason = stopReason))

/-- A received ABORT: the first copy goes on over every other intact port and takes effect here (R308). -/
def takeAbort (s : State) (p : Nat) (m : Msg) : State :=
  if s.eng.abortsSeen.contains (m.origin, m.beat) then s
  else
    let s1 := { s with eng := { s.eng with abortsSeen := (m.origin, m.beat) :: s.eng.abortsSeen } }
    abortJob (emitMsg s1 (otherPorts s1 p) m) (msgFn m) m

def execAbort (p : Nat) (m : Msg) (s : State) : Host.Outcome State Fault Refusal := .next (takeAbort s p m)

/-! ### STRETCH (R31, R55 to R58) -/

/-- A request or host floor reaches the master and is merged there, or goes on upstream; an announcement is kept and goes on. -/
def takeStretch (s : State) (p : Nat) (m : Msg) : State :=
  let l := min 2 (rd m.body 0 1)
  let kind := rd m.body 1 1
  let b := rd m.body 8 8
  if 3 ≤ kind then takePeriod s p m (otherPorts s p)
  else if kind = 1 then
    if s.eng.levelPending.contains (l, b) || decide (b ≤ s.eng.beat) then s
    else
      let s1 := { s with eng := { s.eng with levelPending := s.eng.levelPending.filter (fun q => !decide (q.2 = b)) ++ [(l, b)] } }
      emitMsg s1 (otherPorts s1 p) m
  else if isMaster s then
    if kind = 2 then setHostFloor s l
    else requestLevel { s with eng := { s.eng with requested := max l s.eng.requested } } l
  else emitMsg s (s.eng.upstream.toList.filter fun q => !decide (q = p)) m

def execStretch (p : Nat) (m : Msg) (s : State) : Host.Outcome State Fault Refusal := .next (takeStretch s p m)

/-! ### COMMIT and BARRIER (R271, R275, R304, R305) -/

def takeCommit (s : State) (m : Msg) : State := acceptCommit (passCommit s (msgFn m) m) (msgFn m) m.body

def execCommit (p : Nat) (m : Msg) (s : State) : Host.Outcome State Fault Refusal := .next (unlessHeld s 3 p m (takeCommit s m))

/-- A vote from a child's subtree, or the result from the parent (R304). -/
def takeBarrier (s : State) (m : Msg) : State :=
  match jobAt s (msgFn m) with
  | none => s
  | some j =>
    let id := rd m.body 0 4
    let vote := rd m.body 4 4
    if barrierParent s j j.coord = some m.origin then passResult s (msgFn m) id vote
    else if (barrierKids s j j.coord).contains m.origin then recordVote s (msgFn m) id m.origin vote
    else s

def execBarrier (p : Nat) (m : Msg) (s : State) : Host.Outcome State Fault Refusal := .next (unlessHeld s 4 p m (takeBarrier s m))

/-! ### COUNTS (R209) -/

/-- A COUNTS message goes on in its direction of travel, in the message phase in which it comes, and enters the matrix. -/
def countsArrive (s : State) (p : Nat) (m : Msg) : State :=
  match jobAt s (msgFn m) with
  | none => s
  | some j =>
    let dir := if p < 4 then 1 else 0
    let n := max 1 j.lengths.e
    let hops := if dir = 0 then (j.coord.e + n - m.origin.e) % n else (m.origin.e + n - j.coord.e) % n
    let ports := countPort j m.origin.e dir hops
    let s1 := if ports.isEmpty then s
      else if s.eng.phase = .message then { s with fab := { s.fab with sent := s.fab.sent ++ ports.map fun q => Sent.msg q m } }
      else emitMsg s ports m
    takeCounts s1 (msgFn m) m

def execCounts (p : Nat) (m : Msg) (s : State) : Host.Outcome State Fault Refusal := .next (countsArrive s p m)

/-! ### PLAN (R47) -/

/-- This device's digest of a plan version. -/
def ownDigest (j : Job) (version : Nat) : Option Bytes :=
  match j.next with
  | some (p, v, _) => if v = version then some p.digest else if j.planVersion = version then j.plan.map (·.digest) else none
  | none => if j.planVersion = version then j.plan.map (·.digest) else none

/-- The verification vote on a reference digest, once that version is compiled here and CP1 is up (R22): no dissent, or one dissenting device of this rank (Table 9.5). -/
def voteVerify (s : State) (f version : Nat) (ref : Bytes) : State :=
  match jobAt s f with
  | none => s
  | some j =>
    match (if cpDown s 1 then none else ownDigest j version) with
    | none => setJob s f fun j => { j with refPlan := some (version, ref) }
    | some d =>
      let vote := if d = ref then 2 ^ 17 - 1 else 2 ^ 17 + coordRank j.lengths j.coord
      castVote (setJob s f fun j => { j with refPlan := none }) f 3 version vote

/-- Body of a PLAN message: version, then the digest (Table 2.3; log 64). -/
def planBody (version : Nat) (digest : Bytes) : Bytes := natLE 4 version ++ zeros 12 ++ fit 64 digest

/-- A plan digest goes down the tree and is compared with the device's own (R47). -/
def takePlan (s : State) (m : Msg) : State :=
  match jobAt s (msgFn m) with
  | none => s
  | some j =>
    let s1 := (barrierKids s j j.coord).foldl (fun s k => emitMsg s (portsTo s j k) m) s
    voteVerify s1 (msgFn m) (rd m.body 0 4) (slice m.body 16 64)

def execPlan (p : Nat) (m : Msg) (s : State) : Host.Outcome State Fault Refusal := .next (unlessHeld s 6 p m (takePlan s m))

/-! ### EVENT (R309, R358, R403, R404) -/

/-- The ring of another device's port became a line: this device's own ring, or another ring of the axis (R309, R335). -/
def noteGap (s : State) (origin : Coord) (code : Nat) : State :=
  let a := code % 4
  let me := selfPhys s
  if 8 ≤ code ∨ origin = me then s
  else if coordPut me a (coordOn origin a) = origin then addGap s a (gapOfPort origin (mapLengths s) code)
  else { s with fab := { s.fab with map := s.fab.map.map fun m => if m.others.contains a then m else { m with others := a :: m.others } } }

/-- What an event record tells the devices that it passes: a lost port, or a device that left (R309, R358). -/
def learnEvent (s : State) (m : Msg) : State :=
  let code := m.sub / 256
  if code = 0x0402 then recompileAll (rerank (refreshAbortBound (noteGap s m.origin (rd m.body 8 4))))
  else if code = 0x0601 then loseModule s (rd m.body 16 8)
  else s

/-- Ports on which an event goes on around the tray to the bridge, away from the port of arrival (log 24). -/
def eventPorts (s : State) (p : Nat) : List Nat :=
  if (intactPorts s).contains ((p + 4) % 8) && decide (p < 8) then [(p + 4) % 8] else (otherPorts s p).take 1

/-- An event record: the bridge delivers it, any other device sends it on; a record that has come round is dropped (R404). -/
def takeEvent (s : State) (p : Nat) (m : Msg) : State :=
  if m.origin = selfPhys s ∧ !s.fab.bridge then s
  else
    let s1 := if s.fab.bridge then eventAtBridge s (fit 64 (msgBytes m)) else emitMsg s (eventPorts s p) m
    learnEvent s1 m

def execEvent (p : Nat) (m : Msg) (s : State) : Host.Outcome State Fault Refusal := .next (unlessHeld s 7 p m (takeEvent s p m))

/-! ### FORWARD (R405 to R408) -/

/-- Takes the next piece of a payload: a hub hands it on to the targets it feeds, and acknowledges a chunk once they all have it
(R405, R408). -/
def takeNext (s : State) (f : Flight) (piece : Nat) (data : Bytes) : State :=
  let req := f.cmd.req
  let n := f.moved + data.length
  let below := fedHere s f
  let s1 := setFlight s req fun g => { g with cmd := { g.cmd with payload := g.cmd.payload ++ data }, moved := n }
  let s2 := { s1 with mbx := { s1.mbx with pieces := s1.mbx.pieces.filter fun x => !decide (x.1 = req ∧ x.2.1 = piece) } }
  let s3 := below.foldl (fun s k => forwardPieces s k req 1 f.cmd.ring piece (f.bridge.getD noCoord) data) s2
  if n % (s.mbx.window / 2) = 0 ∨ cPayLen f.cmd ≤ n then
    if below.isEmpty then ackUp s3 req else { s3 with mbx := { s3.mbx with chunks := s3.mbx.chunks ++ [⟨req, n, below⟩] } }
  else s3

/-- Takes the waiting pieces of a command in the order of their numbers. -/
def takePieces (s : State) (req : Nat) : State :=
  s.mbx.pieces.foldl (fun s _ =>
    match flightOf s req with
    | none => s
    | some f =>
      match s.mbx.pieces.find? fun x => decide (x.1 = req ∧ x.2.1 = f.moved / 4096) with
      | some x => if f.bridge.isNone || decide (cPayLen f.cmd ≤ f.moved) then s else takeNext s f x.2.1 x.2.2
      | none => s) s

/-- A payload piece for this device waits until the pieces before it and the descriptor have come, and for CP0 (R22, R405, R409). -/
def takePiece (s : State) (req piece : Nat) (data : Bytes) : State :=
  let late := match flightOf s req with | some f => f.bridge.isNone || decide (piece * 4096 < f.moved) || decide (cPayLen f.cmd ≤ f.moved) | none => false
  if late || s.mbx.pieces.any (fun x => decide (x.1 = req ∧ x.2.1 = piece)) then s
  else
    let s1 := { s with mbx := { s.mbx with pieces := s.mbx.pieces ++ [(req, piece, data)] } }
    if cpDown s 0 then s1 else takePieces s1 req

/-- Whether this device answered BUSY to a command that it keeps for the bridge (R406, R407). -/
def keptBusy (s : State) (req : Nat) : Bool := s.mbx.kept.any fun k => decide (k.req = req ∧ rd k.bytes 4 1 = 2)

/-- A descriptor for this device: a flight of the bridge's command, accepted in the message's beat (R405, R402); one that was
answered BUSY comes again and starts anew, with what has come of its payload (R407; log 108). -/
def takeDescriptor (s : State) (req ring : Nat) (bridge : Coord) (beat : Nat) (data : Bytes) : State :=
  match flightOf s req with
  | some f =>
    if f.phase = .final ∧ f.bridge.isSome ∧ keptBusy s req then
      let s1 := setFlight s req fun g => { g with phase := .fetched, fetchBeat := beat }
      { s1 with mbx := { s1.mbx with kept := s1.mbx.kept.filter fun k => !decide (k.req = req) } }
    else s
  | none =>
    let fl : Flight := ⟨⟨req, ring, fit 64 data, []⟩, beat, .fetched, some bridge, [], false, 0⟩
    takePieces { s with mbx := { s.mbx with flights := s.mbx.flights ++ [fl] } } req

/-- Bytes placed at an offset. -/
def placeAt (b : Bytes) (off : Nat) (data : Bytes) : Bytes := fit off b ++ data ++ b.drop (off + data.length)

/-- A result piece at the bridge; without its flight it waits for the completion, as after a change of bridge (R344, R407). -/
def takeResult (s : State) (req piece : Nat) (origin : Coord) (data : Bytes) : State :=
  match flightOf s req with
  | some _ => setFlight s req fun g =>
      { g with targets := g.targets.map fun t => if t.phys = origin then { t with result := placeAt t.result (4096 * piece) data } else t }
  | none => { s with mbx := { s.mbx with pieces := s.mbx.pieces ++ [(req, piece, data)] } }

/-- A result piece in an item, whose header names no sender: that of a command with one target (R409). -/
def takeResultItem (s : State) (req piece : Nat) (data : Bytes) : State :=
  match flightOf s req with
  | some f => (f.targets.filter fun t => !decide (t.phys = selfPhys s)).foldl (fun s t => takeResult s req piece t.phys data) s
  | none => s

/-- A completion at the bridge: of one of its commands, or of a command of the bridge before it (R344, R407). -/
def takeCompletion (s : State) (req ring : Nat) (origin : Coord) (data : Bytes) : State :=
  match flightOf s req with
  | some fl =>
    match fl.targets.find? fun t => decide (t.phys = origin) with
    | some t => recordTarget s req t.coord (rd data 4 1) (rd data 5 1) (rd data 6 2) (slice data 16 16) []
    | none => s
  | none =>
    let result := ((sortBy (fun x => x.2.1) (s.mbx.pieces.filter fun x => decide (x.1 = req))).map fun x => x.2.2).flatten
    let s1 := { s with mbx := { s.mbx with pieces := s.mbx.pieces.filter fun x => !decide (x.1 = req) } }
    let s2 := holdCpl s1 ⟨ring, req, fit 32 data, result, rd data 32 8, !isInterim (rd data 4 1)⟩
    forwardTo s2 origin req 4 ring 0 (selfPhys s) []

/-- An acknowledgement: of a chunk at the bridge, of a completion at the target (R406, R408). -/
def takeAck (s : State) (req : Nat) (who : Coord) : State :=
  if s.mbx.chunks.any fun c => decide (c.req = req) && c.waiting.contains who then ackChunk s req who
  else if (match flightOf s req with | some f => f.bridge.isNone | none => false) then s
  else
    let s1 := dropFlight s req
    { s1 with mbx := { s1.mbx with kept := s1.mbx.kept.filter (fun k => !decide (k.req = req)),
                                   pieces := s1.mbx.pieces.filter fun x => !decide (x.1 = req),
                                   chunks := s1.mbx.chunks.filter fun c => !decide (c.req = req) } }

/-- Whether a FORWARD message is for this device. -/
def forwardHere (s : State) (rank : Nat) : Bool := if rank = 2 ^ 24 - 1 then s.fab.bridge else decide (rank = coordRank (mapLengths s) (selfPhys s))

/-- A FORWARD message is processed here, or goes on toward its destination (R405). -/
def takeForward (s : State) (p : Nat) (m : Msg) : State :=
  let b := m.body
  let req := rd b 0 4
  let ring := rd b 5 1
  let bridge := coordOf b 12
  let data := b.drop 16
  if !forwardHere s m.sub then
    emitMsg s (if m.sub = 2 ^ 24 - 1 then eventPorts s p else forwardPorts s (coordOfRank (mapLengths s) m.sub)) m
  else if rd b 4 1 = 0 then takeDescriptor s req ring bridge m.beat data
  else if rd b 4 1 = 1 then takePiece s req (rd b 8 4) data
  else if rd b 4 1 = 2 then takeResult s req (rd b 8 4) m.origin data
  else if rd b 4 1 = 3 then takeCompletion s req ring m.origin data
  else if rd b 4 1 = 4 then takeAck s req m.origin
  else s

def execForward (p : Nat) (m : Msg) (s : State) : Host.Outcome State Fault Refusal := .next (unlessHeld s 8 p m (takeForward s p m))

/-! ### DATA_ITEM (R319, Table 10.4) -/

/-- The first of some rounds, numbered from r, that more than n rows fill. -/
def roundOf : List Nat → Nat → Nat → Nat
  | [], r, _ => r - 1
  | c :: cs, r, n => if n < c then r else roundOf cs (r + 1) (n - c)

/-- The round of the next row of a flow from its origin to a device: the first round whose rows have not all come (R220; log 65). -/
def nextRound (ex : Exchange) (o d got : Nat) : Nat :=
  roundOf ((List.range (maxNat (ex.flows.map (·.round)) + 1)).map fun r =>
    sumNat ((ex.flows.filter fun f => decide (f.origin = o) && decide (f.dest = d) && decide (f.round = r)).map fun f => f.count - f.unplaced)) 0 got

/-- A token row that came as an item: its direction is that of the last allocation, its round follows from the rows before it. -/
def rowItem (s : State) (f : Nat) (row : Bytes) : State :=
  match (jobAt s f).bind fun j => (exchAt j (rd row 12 2) (rd row 8 2)).map fun x => (j, x) with
  | none => takeRow s f 0 false row
  | some (j, ex) =>
    let back := ex.backAllocated
    let me := j.coord.e
    let round :=
      if coordOf row 0 = j.coord then
        let e := returnSender j ex row
        nextRound ex me e (ex.returned.filter fun r => decide (r.1 = e) && (r.2.1 == back)).length
      else
        let o := rd row 0 1
        nextRound ex o me (ex.received.filter fun r => decide (r.origin = o) && (r.backward == back)).length
    takeRow s f round back row

/-- Values of FP32 words. -/
def wordsOf (b : Bytes) : List F32 := (List.range (b.length / 4)).map fun i => BitVec.ofNat 32 (rd b (4 * i) 4)

/-- The operator whose first input is a tensor, for soft-maximum statistics (R163). -/
def lossOpOf (j : Job) (tensor : Nat) : Nat := (j.ops.findIdx? fun o => decide (o.cls = 9) && decide ((refAt o 0).tensorId = tensor)).getD 0

/-- A part of a parameter that a peer has sent lands at the address that its item names, in this function's own memory (R176, R194). -/
def takePrefetched (s : State) (f addr : Nat) (data : Bytes) : State :=
  if rangeExists addr data.length && ownsAddr s f addr && ownsAddr s f (addr + data.length - 1) then storeBytes s addr data else s

/-- An item of class 3 by its kind (log 56). -/
def paramItem (s : State) (f : Nat) (b : Bytes) : State :=
  let tensor := rd b 0 4
  let kind := rd b 5 1
  let row := rd b 8 8
  let data := b.drop 24
  let s1 := match jobAt s f with
    | some j => noteArrival s f (.data 3 (coordOf b 16)) j.committed.step
    | none => s
  if kind = 0 ∨ kind = 5 ∨ kind = 6 then takeMoved s1 f tensor kind row data
  else if kind = 1 then
    let w := wordsOf data
    setJob s1 f fun j => { j with lossParts := j.lossParts ++
      [⟨lossOpOf j tensor, rd b 20 4, rd b 6 2, row, rd b 4 1, w.getD 0 0, w.getD 1 0, if w.getD 3 0 = 0 then none else some (w.getD 2 0)⟩] }
  else if kind = 4 then takePrefetched s1 f row data
  else setJob s1 f fun j => { j with factor := j.factor ++ [⟨tensor, decide (kind = 3), row, wordsOf data⟩] }

/-- A chunk of level 1, with its arrival. -/
def chunkItem (s : State) (f : Nat) (b : Bytes) : State :=
  match jobAt s f with
  | none => s
  | some j => takeChunk (noteArrival s f (.data 4 (wardOf j j.coord)) j.committed.step) f b

/-- An export record at the bridge joins the area of the function's SNAP.EXPORT (R433). -/
def exportItem (s : State) (f : Nat) (b : Bytes) : State :=
  match s.mbx.flights.find? fun x => decide (cOp x.cmd = 0x0604) && decide (cJobFn x.cmd = f + 1) && !decide (x.phase = .final) with
  | none => s
  | some fl =>
    if cArg fl.cmd 40 8 < fl.moved + b.length then
      let s1 := setJob s f fun j => { j with exporting := none, exportGap := true }
      answer s1 fl.cmd ⟨0, 1, 0, natLE 8 ((match jobAt s f with | some j => j.lastEnd.getD (2 ^ 64 - 1) | none => 2 ^ 64 - 1)) ++ natLE 8 fl.moved, none⟩
    else
      let s1 := hostWrite s (cArg fl.cmd 32 8 + fl.moved) b
      setFlight s1 fl.cmd.req fun x => { x with moved := x.moved + b.length }

/-- The physical coordinate that an item's destination names (Table 10.4): logical in the function's job; a coordinate outside the job, and
every one without a job, is physical (R394; log 156). -/
def itemPhys (s : State) (f : Nat) (dest : Coord) : Coord :=
  match jobAt s f with
  | some j => if coordIn j.lengths dest then logicalToPhys j dest else dest
  | none => dest

/-- Whether an item's destination is this device. -/
def itemHere (s : State) (f : Nat) (dest : Coord) : Bool :=
  match jobAt s f with
  | some j => if coordIn j.lengths dest && !j.gone then decide (dest = j.coord) else decide (itemPhys s f dest = selfPhys s)
  | none => decide (dest = selfPhys s)

/-- Ports on which an item goes on (R295, R319). -/
def itemPorts (s : State) (f : Nat) (dest : Coord) : List Nat :=
  match routeTo s (itemPhys s f dest) with
  | some p => [portIndex p]
  | none => []

/-- A data item: delivered here, or sent on unchanged with one hop less to go (R319). -/
def takeItem (s : State) (p : Nat) (desc item : Bytes) : State :=
  let cls := rd desc 0 1
  let f := fnIx (rd desc 2 1)
  let dest := coordOf desc 4
  if !itemHere s f dest then
    let d := natLE 1 cls ++ natLE 1 (rd desc 1 1 - 1) ++ slice desc 2 14
    (itemPorts s f dest).foldl (fun s q => if q = p then s else sendItem s q d item) s
  else if cls = 1 then takeSegment s f p item
  else if cls = 2 then rowItem s f item
  else if cls = 3 then paramItem s f item
  else if cls = 4 then chunkItem s f item
  else if cls = 5 then exportItem s f item
  else if cls = 6 then
    (if rd item 4 1 = 1 then takePiece s (rd item 0 4) (rd item 8 4) (item.drop 16)
     else if rd item 4 1 = 2 then takeResultItem s (rd item 0 4) (rd item 8 4) (item.drop 16) else s)
  else s

def execDataItem (p : Nat) (desc item : Bytes) (s : State) : Host.Outcome State Fault Refusal := .next (takeItem s p desc item)

end Sys2Proof.Machine
end

