-- ==== Sys2Proof/Machine/Desc.lean ====
section
/-! DEFINITION. The job description: its header, policy, tables and descriptors, with effective values
(spec/05 Tables 5.2 and 5.3, spec/07 Table 7.1, spec/08 Tables 8.1 and 8.2, spec/11 Tables 11.3 and 11.4, spec/13 Table 13.8). -/
namespace Sys2Proof.Machine
open Sys2Proof

/-- A field whose zero lies outside its range: 0 takes the default, other values are clamped (R426). -/
def clampOr (lo hi dflt v : Nat) : Nat := if v = 0 then dflt else clamp lo hi v

/-! ### The resilience policy (Tables 11.3 and 11.4) -/

/-- A shift whose fraction lies below the default takes the default, stored as 0; without a default the largest shift is 8 (R359, R361). -/
def clampShift (dflt v : Nat) : Nat := if dflt = 0 then min 8 v else if dflt < v then 0 else v

/-- Warm slabs in the policy: below the default the default, and at least one D position stays (Table 11.4). -/
def clampWarm (n dPhys v : Nat) : Nat :=
  let w := min 16 v
  let up := if w = 0 then 0 else max w (warmDefault n dPhys)
  if dPhys ≤ up then dPhys - 1 else up

/-- The policy in force from its 32 bytes, in a job of n devices on dPhys D positions (R361). -/
def policyOf (n dPhys : Nat) (b : Bytes) : Policy where
  sentinelShift := clampShift (sentinelDefault n) (rd b 0 1)
  dupShift := clampShift (dupDefault n) (rd b 1 1)
  warmSlabs := clampWarm n dPhys (rd b 2 1)
  l1Slots := (let v := rd b 3 1; if 3 ≤ v ∧ v ≤ 0xFE then 2 else v)
  l2Every := rd b 4 1
  l2Keep := clampOr 1 16 2 (rd b 5 1)
  onLoss := min 1 (rd b 6 1)
  replayLimit := clampOr 1 16 3 (rd b 7 1)
  l0IntervalMs := clampOr 1000 3600000 0 (rd b 8 4)
  l3IntervalMs := clampOr 10000 86400000 0 (rd b 12 4)

/-- W in force: the policy's, else the default, as far as the cuts leave D positions free (R359, R360). -/
def warmInForce (n dPhys d : Nat) (p : Policy) : Nat :=
  min (dPhys - d) (if p.warmSlabs = 0 then warmDefault n dPhys else p.warmSlabs)

/-! ### The header (Table 13.8, Table 8.2) -/

/-- R40: clamped to 1,500 to 1,900 MHz and rounded down to 25 MHz. -/
def planClockOf (v : Nat) : Nat := clamp 1500 1900 v / 25 * 25

/-- `clip_norm`: a negative, infinite or NaN value becomes +0 (Table 8.2). -/
def clipOf (w : F32) : F32 := let v := dec32 w; if v.isNan || v.isInf || v.neg? then 0 else w

/-- `export_mode` in a system of n devices (Table 8.2). -/
def exportModeOf (n v : Nat) : Nat := if v = 1 ∧ 512 < n then 2 else min 2 v

def hdrOf (n dPhys : Nat) (b : Bytes) : JobHdr where
  kind := rd b 6 2
  cuts := coordOf b 8
  nLayers := rd b 12 2
  seed := slice b 16 16
  planClock := if rd b 32 2 = 0 then 1800 else planClockOf (rd b 32 2)
  farPercent := clampOr 25 100 100 (rd b 34 1)
  slack := min 8 (rd b 35 1)
  commitSlack := min 256 (rd b 36 2)
  retain := min 4 (rd b 38 1)
  recompute := min 2 (rd b 39 1)
  stride := clampOr 1 8 4 (rd b 40 1)
  gradSr := min 1 (rd b 41 1)
  weightMode := min 1 (rd b 42 1)
  gradFormat := min 1 (rd b 43 1)
  lossScaleInit := min 24 (rd b 44 1)
  exportMode := exportModeOf n (rd b 45 1)
  exportState := min 1 (rd b 46 1)
  cleanSteps := clampOr 1 1000000 2000 (rd b 48 4)
  clipNorm := clipOf (BitVec.ofNat 32 (rd b 52 4))
  paramRegionSize := roundUp (rd b 56 8) stripe
  imbalancePct := clampOr 110 400 150 (rd b 64 2)
  policy := policyOf n dPhys (slice b 72 32)

/-! ### Tables of the description -/

/-- Entries of n bytes from an offset of the description. -/
def entriesAt (b : Bytes) (off size n : Nat) : List Bytes := (List.range n).map fun i => slice b (off + size * i) size

/-- A parameter-table entry (Table 8.1). -/
def paramOf (b : Bytes) : ParamEntry where
  tensorId := rd b 0 4
  layer := rd b 4 2
  workFmt := rd b 6 1 % 16
  flags := rd b 7 1
  rows := rd b 8 4
  cols := rd b 12 4
  group := rd b 16 2
  bank0 := rd b 24 8
  bank1 := rd b 32 8
  state0 := rd b 40 8
  state1 := rd b 48 8
  codebook := rd b 56 8

/-- An FP32 field clamped to +0 to hi; NaN becomes +0 (Table 7.1). -/
def clampF (hi : F32) (w : F32) : F32 :=
  let v := dec32 w
  if v.isNan then 0 else enc32 (vClamp vZero (dec32 hi) v)

/-- An exchange-table entry with effective values (R204, Table 7.1). -/
def exchEntryOf (b : Bytes) : ExchEntry where
  layer := rd b 0 2
  tokens := clamp 1 1048576 (rd b 8 4)
  capFactor := clampOr 64 256 80 (rd b 12 2)
  overflow := min 1 (rd b 14 1)
  spillWindows := clampOr 1 2 1 (rd b 15 1)
  recvMib := clampOr 16 4096 1024 (rd b 16 4)
  dispatchBeats := min 4096 (rd b 20 2)
  gamma := clampF 0x3F800000 (BitVec.ofNat 32 (rd b 22 4))
  limit := clampF 0x42800000 (BitVec.ofNat 32 (rd b 26 4))
  initAddr := rd b 30 8
  skipIdle := min 1 (rd b 38 1)
  fewToken := min 1 (rd b 39 1)

/-- A tensor reference (Table 5.3). -/
def refOf (b : Bytes) : TRef where
  addr := rd b 0 8
  scaleAddr := rd b 8 8
  rows := rd b 16 4
  cols := rd b 20 4
  tensorId := rd b 24 4
  fmt := rd b 28 1 % 16
  group := if canGroup (rd b 28 1 % 16) then rd b 28 1 / 16 % 4 else 0
  cbWin := rd b 29 1 % 16

/-- An operator header (Table 5.2); its references and parameter block lie in device memory and are read at JOB.PLAN (R426). -/
def opOf (b : Bytes) : OpD where
  cls := rd b 0 1
  flags := rd b 2 2
  layer := rd b 4 2
  opIndex := rd b 6 2
  splitLevel := rd b 8 1
  rotate := rd b 9 1
  biasFmt := rd b 10 1
  nIn := min 8 (rd b 11 1 % 16)
  nOut := min 4 (rd b 11 1 / 16)
  biasAddr := rd b 16 8
  eyeAddr := rd b 24 8
  rowScaleAddr := rd b 32 8
  colScaleAddr := rd b 40 8
  refs := []
  params := []
  stationarity := rd b 2 2 / 32 % 4

def descOps (b : Bytes) : List Bytes := entriesAt b (rd b 104 8) 64 (rd b 14 2)

/-- Bytes of a class's parameter block (Table 5.4, R169, Tables 8.4, 9.1, 9.2). -/
def paramLen (m : Memory) (cls addr : Nat) : Nat :=
  if cls = 2 ∨ cls = 3 then 24
  else if cls = 5 then 72 + 8 * clamp 1 32 (memGet m addr).toNat
  else if cls = 6 ∨ cls = 9 then 16
  else if cls = 0x0E then 48
  else if cls = 0x0C then 0
  else 8

/-- An operator with its references and parameter block as device memory holds them now (R151 to R153, R426). -/
def opRead (m : Memory) (b : Bytes) : OpD :=
  let o := opOf b
  let refs := rd b 48 8
  let prm := rd b 56 8
  { o with
    refs := if refs = 0 then [] else (List.range (o.nIn + o.nOut)).map fun i => refOf (memRead m (refs + 32 * i) 32),
    params := let n := paramLen m o.cls prm; if prm = 0 then zeros n else memRead m prm n }

/-- `stage_layers` of a description, none when the compiler chooses (R238, Table 13.8). -/
def stagesOfDesc (b : Bytes) (p : Nat) : List Nat :=
  let off := rd b 128 8
  if off = 0 then [] else (List.range p).map fun i => rd b (off + 2 * i) 2

/-! ### UPDATE parameters (Table 8.4) -/

/-- An FP32 field of Table 8.4: NaN becomes the default, other values are clamped. -/
def clampUpd (lo hi dflt w : F32) : F32 :=
  let v := dec32 w
  if v.isNan then dflt else enc32 (vClamp (dec32 lo) (dec32 hi) v)

def updField (b : Bytes) (off : Nat) (lo hi dflt : F32) : Bytes := natLE 4 (clampUpd lo hi dflt (BitVec.ofNat 32 (rd b off 4))).toNat

/-- The UPDATE parameter block with its effective values (R256). `clip_d` has no zero in its range, so 0 takes the default. -/
def updParams (b : Bytes) : Bytes :=
  slice b 0 8 ++ updField b 8 0 0x3F7FFFFF 0x3F666666 ++ updField b 12 0 0x3F7FFFFF 0x3F733333 ++ updField b 16 0 0x3F800000 0x32000000
    ++ updField b 20 0 0x3F800000 0x3DCCCCCD
    ++ (if rd b 24 4 = 0 then natLE 4 0x3F800000 else updField b 24 0x3F800000 0x47800000 0x3F800000)
    ++ updField b 28 0 0x3F800000 0x0D800000 ++ slice b 32 8 ++ natLE 4 (clampOr 1 (2 ^ 24) 1 (rd b 40 4)) ++ zeros 4

/-- An operator of the job as it is compiled: UPDATE blocks hold their effective values. -/
def opCompiled (m : Memory) (b : Bytes) : OpD :=
  let o := opRead m b
  if o.cls = 0x0E then { o with params := updParams o.params } else o

end Sys2Proof.Machine
end

