-- ==== Sys2Proof/Machine/PlanCheck.lean ====
section
/-! DEFINITION. What JOB.PLAN refuses, with the layout of R428 (spec/03 R66, R98, spec/04 R115 to R128, spec/05 R138 to R170,
spec/06 R173, R176, spec/07 R202 to R238, spec/08 R241 to R252, spec/09 R287, R288, spec/11 R363). -/
namespace Sys2Proof.Machine
open Sys2Proof

/-- A refusal of JOB.PLAN: layer, operator number, offset of the field, structure, reason (R428). -/
structure PlanRefusal where
  layer : Nat
  opIndex : Nat
  off : Nat
  struct : Nat
  reason : Nat
  deriving DecidableEq, Repr

/-- A field that a check names: its offset, its structure, the reason (log 66 for the reasons). -/
abbrev BadField := Nat × Nat × Nat

def need (ok : Bool) (off struct reason : Nat) : Option BadField := if ok then none else some (off, struct, reason)

/-- The first check that fails. -/
def firstBad (l : List (Option BadField)) : Option BadField := l.findSome? id

/-! ### References (R66, R153, R173, R176) -/

/-- Whether a range lies wholly in a function's own memory. -/
def ownRange (s : State) (f a n : Nat) : Bool := rangeExists a n && ownsAddr s f a && ownsAddr s f (a + n - 1)

/-- References that are unsigned numbers and carry no format code, by flat index (Table 5.4). -/
def plainRefs (o : OpD) : List Nat :=
  if o.cls = 6 then (if flagBack o then [1] else [o.nIn, o.nIn + 2])
  else if o.cls = 7 then [1, 2]
  else if o.cls = 9 ∨ o.cls = 0x0A then [1]
  else if o.cls = 0x0F ∧ bit (opArg o 4 1) 2 then List.range (o.nIn + o.nOut)
  else []

def refBytes (r : TRef) : Nat := r.rows * rowBytes r.fmt r.cols

/-- Whether a reference of operator n is an intermediate of a fused kernel, which has no address (R161, Table 5.4; log 160). -/
def insideRef (k : Job) (n : Nat) (o : OpD) (i : Nat) : Bool :=
  decide ((refAt o i).addr = 0) &&
    (if i < o.nIn then (producerOf k.ops n i).isSome else decide (i = o.nIn) && madeInside k.ops n)

/-- One reference of operator n: its format code, and the addresses that it names. INT32 is the output of an integer product only (R66); an
UPDATE names its tensors in the parameter table, so its references need no address (R256). -/
def badRef (s : State) (f : Nat) (k : Job) (n : Nat) (o : OpD) (i : Nat) : Option BadField :=
  let r := refAt o i
  let plain := (plainRefs o).contains i
  let free := insideRef k n o i || (decide (o.cls = 0x0E) && decide (r.addr = 0))
  let product := o.cls = 1 || o.cls = 2
  firstBad [
    need (plain || decide (r.fmt < 13)) 28 2 4,
    need (plain || decide (r.fmt ≠ 12) || (product && decide (o.nIn ≤ i) && integerPath o)) 28 2 4,
    need (free || decide (r.rows * r.cols = 0) || ownRange s f r.addr (max 1 (refBytes r))) 0 2 0x0C,
    need (plain || free || !groupedRef r || ownRange s f r.scaleAddr (max 1 (r.rows * scaleBytes r.group r.cols))) 8 2 0x0C]

/-- Addresses of the header: none, or in the function's own memory. -/
def badHeader (s : State) (f : Nat) (raw : Bytes) : Option BadField :=
  firstBad (([16, 24, 32, 40, 48, 56] : List Nat).map fun off =>
    need (decide (rd raw off 8 = 0) || (regionOf (rd raw off 8) != .reserved && ownsAddr s f (rd raw off 8))) off 1 0x0C)

/-! ### Products (R98, R115 to R128, R138, R519, R520) -/

/-- Table 4.6 and Table 3.7. -/
def pairLegal (a b : Nat) : Bool :=
  let float (c : Nat) : Bool := (1 ≤ c && c ≤ 7) || isCodebook c
  (float a && float b) || (isInt a && isInt b) || (a = 0 && (b = 0 || b = 1)) || (b = 0 && a = 1)

/-- Shapes of a MATMUL: C against `batch`, A against C, B against A and C (R153, R519). -/
def badMatmulShape (o : OpD) : Option BadField :=
  let nb := batchOf o
  let a := planeA o false
  let b := planeB o false
  let c := outAt o 0
  let m := c.rows / nb
  let k := if flagTransA o then a.rows / nb else a.cols
  firstBad [
    need (decide (c.rows % nb = 0)) 16 2 0x0D,
    (if flagTransA o then firstBad [need (decide (a.rows % nb = 0)) 16 2 0x0D, need (decide (a.cols = m)) 20 2 0x0D]
     else need (decide (a.rows = c.rows)) 16 2 0x0D),
    (if flagTransB o then firstBad [need (decide (b.rows = k) || decide (b.rows = nb * k)) 16 2 0x0D, need (decide (b.cols = c.cols)) 20 2 0x0D]
     else firstBad [need (decide (b.rows = c.cols) || decide (b.rows = nb * c.cols)) 16 2 0x0D, need (decide (b.cols = k)) 20 2 0x0D])]

/-- Shapes of a GROUPED_MATMUL; its weights hold one expert's matrix or all of them (R520; log 48 for `trans_a`). -/
def badGroupedShape (o : OpD) : Option BadField :=
  let a := planeA o false
  let b := planeB o false
  let c := outAt o 0
  let n := groupExperts o
  if flagTransA o then need (decide (b.rows = a.rows)) 16 2 0x0D
  else firstBad [
    need (decide (c.rows = a.rows)) 16 2 0x0D,
    (if flagTransB o then firstBad [need (decide (b.rows = a.cols) || decide (b.rows = n * a.cols)) 16 2 0x0D, need (decide (b.cols = c.cols)) 20 2 0x0D]
     else firstBad [need (decide (b.rows = c.cols) || decide (b.rows = n * c.cols)) 16 2 0x0D, need (decide (b.cols = a.cols)) 20 2 0x0D])]

/-- Equal shapes of two references: the second disagrees with the first. -/
def sameShape (a b : TRef) : Option BadField := firstBad [need (decide (b.rows = a.rows)) 16 2 0x0D, need (decide (b.cols = a.cols)) 20 2 0x0D]

/-- The planes of a complex operand have one format and one layout (R124). -/
def samePlanes (re im : TRef) : Option BadField :=
  firstBad [need (decide (im.fmt = re.fmt) && decide (im.group = re.group) && decide (im.cbWin = re.cbWin)) 28 2 4, sameShape re im]

/-- An output plane of a product (R115, R119): INT32 with an integer product that has no scales and no bias, or an ungrouped floating format. -/
def badPlane (o : OpD) (c : TRef) : Option BadField :=
  firstBad [
    (if c.fmt = 12 then firstBad [need (integerPath o) 28 2 4, need (decide (o.rowScaleAddr = 0)) 32 1 0x0D,
        need (decide (o.colScaleAddr = 0)) 40 1 0x0D, need (decide (o.biasAddr = 0)) 16 1 0x0D]
     else need (decide (c.fmt ≤ 4)) 28 2 4),
    need (!groupedRef c) 28 2 4]

/-- Padded reduction length of a product (R118). -/
def paddedK (o : OpD) : Nat := roundUp (if flagTransA o then (planeA o false).rows / batchOf o else (planeA o false).cols) 32

def badProduct (o : OpD) : Option BadField :=
  let a := planeA o false
  let b := planeB o false
  let z := flagComplex o
  firstBad [
    need (decide ((if z then 4 else 2) ≤ o.nIn) && decide ((if z then 2 else 1) ≤ o.nOut)) 11 1 4,
    (if z then firstBad [samePlanes a (planeA o true), samePlanes b (planeB o true)] else none),
    need (pairLegal a.fmt b.fmt) 28 2 4,
    need (!(flagTransA o && groupedRef a) && !(flagTransB o && groupedRef b)) 2 1 0x0D,
    badPlane o (outAt o 0),
    (if z then firstBad [badPlane o (outAt o 1), sameShape (outAt o 0) (outAt o 1)] else none),
    need (!integerPath o || decide (paddedK o ≤ 2 ^ 32)) 20 2 0x0D,
    (if o.cls = 1 then badMatmulShape o else firstBad [need (decide (opArg o 8 8 ≠ 0)) 8 3 4, badGroupedShape o])]

/-! ### Vector classes (Table 5.4) -/

/-- A reference's format must be in a list. -/
def fmtIn (o : OpD) (i : Nat) (l : List Nat) : Option BadField := need (l.contains (refAt o i).fmt) 28 2 4

def tensors (o : OpD) (ins outs : Nat) : Option BadField := need (decide (ins ≤ o.nIn) && decide (outs ≤ o.nOut)) 11 1 4

/-- Whether a reference holds at least n elements. -/
def holds (r : TRef) (n : Nat) : Option BadField := need (decide (n ≤ r.rows * r.cols)) 16 2 0x0D

/-- Shapes of ATTENTION: Q over the rank's query heads, K and V over its key-value heads, O and dO as Q's rows over V's width, LSE one column per
query head (R156, R237; log 45). -/
def badHeads (k : Job) (o : OpD) : Option BadField :=
  let q := refAt o 0
  let n := localHeads k o
  let kv := min (globalHead k o (n - 1)) (attHeads o - 1) / attGroup o + 1 - globalHead k o 0 / attGroup o
  let dv := (refAt o 2).cols / max 1 kv
  let wide (r : TRef) (cols : Nat) : Option BadField := firstBad [need (decide (r.rows = q.rows)) 16 2 0x0D, need (decide (r.cols = cols)) 20 2 0x0D]
  firstBad ([need (decide (q.cols % max 1 n = 0)) 20 2 0x0D, need (decide ((refAt o 1).cols = kv * (q.cols / max 1 n))) 20 2 0x0D,
      need (decide ((refAt o 2).rows = (refAt o 1).rows)) 16 2 0x0D, need (decide ((refAt o 2).cols % max 1 kv = 0)) 20 2 0x0D]
    ++ (if flagBack o then [wide (refAt o 3) (n * dv), wide (refAt o 4) (n * dv), wide (refAt o 5) n] ++ ([0, 1, 2] : List Nat).map fun i => sameShape (refAt o i) (outAt o i)
        else [wide (outAt o 0) (n * dv), wide (outAt o 1) n]))

def badAttention (k : Job) (o : OpD) : Option BadField :=
  let qkv := ([0, 1, 2] : List Nat).map fun i => fmtIn o i [1, 2, 3, 4]
  if flagBack o then
    firstBad ([tensors o 6 3] ++ qkv ++ [fmtIn o 3 [0, 1, 2], fmtIn o 4 [1, 2], fmtIn o 5 [0]]
      ++ (([0, 1, 2] : List Nat).map fun i => fmtIn o (o.nIn + i) [1, 2]) ++ [badHeads k o])
  else firstBad ([tensors o 3 2] ++ qkv ++ [fmtIn o o.nIn [0, 1, 2], fmtIn o (o.nIn + 1) [0], badHeads k o])

/-- NORM (R159, R160, Table 5.4); a y inside a fused kernel may have any A format, which the product's own checks cover (R161). -/
def badNorm (k : Job) (n : Nat) (o : OpD) : Option BadField :=
  let x := refAt o 0
  let two := normMeanVar o
  let stats (r : TRef) : Option BadField :=
    firstBad [need (decide (r.rows = x.rows)) 16 2 0x0D, need (decide ((if two then 2 else 1) ≤ r.cols)) 20 2 0x0D]
  if flagBack o then
    firstBad ([tensors o 4 (if two then 3 else 2), fmtIn o 0 [0, 1, 2], fmtIn o 1 [0], fmtIn o 2 [0], fmtIn o 3 [0, 1, 2], fmtIn o o.nIn [0, 1, 2],
        fmtIn o (o.nIn + 1) [0]] ++ (if two then [fmtIn o (o.nIn + 2) [0]] else [])
      ++ [holds (refAt o 1) x.cols, stats (refAt o 2), sameShape x (refAt o 3), sameShape x (outAt o 0), need (decide ((outAt o 1).cols = x.cols)) 20 2 0x0D]
      ++ (if two then [need (decide ((outAt o 2).cols = x.cols)) 20 2 0x0D] else []))
  else
    firstBad ([tensors o (if two then 3 else 2) 2, fmtIn o 0 [0, 1, 2], fmtIn o 1 [0]]
      ++ (if two then [fmtIn o 2 [0]] else []) ++ [(if insideRef k n o o.nIn then none else fmtIn o o.nIn [0, 1, 2]), fmtIn o (o.nIn + 1) [0], holds (refAt o 1) x.cols]
      ++ (if two then [holds (refAt o 2) x.cols] else []) ++ [sameShape x (outAt o 0), stats (outAt o 1)])

/-- A step's first bad field; `seen` are the temporaries and outputs written so far (R170). -/
def badStep (o : OpD) (seen : List Nat) (i : Nat) : Option BadField :=
  let at_ (k : Nat) : Nat := opArg o (72 + 8 * i + k) 1
  let legal := (1 ≤ at_ 0 && at_ 0 ≤ 0x0D) || (0x10 ≤ at_ 0 && at_ 0 ≤ 0x1B)
  let operand (c : Nat) : Bool := (c < 16 && seen.contains c) || (0x20 ≤ c && c < 0x30) || (0x10 ≤ c && c < 0x14 && c - 0x10 < o.nIn)
  let dst := at_ 1
  firstBad ([need legal (72 + 8 * i) 3 4] ++ ((List.range (ewArity (at_ 0))).map fun k => need (operand (at_ (2 + k))) (72 + 8 * i + 2 + k) 3 4)
    ++ [need (dst < 16 || (0x30 ≤ dst && dst < 0x32 && dst - 0x30 < o.nOut)) (72 + 8 * i + 1) 3 4])

def badProgram (o : OpD) : Option BadField :=
  let n := ewSteps o
  let dsts (k : Nat) : List Nat := (List.range k).map fun i => opArg o (72 + 8 * i + 1) 1
  firstBad ((List.range n).map (fun i => badStep o (dsts i) i) ++ (List.range o.nOut).map fun k => need ((dsts n).contains (0x30 + k)) 0 3 4)

def badElementwise (o : OpD) : Option BadField :=
  let out := outAt o 0
  let code (i : Nat) : Nat := bits (opArg o 1 1) (2 * i + 1) (2 * i)
  let want (i : Nat) : Nat := ([out.rows * out.cols, out.rows, out.cols, 1] : List Nat).getD (code i) 1
  firstBad ([tensors o 1 1, need (decide (o.nIn ≤ 4) && decide (o.nOut ≤ 2)) 11 1 4]
    ++ ((List.range (o.nIn + o.nOut)).map fun i => firstBad [fmtIn o i [0, 1, 2, 3, 4, 5, 6, 7, 8, 9], need (!groupedRef (refAt o i)) 28 2 4])
    ++ (if 2 ≤ o.nOut then [sameShape out (outAt o 1)] else [])
    ++ ((List.range o.nIn).map fun i => if code i = 0 then sameShape out (refAt o i)
          else need (decide (want i ≤ (refAt o i).rows * (refAt o i).cols)) 16 2 0x0D)
    ++ [badProgram o])

def badRouter (lenE : Nat) (o : OpD) : Option BadField :=
  let z := refAt o 0
  let n := routerExperts o
  let perToken (r : TRef) : Option BadField := firstBad [need (decide (r.rows = z.rows)) 16 2 0x0D, need (decide (r.cols = effK o)) 20 2 0x0D]
  firstBad ([(if flagBack o then tensors o 4 1 else tensors o 1 3), fmtIn o 0 [0], need (decide (ceilDiv n (max 1 lenE) ≤ 64)) 8 3 4]
    ++ (if flagBack o then [fmtIn o 2 [0], fmtIn o 3 [0], fmtIn o o.nIn [0, 1, 2]] else [fmtIn o (o.nIn + 1) [0]])
    ++ [need (decide (z.cols = n)) 20 2 0x0D]
    ++ (if flagBack o then ([1, 2, 3] : List Nat).map (fun i => perToken (refAt o i)) ++ [sameShape z (outAt o 0)]
        else [perToken (outAt o 0), perToken (outAt o 1), holds (outAt o 2) n]))

/-- DISPATCH: tokens and indices; its output, where it has one, is the grouped token tensor (Table 5.4; log 51). -/
def badDispatch (k : Job) (o : OpD) : Option BadField :=
  let x := refAt o 0
  let ix := refAt o 1
  firstBad ([tensors o 2 0, fmtIn o 0 (if flagBack o then [1, 2] else [1, 2, 3, 4]), need (decide (ix.rows = x.rows)) 16 2 0x0D,
      need (decide (ix.cols = kOf k o.layer)) 20 2 0x0D]
    ++ (if o.nOut = 0 then [] else [need (decide ((outAt o 0).cols = x.cols)) 20 2 0x0D,
          (if flagBack o then fmtIn o o.nIn [1, 2] else need (decide ((outAt o 0).fmt = x.fmt) && decide ((outAt o 0).group = x.group)) 28 2 4)]))

/-- COMBINE: partials and gates to combined tokens; backward also the gate gradients (Table 5.4, R230). -/
def badCombine (k : Job) (o : OpD) : Option BadField :=
  let out := outAt o 0
  let gates (r : TRef) : Option BadField := firstBad [need (decide (r.rows = out.rows)) 16 2 0x0D, need (decide (r.cols = kOf k o.layer)) 20 2 0x0D]
  let part := need (decide ((refAt o 0).cols = out.cols)) 20 2 0x0D
  if flagBack o then firstBad [tensors o 1 2, fmtIn o 0 [0, 1, 2], fmtIn o o.nIn [0, 1, 2], fmtIn o (o.nIn + 1) [0], part, gates (outAt o 1)]
  else firstBad [tensors o 2 1, fmtIn o 0 [0, 1], fmtIn o 1 [0], fmtIn o o.nIn [0, 1, 2], part, gates (refAt o 1)]

/-- LOSS: one target and one loss per row of the logits, and dz of their shape (Table 5.4, R162). -/
def badLoss (o : OpD) : Option BadField :=
  let z := refAt o 0
  firstBad ([tensors o 2 1, fmtIn o 0 [0], fmtIn o o.nIn [0]] ++ (if 2 ≤ o.nOut then [fmtIn o (o.nIn + 1) [1, 2]] else [])
    ++ [need (decide ((refAt o 1).rows = z.rows)) 16 2 0x0D, need (decide ((outAt o 0).rows = z.rows)) 16 2 0x0D]
    ++ (if 2 ≤ o.nOut then [sameShape z (outAt o 1)] else []))

/-- EMBED: one index per row, of the rows' width; backward the rows of dy (Table 5.4, R166). -/
def badEmbed (o : OpD) : Option BadField :=
  let a := refAt o 0
  let ix := refAt o 1
  let out := outAt o 0
  firstBad ([tensors o 2 1]
    ++ (if flagBack o then [fmtIn o 0 [0, 1, 2], fmtIn o o.nIn [0, 1, 2], need (decide (ix.rows = a.rows)) 16 2 0x0D]
        else [need (decide (out.rows = ix.rows)) 16 2 0x0D])
    ++ [need (decide (out.cols = a.cols)) 20 2 0x0D])

/-- QUANTISE: its mode must agree with the output reference (R167). -/
def badQuantise (o : OpD) : Option BadField :=
  let q := outAt o 0
  let mode := min 3 (opArg o 0 1)
  firstBad [tensors o 1 1, fmtIn o 0 [0, 1, 2], need (decide (q.fmt < 12)) 28 2 4, sameShape (refAt o 0) q,
    need (!(mode = 1 && !groupedRef q)) 28 2 4,
    need (!(mode = 2 && (groupedRef q || isCodebook q.fmt))) 28 2 4,
    need (!(mode = 2 && q.scaleAddr = 0)) 8 2 4,
    need (!(mode = 3 && !isCodebook q.fmt)) 28 2 4,
    need (!(mode = 1 && isCodebook q.fmt)) 28 2 4]

def badRotate (o : OpD) : Option BadField :=
  let x := refAt o 0
  let y := outAt o 0
  firstBad [tensors o 1 1, fmtIn o 0 [0, 1, 2], fmtIn o o.nIn [0, 1, 2, 3, 4, 5, 6, 7], need (decide (y.rows = x.rows)) 16 2 0x0D,
    need (decide (y.cols = roundUp x.cols (max 1 (rotateLen o.rotate)))) 20 2 0x0D]

def badRandom (o : OpD) : Option BadField :=
  firstBad [tensors o 0 1, fmtIn o o.nIn [0, 1, 2, 8], need (!((outAt o 0).fmt = 8 && min 2 (opArg o 0 1) ≠ 2)) 28 2 4]

/-! ### Collectives (R287, R288) -/

def badReduce (gradFormat : Nat) (o : OpD) : Option BadField :=
  let flags := opArg o 4 1
  let counts := bit flags 2
  let grad := bit flags 1
  let wire := if grad then (if gradFormat = 0 then 2 else 1) else opArg o 3 1
  firstBad [tensors o 1 1, need (!(axesOf (opArg o 1 1)).isEmpty) 1 3 4, need (counts || grad || decide (opArg o 3 1 < 3)) 3 3 4,
    (if counts then none else fmtIn o 0 [0, 1, 2]), need (decide ((outAt o 0).cols = (refAt o 0).cols)) 20 2 0x0D,
    (if counts then none else if opArg o 0 1 = 0 then fmtIn o o.nIn [0] else fmtIn o o.nIn [0, wire])]

/-- A GATHER moves the bits of its input, or a parameter's working copy (R249, R288). -/
def badGather (params : List ParamEntry) (o : OpD) : Option BadField :=
  let a := refAt o 0
  let b := outAt o 0
  let axes := axesOf (opArg o 1 1)
  let copy := params.any fun p => decide (p.tensorId = a.tensorId) && decide (b.fmt = p.workFmt) && !groupedRef b
  firstBad [tensors o 1 1, need (!axes.isEmpty && !(gatherA2A o && decide (1 < axes.length))) 1 3 4,
    need (decide (b.fmt = a.fmt ∧ b.group = a.group) || (!gatherA2A o && copy)) 28 2 4, need (decide (b.cols = a.cols)) 20 2 0x0D]

/-! ### Operators -/

/-- A 16-bit gradient that an operator writes is in the job's gradient format (R250; log 164). -/
def badGradFormat (k : Job) (o : OpD) : Option BadField :=
  firstBad ((List.range o.nOut).map fun i =>
    let c := (outAt o i).fmt
    need (!((flagBack o && decide (o.cls < 0x0E)) || (decide (o.cls = 9) && decide (i = 1))) || decide (c ≠ 1 ∧ c ≠ 2) || decide (c = gradFmt k) ||
      (plainRefs o).contains (o.nIn + i)) 28 2 4)

/-- The class's own checks (R153). -/
def badClass (k : Job) (n : Nat) (o : OpD) : Option BadField :=
  if o.cls = 1 ∨ o.cls = 2 then badProduct o
  else if o.cls = 3 then badAttention k o
  else if o.cls = 4 then badNorm k n o
  else if o.cls = 5 then badElementwise o
  else if o.cls = 6 then badRouter k.lengths.e o
  else if o.cls = 7 then badDispatch k o
  else if o.cls = 8 then badCombine k o
  else if o.cls = 9 then badLoss o
  else if o.cls = 0x0A then badEmbed o
  else if o.cls = 0x0B then badQuantise o
  else if o.cls = 0x0C then badRotate o
  else if o.cls = 0x0D then badRandom o
  else if o.cls = 0x0E then none
  else if o.cls = 0x0F then badReduce k.hdr.gradFormat o
  else if o.cls = 0x10 then badGather k.params o
  else some (0, 1, 4)

/-- The first bad field of operator n: header, references, class, gradient format. -/
def badOp (s : State) (f : Nat) (k : Job) (n : Nat) (raw : Bytes) (o : OpD) : Option BadField :=
  let known := decide (1 ≤ o.cls) && decide (o.cls ≤ 0x10)
  firstBad ([need known 0 1 4, badHeader s f raw] ++ (List.range o.refs.length).map (badRef s f k n o) ++ [badClass k n o, badGradFormat k o])

def opRefusal (s : State) (f : Nat) (k : Job) : Option PlanRefusal :=
  ((descOps k.desc).zip k.ops).zipIdx.findSome? fun x =>
    (badOp s f k x.2 x.1.1 x.1.2).map fun b => ⟨x.1.2.layer, x.1.2.opIndex, b.1, b.2.1, b.2.2⟩

/-! ### Exchange, stage and parameter tables (R204, R222, R238, R241, R242, R249, R252) -/

/-- Exchange entries against the DISPATCH descriptors, and rows that no window holds (R204, R222). -/
def exchRefusal (s : State) (k : Job) : Option PlanRefusal :=
  let disp := k.ops.filter fun o => decide (o.cls = 7)
  let entry := k.exch.zipIdx.findSome? fun x =>
    if !(disp.any fun o => decide (o.layer = x.1.layer)) || (k.exch.take x.2).any fun y => decide (y.layer = x.1.layer) then
      some (⟨x.1.layer, 0xFFFF, 0, 5, 4⟩ : PlanRefusal)
    else none
  let missing := disp.findSome? fun o => if k.exch.any fun x => decide (x.layer = o.layer) then none else some (⟨o.layer, o.opIndex, 8, 5, 4⟩ : PlanRefusal)
  let wide := k.exch.findSome? fun x => if portBudget s ≤ dispatchRow k x.layer 0 false then some (⟨x.layer, 0xFFFF, 0, 5, 0x0D⟩ : PlanRefusal) else none
  match entry with
  | some r => some r
  | none => match missing with
    | some r => some r
    | none => wide

def stageRefusal (k : Job) : Option PlanRefusal :=
  if k.stages.isEmpty ∨ sumNat k.stages = k.hdr.nLayers then none else some ⟨0xFFFF, 0xFFFF, 0, 6, 0x0D⟩

/-- Working formats of Table 8.3. -/
def workFmtLegal (c : Nat) : Bool := decide (1 ≤ c) && decide (c ≤ 11) && decide (c ≠ 2)

/-- Tensors whose shards a gradient REDUCE delivers (R252). -/
def delivered (k : Job) : List Nat :=
  (k.ops.filter fun o => decide (o.cls = 0x0F) && bit (opArg o 4 1) 1).map fun o => (refAt o 0).tensorId

/-- One parameter-table entry against the region of `room` bytes. -/
def badParam (k : Job) (room : Nat) (before : List ParamEntry) (p : ParamEntry) : Option BadField :=
  let w := weightBytes k p
  let st := match groupOp k p with | some o => stateBytes k o p | none => 0
  let book := if p.workFmt = 11 then 32 else 512
  firstBad [
    need (!(before.any fun q => decide (q.tensorId = p.tensorId))) 0 4 4,
    need (workFmtLegal p.workFmt) 6 4 4,
    need (decide (p.group < (updateOps k).length)) 16 4 4,
    need (paramFrozen p || (delivered k).contains p.tensorId) 7 4 0x0D,
    need (decide (p.bank0 + w ≤ room)) 24 4 6,
    need (decide (p.bank1 + w ≤ room)) 32 4 6,
    need (paramFrozen p || decide (p.state0 + st ≤ room)) 40 4 6,
    need (paramFrozen p || decide (p.state1 + st ≤ room)) 48 4 6,
    need (!isCodebook p.workFmt || decide (p.codebook + book ≤ room)) 56 4 6]

def paramRefusal (s : State) (f : Nat) (k : Job) : Option PlanRefusal :=
  let room := match paramRegion s f with | some r => r.size | none => 0
  if (paramRegion s f).isNone ∨ room < k.hdr.paramRegionSize then some ⟨0xFFFF, 0xFFFF, 56, 0, 6⟩
  else match k.params.zipIdx.findSome? fun p => (badParam k room (k.params.take p.2) p.1).map fun b => (⟨p.1.layer, 0xFFFF, b.1, b.2.1, b.2.2⟩ : PlanRefusal) with
    | some r => some r
    | none => (updateOps k).findSome? fun o =>
        if opArg o 32 8 + 4 * opArg o 40 4 ≤ room then none else some ⟨o.layer, o.opIndex, 32, 3, 6⟩

/-! ### Memory (R252, R264, R363, R369) -/

def memoryRefusal (s : State) (f : Nat) (k : Job) : Option PlanRefusal :=
  let st := deviceState k
  let l := l1InForce s f k
  let used := sumNat ((fnAt s f).far.map (·.size)) + st + (if l = 0xFF then 0 else l * st)
  if 384 * 2 ^ 30 < st ∨ (fnFar s.flash.partMode f).2 < used then some ⟨0xFFFF, 0xFFFF, 0, 7, 6⟩ else none

/-- The first refusal of a job as it stands: operators, exchange table, stage table, parameter table, memory (R428). -/
def planRefusal (s : State) (f : Nat) (k : Job) : Option PlanRefusal :=
  match opRefusal s f k with
  | some r => some r
  | none => match exchRefusal s k with
    | some r => some r
    | none => match stageRefusal k with
      | some r => some r
      | none => match paramRefusal s f k with
        | some r => some r
        | none => memoryRefusal s f k

/-- The completion of a refused JOB.PLAN (R428). -/
def planReply (r : PlanRefusal) : Reply :=
  ⟨4, r.reason, 0, natLE 2 r.layer ++ natLE 2 r.opIndex ++ natLE 2 r.off ++ natLE 1 r.struct ++ natLE 1 r.reason, none⟩

end Sys2Proof.Machine
end

