-- ==== Sys2Proof/Machine/PlanRules.lean ====
section
/-! DEFINITION. What a compiled plan must keep: what JOB.PLAN refuses in it, and what the compiler guarantees of it
(spec/00 R5, spec/01 R18, R25, spec/02 R41, R44 to R47, spec/03 R90, spec/04 R104, R105, R127, spec/05 R146, R147, spec/06 R173, R176,
R191 to R194, spec/07 R210, R211, R222, R227, R231, R238, spec/08 R254, R261, R269, R271, R283, spec/10 R336). -/
namespace Sys2Proof.Machine
open Sys2Proof

/-! ### Addresses that a slice names (R173, R176, R192) -/

/-- Address ranges in a slice's own operands; those of operator descriptors have checks of their own. -/
def namedRanges (k : Job) : Work → List (Nat × Nat)
  | .move src dst n => [(src, n), (dst, n)]
  | .transposeMove src dst rows cols fmt _ _ => [(src, rows * rowBytes fmt cols), (dst, cols * rowBytes fmt rows)]
  | .prefetch _ _ dst n => [(dst, n)]
  | .loadScales _ _ a n => [(a, 4 * n)]
  | .loadCodebook _ _ a _ _ _ => [(a, 512)]
  | .accumulateGrad _ src n dst _ last _ => (src, 4 * n) :: (if last then [(dst, 2 * n)] else [])
  | .copyBiases layer dst => [(dst, 4 * expertsOf k layer)]
  | _ => []

/-- A transposing move of elements of a tensor that carries group scales (R192). -/
def moveGrouped (k : Job) : Work → Bool
  | .transposeMove src _ rows cols fmt _ _ =>
    k.ops.any fun o => o.refs.any fun r => groupedRef r && overlaps src (rows * rowBytes fmt cols) r.addr (refBytes r)
  | _ => false

/-- What JOB.PLAN refuses in a compiled plan: a slice of the next step before u0 (R269), an address of no region or of another partition
(R173, R176), a transposing move of grouped elements (R192). -/
def compiledRefusal (s : State) (f : Nat) (k : Job) (p : Plan) : Option PlanRefusal :=
  if p.slices.any fun sl => !sl.reserved && decide (sl.beat + (p.stepBeats : Int) < p.firstUpdate) then some ⟨0xFFFF, 0xFFFF, 0, 0, 0x0D⟩
  else if p.slices.any fun sl => (namedRanges k sl.work).any fun r => decide (r.2 ≠ 0) && !ownRange s f r.1 r.2 then some ⟨0xFFFF, 0xFFFF, 0, 2, 0x0C⟩
  else if p.slices.any fun sl => moveGrouped k sl.work then some ⟨0xFFFF, 0xFFFF, 28, 2, 0x0D⟩
  else none

/-! ### Resources (R25, R191, Tables 1.11 and 6.5) -/

/-- Whether a move engine reaches an address (Table 6.5): a cluster engine its cluster's SRAM, that of its cores among it. -/
def engineReaches (r : Res) (a : Nat) : Bool :=
  match r, regionOf a with
  | .clusterMove c, .cluster => decide ((a - clusterBase) / 0x2000000 = c)
  | .clusterMove c, .core => decide ((a - coreBase) / 0x800000 / 6 = c)
  | .clusterMove _, .near => true
  | .clusterMove _, .far => true
  | .dieMove _, .near => true
  | .dieMove _, .far => true
  | .hubStream, .far => true
  | _, _ => false

def isMover : Res → Bool
  | .clusterMove _ => true
  | .dieMove _ => true
  | .hubStream => true
  | _ => false

def onCore : Res → Bool | .core _ => true | _ => false
def onPort (port : Nat) : Res → Bool | .port c => decide (portIndex c = port) | _ => false
def onUpdate : Res → Bool | .updateEngine k => decide (k < 4) | _ => false

/-- Whether the stage that a slice belongs to uses its resource (R25, Table 1.11; log 165). -/
def resFits (k : Job) (sl : Slice) : Bool :=
  let r := sl.res
  match sl.work with
  | .tile _ _ _ _ _ _ _ _ => onCore r
  | .rows _ _ _ => onCore r
  | .head _ _ => onCore r
  | .groupedWindow _ _ _ => onCore r
  | .move src dst _ => isMover r && engineReaches r src && engineReaches r dst
  | .transposeMove src dst _ _ _ _ _ => (match r with | .dieMove _ => true | _ => false) && engineReaches r src && engineReaches r dst
  | .prefetch _ _ dst _ => isMover r && engineReaches r dst
  | .sendParam _ _ _ port _ _ => isMover r || onPort port r
  | .loadScales core _ _ _ => decide (r = .core core)
  | .loadCodebook core _ _ _ _ _ => decide (r = .core core)
  | .accumulateGrad _ _ _ _ _ _ _ => onCore r
  | .contribute _ _ => decide (r = .reduceEngine) || isMover r
  | .sendStage _ _ _ _ _ port _ _ => onPort port r
  | .gatherCopy _ _ => isMover r
  | .dispatch _ _ _ _ port => onPort port r
  | .returnRows _ _ _ _ port => onPort port r
  | .sumLoads _ => decide (r = .exchangeEngine)
  | .stageState _ _ _ => decide (r = .hubStream) || onUpdate r
  | .update _ _ _ => onUpdate r
  | .updateFactored _ => onUpdate r
  | .factorRows _ port _ => onUpdate r || onPort port r
  | .factorBlocks _ port _ => onUpdate r || onPort port r
  | .lossStats _ _ _ port _ => onCore r || onPort port r
  | .normSum => decide (r = .reduceEngine) || onUpdate r
  | .clipFactor => decide (r = .reduceEngine) || onUpdate r
  | .sentinel _ _ _ _ _ _ => onCore r
  | .copyBiases layer dst => isMover r && decide (layer < k.hdr.nLayers) && engineReaches r dst && decide (regionOf dst = .cluster)
  | .exportBegin => decide (r = .hubStream) || (match r with | .port _ => true | _ => false)
  | .exportEnd => decide (r = .hubStream) || (match r with | .port _ => true | _ => false)
  | .exportRecords _ _ => decide (r = .hubStream) || (match r with | .port _ => true | _ => false)
  | .chrysalisChunk _ _ _ => decide (r = .hubStream) || (match r with | .port _ => true | _ => false)

/-- Whether a slice's resource belongs to the function's partition (R441, Table 14.2). -/
def resOwned (s : State) (f : Nat) : Res → Bool
  | .core n => (fnCores s f).contains n
  | .clusterMove c => (fnClusters s.flash.partMode f).contains c
  | .dieMove d => (fnDies s.flash.partMode f).contains d
  | _ => true

/-! ### Budgets (R41, R127, R261, Tables 1.8, 2.4 and 6.5) -/

/-- What a slice loads in its beat. -/
inductive Path where
  /-- cycles or bytes of its own resource -/
  | engine (r : Res)
  /-- bytes of a near-memory tier -/
  | tier (n : Nat)
  /-- bytes of a compute die's path to the hub, or from it -/
  | hub (die : Nat) (up : Bool)
  /-- bytes of the ring from a die to its neighbour (R18) -/
  | ring (from_ next : Nat)
  /-- bytes of far memory -/
  | far
  deriving DecidableEq, Repr

/-- Matrix-clock cycles of a data phase at the plan clock. -/
def matrixCycles (s : State) (k : Job) : Nat := (s.eng.period - 1250) * k.hdr.planClock / 1000

/-- Budget of a path in one data phase (Table 2.4), in the partition's share (R441). -/
def pathBudget (s : State) (k : Job) : Path → Nat
  | .engine (.core _) => matrixCycles s k
  | .engine (.clusterMove _) => 1280 * matrixCycles s k
  | .engine (.dieMove _) => 2048 * matrixCycles s k
  | .engine (.port _) => portBudget s
  | .engine .hubStream => 5530 * (s.eng.period - 1250) / fnCount s.flash.partMode
  | .engine _ => (s.eng.period - 1250) * 8 / 5 / fnCount s.flash.partMode
  | .tier _ => 4000 * (s.eng.period - 1250)
  | .hub _ _ => 4500 * (s.eng.period - 1250)
  | .ring _ _ => 2000 * (s.eng.period - 1250)
  | .far => 5530 * (s.eng.period - 1250) * k.hdr.farPercent / 100 / fnCount s.flash.partMode

/-- Width of the lane that a format runs in: MACs per cell and cycle (Table 4.5). -/
def laneRate (o : OpD) : Nat :=
  if viaTable o then 4
  else
    let w (c : Nat) : Nat := if c ≤ 2 then 16 else if c = 7 ∨ c = 9 then 4 else 8
    match max (w (refAt o 0).fmt) (w (planeB o false).fmt) with
    | 16 => 1
    | 8 => 2
    | _ => 4

/-- Array cycles of blocks of a tile (R127). -/
def tileCycles (o : OpD) (blocks : Nat) : Nat := (elementPasses o).length * (32 * blocks) / laneRate o

/-- The die at which a move engine works; the hub stream works on the hub. -/
def engineDie : Res → Option Nat
  | .clusterMove c => some (c / 4)
  | .dieMove d => some d
  | .core c => some (c / 24)
  | _ => none

/-- Bytes of one end of a move on the paths that they cross (R18, R19, R177): both tiers share them evenly. -/
def endPaths (r : Res) (read : Bool) (a n : Nat) : List (Path × Nat) :=
  match engineDie r, regionOf a with
  | some d, .near =>
    let t := dieOf a
    let tiers := [(Path.tier (2 * t), n / 2), (Path.tier (2 * t + 1), n / 2)]
    let hops (l : List Nat) (m : Nat) : List (Path × Nat) :=
      ((d :: l).zip l).map fun h => (if read then .ring h.2 h.1 else .ring h.1 h.2, m)
    if (t + 4 - d) % 4 = 2 then
      tiers ++ hops (ringRoute d (nearBase + t * nearDie)) (n / 2) ++ hops (ringRoute d (nearBase + t * nearDie + 4096)) (n / 2)
    else tiers ++ hops (ringRoute d a) n
  | some d, .far => [(.far, n), (.hub d (!read), n)]
  | none, .far => [(.far, n)]
  | _, _ => []

/-- Bytes of a move on its engine and its paths. -/
def movePaths (r : Res) (src dst n : Nat) : List (Path × Nat) := (.engine r, n) :: endPaths r true src n ++ endPaths r false dst n

/-- Bytes of state and weights that one element of an update moves: both read and written (R261, Table 8.5). -/
def updateMoves (k : Job) (o : OpD) : Nat := 2 * ((if k.hdr.weightMode = 0 then 4 else 2) + (if updFamily o = 0 then 2 else 1) * (if updBf16 o then 2 else 4))

/-- What a slice loads (R41); a transposing move runs its engine at half the rate (Table 6.5). -/
def slicePaths (s : State) (f : Nat) (k : Job) (sl : Slice) : List (Path × Nat) :=
  match sl.work with
  | .tile op _ _ _ b0 b1 _ _ => (match opNth k op with | some o => [(.engine sl.res, tileCycles o (b1 - b0))] | none => [])
  | .sentinel op b _ _ _ _ =>
    (match opNth k op with | some o => [(.engine sl.res, ceilDiv (tileCycles o (ceilDiv (matmulGeom o b).k 32)) (2 ^ sentinelShift k))] | none => [])
  | .move src dst n => movePaths sl.res src dst n
  | .transposeMove src dst rows cols fmt br bk =>
    let n := (min 128 (rows - 128 * br)) * rowBytes fmt (min 128 (cols - 128 * bk))
    (.engine sl.res, 2 * n) :: endPaths sl.res true src n ++ endPaths sl.res false dst n
  | .prefetch param off dst n =>
    (match paramAt k param, paramRegion s f with
     | some p, some r => movePaths sl.res (weightBank r.addr p k.committed.bank + off) dst n
     | _, _ => [])
  | .sendStage op _ _ _ _ _ _ n =>
    (match collSpec k op with | some sp => [(.engine sl.res, n * (if sp.counts then 4 else fmtBits sp.wire / 8))] | none => [])
  | .update param _ n => (match (paramAt k param).bind (groupOp k) with
    | some o => [(.engine sl.res, ceilDiv n (if updFamily o = 3 then 16 else 32)), (.far, n * updateMoves k o)]
    | none => [])
  | .updateFactored param => (match paramAt k param with
    | some p => [(.engine sl.res, ceilDiv ((ownRows k p).2 * p.cols) 16)]
    | none => [])
  | .chrysalisChunk _ _ n => [(.far, n)]
  | _ => []

/-- The check core of a logical core: the one K ÷ 2 further in the function's partition of K active cores (R354). -/
def checkCoreOf (s : State) (f core : Nat) : Nat :=
  let l := fnCores s f
  l.getD (((l.findIdx? (· == core)).getD 0 + l.length / 2) % l.length) core

/-- Whether a sentinel slot checks a tile slice: the same tile under the same banks, on the check core, later, and before the commit vote
(R354, R355). -/
def checksTile (s : State) (f : Nat) (p : Plan) (t c : Slice) : Bool :=
  match t.work, c.work, t.res with
  | .tile op b mt nt _ _ rb cb, .sentinel op' b' mt' nt' rb' cb', .core i =>
    decide ((op, b, mt, nt, rb, cb) = (op', b', mt', nt', rb', cb')) && decide (t.mb = c.mb) && decide (c.res = .core (checkCoreOf s f i))
      && decide (t.beat < c.beat) && decide (c.beat < (p.voteBeat : Int))
  | _, _, _ => false

/-- Whether every tile has its check slot and every check slot its tile (R353 to R355). -/
def checksPlaced (s : State) (f : Nat) (p : Plan) : Bool :=
  p.slices.all fun sl => match sl.work with
    | .tile _ _ _ _ _ _ _ _ => p.slices.any (checksTile s f p sl)
    | .sentinel _ _ _ _ _ _ => p.slices.any fun t => checksTile s f p t sl
    | _ => true

/-- Whether the slices of each beat fit the budgets of what they load (R41, R261). -/
def fitsBudgets (s : State) (f : Nat) (k : Job) (p : Plan) : Bool :=
  let loads := p.slices.flatMap fun sl => (slicePaths s f k sl).map fun x => (sl.beat, x)
  loads.all fun x =>
    decide (sumNat ((loads.filter fun y => decide (y.1 = x.1) && decide (y.2.1 = x.2.1)).map (·.2.2)) ≤ pathBudget s k x.2.1)

/-! ### Tiles (R90, R104, R105) -/

/-- A tile that the slices so far have left open: core, operator, micro-batch, direction, batch, tile, blocks done. -/
structure OpenTile where
  core : Res
  op : Nat
  mb : Option Nat
  back : Bool
  batch : Nat
  mTile : Nat
  nTile : Nat
  next : Nat
  deriving DecidableEq, Repr

/-- Blocks of a product's reduction. -/
def blocksOf (o : OpD) (b : Nat) : Nat := max 1 (ceilDiv (matmulGeom o b).k 32)

/-- One more tile slice: none when it breaks the order of R104 or the store of R105. -/
def openStep (k : Job) (acc : Option (List OpenTile)) (sl : Slice) : Option (List OpenTile) :=
  match acc, sl.work with
  | some l, .tile op b mt nt b0 b1 _ _ =>
    let mine (t : OpenTile) : Bool :=
      decide (t.op = op) && decide (t.mb = sl.mb) && (t.back == sl.backward) && decide (t.batch = b) && decide (t.mTile = mt) && decide (t.nTile = nt)
    let total := match opNth k op with | some o => blocksOf o b | none => 0
    let rest := l.filter fun t => !mine t
    let fits := match l.find? mine with
      | none => decide (b0 = 0)
      | some t => decide (t.core = sl.res) && decide (t.next = b0)
    if !fits || !(decide (b0 < b1) && decide (b1 ≤ total)) then none
    else
      let held := if b1 = total then rest else ⟨sl.res, op, sl.mb, sl.backward, b, mt, nt, b1⟩ :: rest
      if (held.filter fun t => decide (t.core = sl.res)).length ≤ 6 then some held else none
  | _, _ => acc

/-- Slices in ascending plan beat, in plan order within a beat. -/
def byBeat (p : Plan) : List Slice :=
  let first := p.slices.foldl (fun m sl => min m sl.beat) 0
  sortBy (fun sl => (sl.beat - first).toNat) p.slices

/-- Every tile is computed whole, on one core, its blocks in ascending order, with at most six tiles open on a core (R104, R105). -/
def tilesWhole (k : Job) (p : Plan) : Bool := decide ((byBeat p).foldl (openStep k) (some []) = some [])

/-- The rows and columns of a tile lie in the banks that its slice names (R90). -/
def inBanks (k : Job) (sl : Slice) : Bool :=
  match sl.work with
  | .tile op b mt nt _ _ rb cb =>
    (match opNth k op with
     | some o =>
       let g := matmulGeom o b
       (decide (o.rowScaleAddr = 0) || (decide (rb ≤ g.c0 + 128 * mt) && decide (g.c0 + 128 * mt + tileSpan g.m mt ≤ rb + 4096))) &&
         (decide (o.colScaleAddr = 0) || (decide (cb ≤ 128 * nt) && decide (128 * nt + tileSpan g.n nt ≤ cb + 4096)))
     | none => true)
  | _ => true

/-! ### Arrivals and readers (R45, R193, R194) -/

/-- Whether a slice consumes an item. -/
def consumes (k : Job) (i : Item) (sl : Slice) : Bool :=
  match i, sl.work with
  | .segment t cs _ _, .sendStage op axis stage leg _ _ _ _ =>
    decide (collOpOf k t (cs / 256 % 16) = some op) && decide (axis = cs / 256 / 16) && (leg == decide (cs / 256 % 16 = 3)) && decide (cs % 256 < stage)
  | .segment t cs _ _, .update param _ _ =>
    (match paramAt k param, (collOpOf k t (cs / 256 % 16)).bind (collSpec k) with
     | some p, some sp => sp.gradient && decide (p.tensorId = t)
     | _, _ => false)
  | .returned layer mb _ back _, .rows op _ _ =>
    (match opNth k op with | some o => decide (o.cls = 8) && decide (o.layer = layer) && decide (sl.mb = some mb) && (flagBack o == back) | none => false)
  | _, _ => false

/-- A deadline: the sending beat, the path's class and the slack; the counts of an exchange are due in its allocation beat; and no slice
consumes the item before the beat after it (R45, R210). -/
def deadlineSound (k : Job) (p : Plan) (d : Deadline) : Bool :=
  (match d.item with
   | .counts layer mb _ => p.exchanges.any fun x => decide (x.layer = layer) && decide (x.mb = mb) && !x.backward && decide (x.allocBeat = d.beat)
   | _ => decide (d.beat = d.sent + (d.lambda : Int) + (k.hdr.slack : Int))) &&
    p.slices.all fun sl => !consumes k d.item sl || decide (d.beat < sl.beat)

/-- Destination of a move's slice. -/
def moveTarget : Work → Option (Nat × Nat)
  | .move _ dst n => some (dst, n)
  | .transposeMove _ dst rows cols fmt _ _ => some (dst, cols * rowBytes fmt rows)
  | .prefetch _ _ dst n => some (dst, n)
  | _ => none

/-- No slice reads a move's destination in the beat of the move (R193). -/
def movesFirst (s : State) (f : Nat) (k : Job) (p : Plan) : Bool :=
  p.slices.all fun m => match moveTarget m.work with
    | none => true
    | some t => p.slices.all fun sl => decide (sl = m) || decide (sl.beat ≠ m.beat) ||
        (sliceReads (sliceCtx s f k k.committed.step sl) sl).all fun q => !overlaps q.1 q.2 t.1 t.2

/-- A layer's prefetch for a micro-batch ends before the layer's first product of that micro-batch and direction (R194). -/
def prefetchFirst (k : Job) (p : Plan) : Bool :=
  p.slices.all fun m => match m.work with
    | .prefetch param _ _ _ => p.slices.all fun sl => (match sl.work, paramAt k param with
        | .tile op _ _ _ _ _ _ _, some q => (match opNth k op with
            | some o => !(decide (o.layer = q.layer) && decide (sl.mb = m.mb) && (sl.backward == m.backward)) || decide (m.beat < sl.beat)
            | none => true)
        | _, _ => true)
    | _ => true

/-! ### Exchanges (R210, R211, R222, R227) -/

/-- κ of R210. -/
def kappa (k : Job) (p : Plan) : Nat := if (axisLine k 0).isNone && p.map.eLambda.all (· == 0) then 0 else 1

/-- Hub cycles of a data phase (Table 2.4). -/
def hubCycles (s : State) : Nat := (s.eng.period - 1250) * 8 / 5

/-- Beats of an allocation: ceil((2,048 + 8 × N) ÷ h) (R211). -/
def allocBeats (s : State) (k : Job) (layer : Nat) : Nat := ceilDiv (2048 + 8 * expertsOf k layer) (max 1 (hubCycles s))

/-- Beats of a dispatch window of a direction (R222, R223, R228). -/
def windowOf (s : State) (k : Job) (layer mb : Nat) (backward : Bool) : Nat :=
  if backward then windowBeats s k layer mb false (dispatchRow k layer mb true) else dispatchBeats s k layer mb

/-- A slice of an exchange's stages stands no earlier than Table 7.5 has it. -/
def stageSound (s : State) (k : Job) (p : Plan) (x : PlannedExchange) (sl : Slice) : Bool :=
  match sl.work with
  | .rows op _ _ => (match opNth k op with
    | some o => !(decide (o.cls = 6) && !flagBack o && !x.backward && decide (o.layer = x.layer) && decide (sl.mb = some x.mb)) || decide (sl.beat < x.countBeat)
    | none => true)
  | .dispatch layer mb r b _ =>
    !(decide (layer = x.layer) && decide (mb = x.mb) && (sl.backward == x.backward)) ||
      (decide (b < windowOf s k layer mb x.backward) &&
        (if r = 0 then decide (sl.beat = x.firstDispatch + (b : Int)) else decide (x.firstDispatch + ((r * windowOf s k layer mb x.backward + b : Nat) : Int) ≤ sl.beat)))
  | .returnRows layer mb r _ _ =>
    !(decide (layer = x.layer) && decide (mb = x.mb) && (sl.backward == x.backward)) ||
      p.slices.all fun w => (match w.work with
        | .groupedWindow op m q => !(decide (some op = expertOp k layer x.backward) && decide (m = mb) && decide (q = r)) || decide (w.beat < sl.beat)
        | _ => true)
  | _ => true

/-- An exchange's beats (R210, R211, R227, R228). -/
def exchangeSound (s : State) (k : Job) (p : Plan) (x : PlannedExchange) : Bool :=
  (x.backward || decide (x.allocBeat = x.countBeat + (kappa k p : Int))) &&
    decide (x.firstDispatch = x.allocBeat + (allocBeats s k x.layer : Int)) && p.slices.all (stageSound s k p x)

/-! ### Orders within a step (R147, R231, R254, R269, R271, R283) -/

/-- Accumulations of one weight gradient stand in ascending (micro-batch, round), and only the last of them casts (R231, R251). -/
def accumulationsOrdered (p : Plan) : Bool :=
  let l := (byBeat p).filterMap fun sl => match sl.work with
    | .accumulateGrad param _ _ _ round last e => some (param, e, (sl.mb.getD 0) * 256 + round, last)
    | _ => none
  let rec ok : List (Nat × Option Nat × Nat × Bool) → Bool
    | [] => true
    | x :: r => (r.all fun y => !(decide (y.1 = x.1) && decide (y.2.1 = x.2.1)) || (decide (x.2.2.1 < y.2.2.1) && !x.2.2.2)) && ok r
  ok l

/-- Export records stand between the begin and the end of their step in ascending (tensor_id, part) (R283). -/
def exportsOrdered (k : Job) (p : Plan) : Bool :=
  let l := (byBeat p).filterMap fun sl => match sl.work with
    | .exportBegin => some (0, 0)
    | .exportRecords param part => some ((match paramAt k param with | some q => q.tensorId | none => 0) * 4 + part + 1, 1)
    | .exportEnd => some (0, 2)
    | _ => none
  let rec ok : Option Nat → List (Nat × Nat) → Bool
    | s, [] => s.isNone
    | none, x :: r => decide (x.2 = 0) && ok (some 0) r
    | some n, x :: r => if x.2 = 2 then ok none r else decide (x.2 = 1) && decide (n < x.1) && ok (some x.1) r
  ok none l

/-- Parts that a step's export covers: every weight, and states and the biases of every expert layer with `export_state` 1 (R283, R285). -/
def exportsWhole (k : Job) (p : Plan) : Bool :=
  let has (i part : Nat) : Bool := p.slices.any fun sl => match sl.work with | .exportRecords q r => decide (q = i) && decide (r = part) | _ => false
  let states (q : ParamEntry × Nat) : Bool := paramFrozen q.1 ||
    (match groupOp k q.1 with | some o => (List.range (stateParts k o q.1).length).all fun i => has q.2 (i + 1) | none => true)
  let biases (x : ExchEntry) : Bool := k.params.zipIdx.any fun q => decide (q.1.layer = x.layer) && has q.2 3
  !(p.slices.any fun sl => decide (sl.work = .exportBegin)) || (k.params.zipIdx.all fun q =>
    has q.2 0 && (decide (k.hdr.exportState = 0) || states q)) && (decide (k.hdr.exportState = 0) || k.exch.all biases)

/-- Under `recompute_policy` 0 no forward tile of a micro-batch is computed twice (R147). -/
def noRecompute (k : Job) (p : Plan) : Bool :=
  let l := p.slices.filterMap fun sl => match sl.work with
    | .tile op b mt nt b0 _ _ _ => if sl.backward then none else some (op, sl.mb, b, mt, nt, b0)
    | _ => none
  decide (k.hdr.recompute ≠ 0) || decide (l.eraseDups.length = l.length)

/-- The beats that the plan names against its slices: u0, the vote beat, `scale_lag` and the commit point (R50, R254, R269, R271). -/
def beatsSound (s : State) (k : Job) (p : Plan) : Bool :=
  let updates := p.slices.filter fun sl => match sl.work with | .update _ _ _ => true | .updateFactored _ => true | _ => false
  let losses := p.slices.filter fun sl => match sl.work with
    | .rows op _ _ => (match opNth k op with | some o => decide (o.cls = 9) | none => false)
    | _ => false
  (updates.all fun sl => decide ((p.firstUpdate : Int) ≤ sl.beat)) && (updates.isEmpty || updates.any fun sl => decide (sl.beat = p.firstUpdate)) &&
    decide (p.voteBeat + announceDist s + p.barrierBound ≤ p.commitPoint) && decide (p.commitPoint ≤ p.stepBeats) &&
    decide (p.scaleLag = b2n (losses.any fun sl => decide (sl.beat + (p.stepBeats : Int) < p.commitPoint)))

/-! ### Collectives (R294 to R300, R307) -/

/-- Partner of device i of n in a stage of Table 9.4's code, in a reduction or in a gather, for the block of `owner`; none where that stage sends
nothing of that block from i (R294, R299). -/
def stagePartner (n i stage owner : Nat) (gather : Bool) : Option Nat :=
  let v := leafOf n i
  let w := leafOf n owner
  let m := treeM n
  let mate (k : Nat) : Nat := devOf n (v ^^^ 2 ^ k)
  if stage = 0 then (if isUpper n i && (!gather || decide (owner = i)) then some (i - 1) else none)
  else if stage = 0xFF then (if gather && isLower n i && !decide (owner = i + 1) then some (i + 1) else none)
  else if stage = deliverStage then
    (if !gather && !isUpper n i && isUpper n owner && decide (v % 2 ^ (m - 1) = w % 2 ^ (m - 1)) then some owner else none)
  else if isUpper n i || m < stage then none
  else
    let k := stage - 1
    if gather then (if v % 2 ^ (k + 1) = w % 2 ^ (k + 1) then some (mate k) else none)
    else if stage = m && isUpper n owner then none
    else if v % 2 ^ k = w % 2 ^ k ∧ v / 2 ^ k % 2 ≠ w / 2 ^ k % 2 then some (mate k) else none

/-- Index along an axis of the member whose block a row of a gathered tensor is; the members of lower axes hold only their own yet (R299). -/
def gatherOwner (k : Job) (o : OpD) (axis row : Nat) : Option Nat :=
  let axes := axesOf (opArg o 1 1)
  let rank := blockOwner (outAt o 0).rows (gatherRank k axes ⟨0, 0, 0, 0⟩).2 row
  let place (a : Nat) : Nat := rank / (axes.filter fun b => decide (b < a)).foldl (fun m b => m * coordOn k.lengths b) 1 % max 1 (coordOn k.lengths a)
  if (axes.filter fun a => decide (a < axis)).all fun a => decide (place a = coordOn k.coord a) then some (place axis) else none

/-- Rows that elements e0 to e0 + n − 1 of a tensor touch. -/
def rowsTouched (cols e0 n : Nat) : List Nat :=
  let a := e0 / max 1 cols
  (List.range (ceilDiv (e0 + n) (max 1 cols) - a)).map (a + ·)

/-- Whether a stage of a collective sends what R294 and R299 have it send, to the partner that they name, out of the port of the shorter way. -/
def collStageSound (s : State) (k : Job) (op axis stage : Nat) (leg : Bool) (dst : Coord) (port e0 n : Nat) : Bool :=
  let len := coordOn k.lengths axis
  let i := coordOn k.coord axis
  let peer := coordOn dst axis
  let blocks : Option (List (Option Nat)) := match collSpec k op with
    | some sp =>
      if !sp.axes.contains axis || (leg && !sp.all && decide (sp.axes.getLast? = some axis)) then none
      else some ((rowsTouched sp.cols e0 n).map fun r => stagePartner len i stage (blockOwner sp.rows len r) leg)
    | none => (opNth k op).bind fun o =>
      if o.cls ≠ 0x10 ∨ !(axesOf (opArg o 1 1)).contains axis then none
      else if gatherA2A o then some ((rowsTouched (refAt o 0).cols e0 n).map fun r => some (blockOwner (refAt o 0).rows len r))
      else some ((rowsTouched (outAt o 0).cols e0 n).map fun r => (gatherOwner k o axis r).bind fun w => stagePartner len i stage w true)
  decide (dst = coordPut k.coord axis peer) && decide (portsTo s k dst = [port]) &&
    (match blocks with | some l => l.all fun q => decide (q = some peer) | none => false)

/-- Whether every row of an all-to-all's input that belongs to another device is planned to go there: nothing of a GATHER is dropped (R300). -/
def allToAllWhole (k : Job) (p : Plan) (op : Nat) (o : OpD) : Bool :=
  let axis := (axesOf (opArg o 1 1)).headD 3
  let r := refAt o 0
  let sent := p.slices.filterMap fun sl => match sl.work with
    | .sendStage q _ _ _ dst _ e0 n => if q = op then some (coordOn dst axis, e0, n) else none
    | _ => none
  !(p.slices.any fun sl => match sl.work with | .contribute q _ => decide (q = op) | _ => false) ||
    (List.range (coordOn k.lengths axis)).all fun d =>
      let b := blockShare r.rows (coordOn k.lengths axis) d
      let l := (sent.filter fun x => decide (x.1 = d)).map fun x => x.2
      decide (d = coordOn k.coord axis) || coversAll l l.length (b.1 * r.cols) ((b.1 + b.2) * r.cols)

/-- Stages of reductions in the plan: operator, axis, stage, first element, elements, beat. -/
def reduceStages (k : Job) (p : Plan) : List (Nat × Nat × Nat × Nat × Nat × Int) :=
  p.slices.filterMap fun sl => match sl.work with
    | .sendStage op axis stage false _ _ e0 n => if (collSpec k op).isSome then some (op, axis, stage, e0, n, sl.beat) else none
    | _ => none

/-- The stage that comes before one of a reduction, where it has one. -/
def stageBefore (n stage : Nat) : Option Nat :=
  if stage = deliverStage then some (treeM n - 1) else if stage = 0 then none else some (stage - 1)

/-- Whether a chunk's stage comes after the deadlines of what its stage before receives (R296). -/
def chunkSound (k : Job) (p : Plan) (x : Nat × Nat × Nat × Nat × Nat × Int) : Bool :=
  match collSpec k x.1, stageBefore (coordOn k.lengths x.2.1) x.2.2.1 with
  | some sp, some q =>
    p.deadlines.all fun d => match d.item with
      | .segment t c off _ =>
        let inChunk := match localOf k sp.tensor sp.rows sp.cols off with
          | some e => decide (x.2.2.2.1 ≤ e.1 * sp.cols + e.2) && decide (e.1 * sp.cols + e.2 < x.2.2.2.1 + x.2.2.2.2.1)
          | none => false
        !(decide (t = sp.tensor) && decide (c = (1 + 16 * x.2.1) * 256 + q) && inChunk) || decide (d.beat < x.2.2.2.2.2)
      | _ => true
  | _, _ => true

/-- Bytes of partials that wait between stages at a beat: elements of a later stage whose reduction has begun (R296). -/
def partialsHeld (k : Job) (p : Plan) (b : Int) : Nat :=
  let l := reduceStages k p
  sumNat ((l.filter fun x => decide (x.2.2.1 ≠ 0) && decide (b ≤ x.2.2.2.2.2) && l.any fun y => decide (y.1 = x.1) && decide (y.2.2.2.2.2 < b)).map fun x =>
    x.2.2.2.2.1 * (match collSpec k x.1 with | some sp => if sp.counts then 4 else fmtBits sp.wire / 8 | none => 0))

/-- b of R307 from the deepest path of the barrier tree, each hop of which adds at least its 40 ns to L. -/
def barrierSound (s : State) (k : Job) (p : Plan) : Bool :=
  let root := jobRoot s k
  let depth (c : Coord) : Nat := sumNat (([0, 1, 2, 3] : List Nat).map fun a =>
    (shortWay (coordOn k.lengths a) (coordOn c a) (coordOn root a) (axisLine k a)).1)
  decide (40000 * maxNat ((liveMembers s k).map depth) ≤ p.map.treePs) && decide (p.barrierBound = 1 + ceilDiv (2 * p.map.treePs) (1000 * max 1 s.eng.period))

/-- The collectives of a plan (R294 to R300). -/
def collectivesSound (s : State) (k : Job) (p : Plan) : Bool :=
  (p.slices.all fun sl => match sl.work with
    | .sendStage op axis stage leg dst port e0 n => collStageSound s k op axis stage leg dst port e0 n
    | _ => true) &&
  (k.ops.zipIdx.all fun o => !(decide (o.1.cls = 0x10) && gatherA2A o.1) || allToAllWhole k p o.2 o.1) &&
  (reduceStages k p).all (chunkSound k p) && p.slices.all fun sl => decide (partialsHeld k p sl.beat ≤ 40 * 2 ^ 20)

/-! ### Stages and axes (R238, R336) -/

/-- Whether a list is lexicographically smaller than another. -/
def lexLess : List Nat → List Nat → Bool
  | [], [] => false
  | [], _ => true
  | _, [] => false
  | a :: r, b :: t => decide (a < b) || (decide (a = b) && lexLess r t)

/-- A split of layers into stages: stage costs in descending order, layer counts in stage order. -/
structure Split where
  costs : List Nat
  counts : List Nat
  deriving DecidableEq, Repr

/-- Whether R238 prefers a split to another. -/
def Split.better (a b : Split) : Bool := lexLess a.costs b.costs || (decide (a.costs = b.costs) && lexLess b.counts a.counts)

def insertDown (n : Nat) : List Nat → List Nat
  | [] => [n]
  | x :: r => if x ≤ n then n :: x :: r else x :: insertDown n r

/-- The preferred splits of every suffix of the layers into a number of stages, the whole list first. -/
def suffixSplits (costs : List Nat) : Nat → List Split
  | 0 => []
  | 1 => (List.range (costs.length + 1)).map fun i => ⟨[sumNat (costs.drop i)], [costs.length - i]⟩
  | n + 1 =>
    let rest := suffixSplits costs n
    (List.range (costs.length + 1)).map fun i =>
      ((List.range (costs.length + 1 - i)).map fun c =>
        let t := rest.getD (i + c) ⟨[], []⟩
        (⟨insertDown (sumNat ((costs.drop i).take c)) t.costs, c :: t.counts⟩ : Split)).foldl (fun m x => if m.counts.isEmpty || x.better m then x else m) ⟨[], []⟩

/-- Layers of each stage: those given, or the preferred split of the layers' costs (R238). -/
def stageCounts (given : List Nat) (stages : Nat) (costs : List Nat) : List Nat :=
  if given.isEmpty then (suffixSplits costs (max 1 stages)).headD ⟨[], []⟩ |>.counts else given

/-- The physical axis of each cut: cuts by descending planned bytes take the best-ranked free axis of their length; a cut whose length no free
axis has takes its own axis if that is free, else the best-ranked free one (R336; log 166). -/
def assignAxes (ranking : List Nat) (phys cuts : Coord) (bytes : List Nat) : List Nat :=
  let order := sortBy (fun a => (maxNat bytes - bytes.getD a 0) * 4 + a) [0, 1, 2, 3]
  let take (taken : List (Nat × Nat)) (a : Nat) : List (Nat × Nat) :=
    let free := ranking.filter fun x => !taken.any fun t => decide (t.2 = x)
    match free.find? fun x => decide (coordOn phys x = coordOn cuts a) with
    | some x => taken ++ [(a, x)]
    | none => taken ++ [(a, if free.contains a then a else free.headD a)]
  let r := order.foldl take []
  ([0, 1, 2, 3] : List Nat).map fun a => lookupD r a a

/-- The axes that a compilation uses: ranked, the default map, or those in force (R334, R336). -/
def axesFor (s : State) (j : Job) (p : Plan) : List Nat :=
  match j.ranked with
  | none => j.axes
  | some false => [0, 1, 2, 3]
  | some true => assignAxes (match s.fab.map with | some m => m.ranking | none => [0, 1, 2, 3]) (mapLengths s) p.map.lengths p.cutBytes

/-! ### The compiler's inputs and its guarantees (R46) -/

/-- The inputs of a compilation (Table 2.5). -/
def compileInputs (s : State) (j k : Job) : CompileInputs :=
  { desc := j.desc, ops := k.ops, hdr := k.hdr, coord := selfPhys s, lengths := j.newLengths.getD j.lengths, slabs := k.slabs, axes := j.axes,
    ranked := j.ranked, map := s.fab.map, lines := ([0, 1, 2, 3] : List Nat).map (lineGap s), lambdas := s.fab.ports.map (·.lambda),
    period := s.eng.period, compiler := (if s.flash.runB then s.flash.slotB else s.flash.slotA).map (·.version) }

/-- Whether equal inputs have given this plan before, or none (R46). -/
def sameAsBefore (known : List (CompileInputs × Plan)) (i : CompileInputs) (p : Plan) : Bool := known.all fun x => !decide (x.1 = i) || decide (x.2 = p)

/-- The latency classes of the E ring that the plan was compiled for are those of the own ports (R44). -/
def lambdasSound (s : State) (k : Job) (p : Plan) : Bool :=
  let n := k.lengths.e
  let own (dir i : Nat) : Bool :=
    let x := portAt s (axisPort (k.axes.getD 0 0) dir)
    decide (x.pstate ≠ 2) || decide (p.map.eLambda.getD i 0 = x.lambda)
  decide (n < 2) || (decide (p.map.eLambda.length = n) && own 0 k.coord.e && own 1 ((k.coord.e + n - 1) % n))

/-- What the compiler guarantees of the plan of job k, which comes after job j (R46; log 3). -/
def planSound (s : State) (f : Nat) (j k : Job) (p : Plan) : Bool :=
  decide (clampCuts p.map.lengths = p.map.lengths) && decide (p.map.axes = axesFor s j p)
    && decide (p.map.slabs.length = p.map.lengths.d) && slabsFollow s { j with axes := p.map.axes } p.map.slabs && lambdasSound s k p
    && decide (p.stages = stageCounts k.stages k.lengths.p p.layerCosts)
    && sameAsBefore (fnAt s f).compiled (compileInputs s j k) p
    && (p.slices.all fun sl => resFits k sl && resOwned s f sl.res && inBanks k sl)
    && fitsBudgets s f k p && tilesWhole k p && checksPlaced s f p
    && (p.deadlines.all (deadlineSound k p)) && movesFirst s f k p && prefetchFirst k p
    && (p.exchanges.all (exchangeSound s k p))
    && collectivesSound s k p && barrierSound s k p && accumulationsOrdered p && exportsOrdered k p && exportsWhole k p && noRecompute k p && beatsSound s k p
    && decide (p.retainLayers ≤ k.hdr.retain) && decide (deviceState k ≤ p.map.stateMax) && decide (p.map.stateMax ≤ 384 * 2 ^ 30)

end Sys2Proof.Machine
end

