-- ==== Sys2Proof/Machine/Report.lean ====
section
/-! DEFINITION. The plan report of JOB.PLAN (spec/13 R429, with spec/04 R122, spec/05 R136, spec/07 R213 to R222, R237, spec/09 R297). -/
namespace Sys2Proof.Machine
open Sys2Proof

/-! ### The busiest link of a collective (R297) -/

/-- The blocks of virtual leaf v among n (R294). -/
def leafBlocks (n v : Nat) : List Nat := if v < treeB n then [v] else [devOf n v, devOf n v + 1]

/-- A transfer on one axis: sender, receiver, bytes. -/
abbrev Transfer := Nat × Nat × Nat

/-- Leaves whose low k bits are those of v. -/
def leavesLike (n v k : Nat) : List Nat := (List.range (2 ^ treeM n)).filter fun x => decide (x % 2 ^ k = v % 2 ^ k)

/-- What leaf v sends in halving stage k of a reduce-scatter whose block i has w i bytes (R294 steps 2 and 3). -/
def halvingMoves (n : Nat) (w : Nat → Nat) (k v : Nat) : List Transfer :=
  let last := decide (k + 1 = treeM n)
  let lost := (leavesLike n v k).filter fun x => !decide (bit x k = bit v k)
  let kept := (lost.flatMap (leafBlocks n)).filter fun i => !(last && isUpper n i)
  let direct := ((leavesLike n v k).flatMap (leafBlocks n)).filter fun i => last && isUpper n i
  (devOf n v, devOf n (v ^^^ 2 ^ k), sumNat (kept.map w)) :: direct.map fun i => (devOf n v, i, w i)

/-- Transfers of a reduce-scatter (R294). -/
def scatterMoves (n : Nat) (w : Nat → Nat) : List Transfer :=
  let all := sumNat ((List.range n).map w)
  ((List.range (treeR n)).map fun i => (treeB n + 2 * i + 1, treeB n + 2 * i, all))
    ++ (List.range (treeM n)).flatMap fun k => (List.range (2 ^ treeM n)).flatMap (halvingMoves n w k)

/-- Transfers of an all-gather (R299). -/
def gatherMoves (n : Nat) (w : Nat → Nat) : List Transfer :=
  let all := sumNat ((List.range n).map w)
  let pairs := (List.range (treeR n)).map fun i => (treeB n + 2 * i, treeB n + 2 * i + 1)
  (pairs.map fun p => (p.2, p.1, w p.2))
    ++ ((List.range (treeM n)).flatMap fun k => (List.range (2 ^ treeM n)).map fun v =>
         (devOf n v, devOf n (v ^^^ 2 ^ k), sumNat (((leavesLike n v (k + 1)).flatMap (leafBlocks n)).map w)))
    ++ pairs.map fun p => (p.1, p.2, all - w p.2)

/-- Bytes on the busiest directed link of an axis, over all transfers. -/
def busiestLink (n : Nat) (gap : Option Nat) (ms : List Transfer) : Nat :=
  maxNat ((List.range n).flatMap fun i => ([0, 1] : List Nat).map fun d =>
    sumNat ((ms.filter fun m => (pathLinks n gap m.1 m.2.1).contains (i, d)).map fun m => m.2.2))

/-- Axes on which a collective's busiest link is reported: lengths that are no power of two, and lines. -/
def reportsLink (k : Job) (a : Nat) : Bool :=
  let n := coordOn k.lengths a
  decide (1 < n) && (decide (2 ^ treeM n ≠ n) || (axisLine k a).isSome)

/-- Axis and bytes of each such axis of a REDUCE or GATHER. -/
def linkLoads (k : Job) (op : Nat) (o : OpD) : List (Nat × Nat) :=
  if o.cls = 0x0F then
    match collSpec k op with
    | none => []
    | some sp =>
      let row := sp.cols * (if sp.counts then 4 else fmtBits sp.wire / 8)
      (sp.axes.filter (reportsLink k)).map fun a =>
        let n := coordOn k.lengths a
        let w (i : Nat) : Nat := (blockShare sp.rows n i).2 * row
        let whole := sp.all || !decide (sp.axes.getLast? = some a)
        (a, busiestLink n (axisLine k a) (scatterMoves n w ++ (if whole then gatherMoves n w else [])))
  else if o.cls = 0x10 then
    let r := outAt o 0
    let scales := if groupSize r.group ≠ 0 then scaleBytes r.group r.cols else if r.scaleAddr ≠ 0 then 4 else 0
    let bytes := (refAt o 0).rows * (rowBytes r.fmt r.cols + scales)
    let axes := axesOf (opArg o 1 1)
    (axes.filter (reportsLink k)).map fun a =>
      let n := coordOn k.lengths a
      let before := (axes.filter fun b => decide (a < b)).foldl (fun m b => m * coordOn k.lengths b) 1
      let each (m : Nat) : Transfer := (m / n, m % n, bytes / n)
      (a, busiestLink n (axisLine k a) (if gatherA2A o then (List.range (n * n)).map each else gatherMoves n fun _ => bytes * before))
  else []

/-- The axis with the most bytes on one link, 0xFF with 0 bytes when none is reported. -/
def busyLink (k : Job) (op : Nat) (o : OpD) : Nat × Nat :=
  (linkLoads k op o).foldl (fun m x => if m.1 = 0xFF ∨ m.2 < x.2 then x else m) (0xFF, 0)

/-! ### Stationarity (R136) -/

/-- Bytes of `n` lines of an operand over the reduction elements of blocks b0 to b1 − 1, with their group scales. -/
def panelBytes (r : TRef) (n k b0 b1 : Nat) : Nat :=
  let e := min k (32 * b1) - min k (32 * b0)
  n * (rowBytes r.fmt e + (if groupedRef r then scaleBytes r.group e else 0))

/-- Bytes of the weight panels, or of the input panels, that the tiles of one operator draw on each core in one beat: of both planes of a
complex operand, and once of weights that all batches share. -/
def panelSums (p : Plan) (op : Nat) (o : OpD) (weights : Bool) : List Nat :=
  let shared (b : Nat) : Bool := weights && decide ((matmulGeom o b).b0 = 0)
  let tiles := p.slices.filterMap fun sl => match sl.work with
    | .tile q b mt nt b0 b1 _ _ => if q = op then some (sl.beat, sl.res, (if shared b then 0 else b, (if weights then nt else mt), b0, b1)) else none
    | _ => none
  let planes : List TRef := (if flagComplex o then [false, true] else [false]).map (if weights then planeB o else planeA o)
  let one (x : Nat × Nat × Nat × Nat) : Nat :=
    let g := matmulGeom o x.1
    sumNat (planes.map fun r => panelBytes r (tileSpan (if weights then g.n else g.m) x.2.1) g.k x.2.2.1 x.2.2.2)
  tiles.map fun t => sumNat (((tiles.filter fun u => decide (u.1 = t.1) && decide (u.2.1 = t.2.1)).map (·.2.2)).eraseDups.map one)

/-- Stationarity in force. -/
def stationarityOf (p : Plan) (op : Nat) (o : OpD) : Nat :=
  let fits (w : Bool) : Bool := (panelSums p op o w).all fun n => decide (n ≤ 4 * 2 ^ 20)
  if o.cls = 2 then 3
  else if o.cls ≠ 1 then 0
  else if o.stationarity ≠ 0 then o.stationarity
  else if fits true then 1 else if fits false then 2 else 3

/-! ### Table 13.10 -/

/-- Passes in force (R122). -/
def splitInForce (o : OpD) : Nat := if o.cls = 1 ∨ o.cls = 2 then (if o.splitLevel = 0 then 3 else min 3 o.splitLevel) else 0

/-- H' and the waste of R237, 0 when T divides the heads. -/
def headPad (k : Job) (o : OpD) : Nat × Nat :=
  let h := attHeads o
  let h' := localHeads k o * max 1 k.lengths.t
  if o.cls ≠ 3 ∨ h' = h then (0, 0) else (h', (h' - h) * 10000 / h')

def opReport (k : Job) (p : Plan) (op : Nat) (o : OpD) : Bytes :=
  let busy := busyLink k op o
  let pad := headPad k o
  let groups := (List.range o.nOut).foldl (fun n i => n + (outAt o i).group * 4 ^ i) 0
  natLE 2 o.layer ++ natLE 2 o.opIndex ++ natLE 1 (stationarityOf p op o) ++ natLE 1 (splitInForce o) ++ natLE 1 groups ++ natLE 1 busy.1
    ++ natLE 8 busy.2 ++ natLE 4 pad.1 ++ natLE 4 pad.2 ++ zeros 8

def layerReport (s : State) (k : Job) (x : ExchEntry) : Bytes :=
  let row := dispatchRow k x.layer 0 false
  natLE 2 x.layer ++ natLE 2 (roundsOf k x.layer 0) ++ natLE 4 (capacityOf k x.layer) ++ natLE 4 (dispatchBeats s k x.layer 0) ++ natLE 4 row ++ natLE 4 (bufRows k x.layer 0)
    ++ natLE 2 x.capFactor ++ natLE 1 x.overflow ++ natLE 1 x.spillWindows ++ natLE 4 x.recvMib ++ natLE 2 x.dispatchBeats ++ zeros 2

/-- The report of a plan of job k. -/
def planReport (s : State) (f : Nat) (k : Job) (p : Plan) (v : Nat) : Bytes :=
  natLE 4 v ++ natLE 4 p.stepBeats ++ natLE 4 p.commitPoint ++ natLE 1 p.scaleLag ++ natLE 1 (min p.retainLayers k.hdr.retain)
    ++ natLE 1 (l1InForce s f k) ++ natLE 1 (sat 255 p.barrierBound) ++ natLE 8 (deviceState k) ++ natLE 8 (planFar s f k) ++ fit 64 p.digest
    ++ natLE 2 k.hdr.planClock ++ natLE 1 k.hdr.farPercent ++ natLE 1 k.hdr.slack ++ natLE 2 k.hdr.commitSlack ++ zeros 26
    ++ (k.ops.zipIdx.map fun x => opReport k p x.2 x.1).flatten ++ (k.exch.map (layerReport s k)).flatten

end Sys2Proof.Machine
end

