-- ==== Sys2Proof/Machine/Jobs.lean ====
section
/-! DEFINITION. The JOB commands and the end of a compilation (spec/13 R426 to R429, spec/02 R46 to R49, spec/06 R180, R181, R190,
spec/08 R278, R279, spec/10 R334 to R336, spec/11 R359 to R362, R381). -/
namespace Sys2Proof.Machine
open Sys2Proof

/-- Marks a command as started without a completion: it answers later (R400). -/
def begun (s : State) (c : Cmd) : State := setFlight s c.req fun f => { f with phase := .interim }

/-- Effects on the job of a command's function. -/
def withJob (s : State) (c : Cmd) (body : Job → State) : State := match jobAt s (cIx c) with | some j => body j | none => s

/-- Whether a JOB command waits for an earlier one of its function: a load, a requested compilation or a verification (R391). -/
def jobBusy (j : Job) : Bool := j.loading.isSome || j.verifying.isSome || (match j.compiling with | some (some _, _) => true | _ => false)

/-! ### JOB.LOAD (R426) -/

/-- Header offset of a wrong `magic`, `format` or `total_len`. -/
def badDescription (b : Bytes) : Option Nat :=
  if rd b 0 4 ≠ 0x424F4A44 then some 0
  else if rd b 4 2 ≠ 1 then some 4
  else if b.length < 256 ∨ rd b 136 8 ≠ b.length then some 136
  else none

/-- Initial router biases of an expert layer: NaN becomes +0, others are clamped (R205). -/
def initBiases (m : Memory) (x : ExchEntry) : Nat × List F32 :=
  let lim := dec32 x.limit
  let fix (w : F32) : F32 := if (dec32 w).isNan then 0 else enc32 (vClamp (vNeg lim) lim (dec32 w))
  (x.layer, (List.range 512).map fun i =>
    if x.initAddr = 0 then 0 else fix (BitVec.ofNat 32 (leNat (memRead m (x.initAddr + 4 * i) 4))))

def committedNew (m : Memory) (h : JobHdr) (ops : List OpD) (exch : List ExchEntry) : Committed where
  step := 0
  optStep := 0
  products := (ops.filter fun o => decide (o.cls = 0x0E)).map fun _ => (0x3F800000, 0x3F800000)
  lsExp := h.lossScaleInit
  cleanRun := 0
  version := 0
  bank := 0
  biases := exch.map (initBiases m)

/-- A job as JOB.LOAD leaves it (R7, R205, R234, R254, R257, R265, R334, R426). -/
def newJob (s : State) (f : Nat) (b : Bytes) : Job :=
  let len := mapLengths s
  let n := coordSize len
  let h := hdrOf n len.d b
  let cuts := clampCuts h.cuts
  let ops := (descOps b).map opOf
  let exch := (entriesAt b (rd b 120 8) 40 (rd b 68 2)).map exchEntryOf
  let com := committedNew s.st.mem h ops exch
  let me := selfPhys s
  let zero := ops.map fun _ => (⟨0, 0, 0⟩ : OpCount)
  { hdr := { h with cuts }, desc := b, digest8 := (sha512 b).take 8, coord := me, lengths := cuts, axes := [0, 1, 2, 3],
    slabs := List.range cuts.d, ops, params := (entriesAt b (rd b 112 8) 64 (rd b 66 2)).map paramOf, exch, stages := stagesOfDesc b cuts.p,
    plan := none, planVersion := 0, planArea := none, verified := false, ranked := none, next := none, nextOps := none, loading := none, compiling := none,
    atSwitch := [], newLengths := none, newWarm := none, warm := warmInForce n len.d cuts.d h.policy, l1Slots := 0xFF, policyWanted := h.policy,
    verifying := none, refPlan := none, committed := com, anchor := none, runStep := 0, slotBase := 0, run := none, attempt := 0, abandoned := 0, causes := [],
    restoredOnce := false, stopped := false, epochs := [], cancelled := [], cancels := [], hold := none, holdBeats := 0, commit := none,
    votes := [], voted := false, barriersDone := [], recovery := .none, replay := none, updateOnly := false, committedHit := false,
    holdingHit := false, sentinelHit := false, checks := [], testing := false, holding := [], accums := [], collectives := [], nonfinite := false,
    nextNonfinite := false, sigma := com.lsExp, lsBefore := com.lsExp, abortOrigin := none, updated := [], staged := [], parked := [], holders := [], tags := [],
    clipFactor := 0x3F800000, clipKnown := false, gradNorm := 0, loads := [], exchanges := [], arrivals := [], lossParts := [], factor := [], normTotal := none,
    workLists := [], windowsDone := [], released := [], running := [], stats := StepStats.init 0 com.lsExp 0, nextStats := StepStats.init 1 com.lsExp 0,
    history := [], counts := zero, countsDone := zero, countsBefore := zero, countedStep := none, chrysalises := (fnAt s f).drives.filterMap (driveChrysalis (fnAt s f) com),
    lost := [], stopWanted := none, stopFrom := none, taken := 0, loss := none, transfersDue := false, stopEnd := none, lastStop := s.eng.beat, l1Busy := false, l2Busy := false, aborting := [], policyNext := none,
    restoring := none, exporting := none, lastEnd := none, partner := [], exportGap := false, lastExport := s.eng.beat, prevBiases := com.biases, ownersChange := false, early := [], left := [],
    gone := !coordIn cuts me }

/-- JOB.LOAD: the description, the hash key, the far memory (R180, R190, R426, R451). -/
def jobLoad (s : State) (c : Cmd) : State :=
  let f := cIx c
  needState s c [1] <|
  unlessRefused s c (s.pow.state ≠ 2) 9 0xFFFF <|
  match badDescription c.payload with
  | some off => answer s c (replyRefused s c 0 off)
  | none =>
    let j := newJob s f c.payload
    let (k, s1) := drawFree s
    let s2 := setFn s1 f fun x => { x with hashKey := some (Config.hashKey k), job := some j }
    let s3 := if s2.st.farState = 0 then { s2 with st := { s2.st with farState := 1 } } else s2
    if (missingDomains s3).isEmpty then answer { s3 with st := { s3.st with farState := 2 } } c (loadReply j)
    else answer (setJob s3 f fun j => { j with loading := some c.req }) c (replyAccepted j.digest8)

def execJobLoad (c : Cmd) (s : State) : Host.Outcome State Fault Refusal := .next (startCmd s c fun s => jobLoad s c)

/-! ### JOB.PLAN (R426 to R428) -/

/-- Header fields after the inline fields of JOB.PLAN (R427), with the policy that was asked for (R362). -/
def planHdr (j : Job) (c : Cmd) : JobHdr :=
  let h := j.hdr
  let keep (v none_ old new : Nat) : Nat := if v = none_ then old else new
  { h with planClock := keep (cArg c 32 2) 0 h.planClock (planClockOf (cArg c 32 2)),
           farPercent := keep (cArg c 34 1) 0 h.farPercent (clamp 25 100 (cArg c 34 1)),
           slack := keep (cArg c 35 1) 0xFF h.slack (min 8 (cArg c 35 1)),
           commitSlack := keep (cArg c 36 2) 0xFFFF h.commitSlack (min 256 (cArg c 36 2)), policy := mergePolicy j.policyWanted h.policy }

/-- The job as a compilation that begins now sees it: structures in device memory are read, lengths are those asked for (R46, R426). -/
def jobToCompile (s : State) (j : Job) (h : JobHdr) : Job :=
  fitBiases { j with hdr := h, ops := (descOps j.desc).map (opCompiled s.st.mem), lengths := j.newLengths.getD j.lengths }

/-- Reads the structures, tests them and begins a compilation, or refuses (R426, R428). -/
def compileFor (s : State) (c : Cmd) (h : JobHdr) (go : State → State) : State :=
  withJob s c fun j =>
    let k := jobToCompile s j h
    match planRefusal s (cIx c) k with
    | some r => answer s c (planReply r)
    | none => go (setJob s (cIx c) fun j => { beginCompile j (some c.req) with nextOps := some (k.ops, k.hdr) })

def jobPlan (s : State) (c : Cmd) : State :=
  needState s c [2, 3, 4] <|
  withJob s c fun j =>
    if jobBusy j then s
    else compileFor s c (planHdr j c) fun s1 => answer s1 c (replyAccepted (natLE 4 (nextVersion j)))

def execJobPlan (c : Cmd) (s : State) : Host.Outcome State Fault Refusal := .next (startCmd s c fun s => jobPlan s c)

/-! ### JOB.VERIFY (R47) -/

/-- The root sends its digest down the tree and votes (R47). -/
def startVerify (s : State) (f ver : Nat) (d : Bytes) : State :=
  match jobAt s f with
  | none => s
  | some j =>
    let s1 := (barrierKids s j j.coord).foldl (fun s k => sendMsg s (portsTo s j k) 6 f (planBody ver d)) s
    voteVerify s1 f ver d

/-- Whether a version has been verified already. -/
def versionVerified (j : Job) (ver : Nat) : Bool :=
  (match j.next with | some (_, v, ok) => ok && decide (v = ver) | none => false) || (j.verified && decide (j.planVersion = ver))

def jobVerify (s : State) (c : Cmd) : State :=
  let f := cIx c
  needState s c [2, 3, 4] <|
  withJob s c fun j =>
    let newest := match j.next with | some (_, v, _) => v | none => j.planVersion
    let ver := if cArg c 32 4 = 0 then newest else cArg c 32 4
    if j.verifying.isSome then s
    else match ownDigest j ver with
      | none => answer s c (replyAbsent 0 ⟨255, 255, 255, 255⟩ 255)
      | some d =>
        if isRoot s j then startVerify (setJob (begun s c) f fun j => { j with verifying := some c.req }) f ver d
        else if versionVerified j ver then answer s c (replyOk (natLE 4 ver))
        else setJob (begun s c) f fun j => { j with verifying := some c.req }

def execJobVerify (c : Cmd) (s : State) : Host.Outcome State Fault Refusal := .next (startCmd s c fun s => jobVerify s c)

/-! ### JOB.MAP, JOB.RESHARD and JOB.RESIZE (R278, R334 to R336, R427) -/

def jobMap (s : State) (c : Cmd) : State :=
  needState s c [2, 3] <|
  unlessRefused s c (cArg c 32 1 < 2) 4 32 <|
  withJob s c fun j =>
    if jobBusy j then s else compileFor s c { j.hdr with policy := mergePolicy j.policyWanted j.hdr.policy } fun s1 =>
      begun (setJob s1 (cIx c) fun j => { j with ranked := some (decide (cArg c 32 1 = 0)) }) c

def execJobMap (c : Cmd) (s : State) : Host.Outcome State Fault Refusal := .next (startCmd s c fun s => jobMap s c)

/-- A change of lengths: compiled at once when nothing runs, at the plan switch when a step runs, or with the step abandoned (R278). -/
def changeShape (s : State) (c : Cmd) (len : Coord) (warm : Option Nat) (stages : List Nat) : State :=
  let f := cIx c
  withJob s c fun j =>
    let k := { j with newLengths := some len, stages, newWarm := if warm.isSome then warm else j.newWarm }
    let h := { j.hdr with policy := mergePolicy j.policyWanted j.hdr.policy }
    match planRefusal s f (jobToCompile s k h) with
    | some r => answer s c (planReply r)
    | none =>
      let ops := some ((jobToCompile s k h).ops, h)
      if j.run.isNone then
        if jobBusy j then s else begun (setJob s f fun _ => { beginCompile k (some c.req) with nextOps := ops }) c
      else if cImmediate c then
        let s1 := setJob s f fun _ => { beginCompile k (some c.req) with nextOps := ops, verified := false, holdingHit := true }
        raiseAbort (begun s1 c) f 0
      else
        let shown := { k with lengths := len, warm := k.newWarm.getD k.warm, planVersion := nextVersion j }
        answer (setJob s f fun _ => { beginCompile k none with nextOps := ops, atSwitch := k.atSwitch ++ [c.req] }) c { switchReply shown c with status := 3 }

/-- Members that a job may use: live modules less the warm slabs (R427). -/
def available (s : State) (j : Job) : Nat := ((liveModules s).filter fun m => !memberGone s j m.phys).length - j.lengths.e * j.lengths.t * j.lengths.p * j.warm

def jobReshard (s : State) (c : Cmd) : State :=
  let len := coordOf c.desc 32
  needState s c [2, 3, 4] <|
  withJob s c fun j =>
    unlessRefused s c (clampCuts len = len && coordSize len = available s j) 8 32 <|
    let stages := if cPayLen c = 0 then j.stages else (List.range len.p).map fun i => rd c.payload (2 * i) 2
    if cPayLen c ≠ 0 ∧ sumNat stages ≠ j.hdr.nLayers then answer s c (planReply ⟨0xFFFF, 0xFFFF, 0, 6, 0x0D⟩)
    else changeShape s c len none stages

def execJobReshard (c : Cmd) (s : State) : Host.Outcome State Fault Refusal := .next (startCmd s c fun s => jobReshard s c)

def jobResize (s : State) (c : Cmd) : State :=
  needState s c [2, 3, 4] <|
  withJob s c fun j =>
    let dPhys := coordOn (mapLengths s) (j.axes.getD 3 3)
    let d := clamp 1 128 (cArg c 32 1)
    let n := coordSize (mapLengths s)
    let asked := clampWarm n dPhys (cArg c 33 1)
    let w := if asked = 0 then warmDefault n dPhys else asked
    unlessRefused s c (d ≤ dPhys) 8 32 <|
    changeShape s c { j.newLengths.getD j.lengths with d } (some (min w (dPhys - d))) j.stages

def execJobResize (c : Cmd) (s : State) : Host.Outcome State Fault Refusal := .next (startCmd s c fun s => jobResize s c)

/-! ### JOB.UNLOAD (R180, R181, R190, R437) -/

def jobUnload (s : State) (c : Cmd) : State :=
  let f := cIx c
  needState s c [2, 3] <|
  withJob s c fun j =>
    if jobBusy j then s
    else
      let freed := sumNat ((fnAt s f).far.map (·.size))
      let s1 := clearFar (dropPartials (stopEnvOf s f) f) f true
      let s2 := loseCores (dropDomains (farOffIfUnused (setFn s1 f fun x => { x with job := none }))) f
      answer s2 c (replyOk (natLE 8 freed))

def execJobUnload (c : Cmd) (s : State) : Host.Outcome State Fault Refusal := .next (startCmd s c fun s => jobUnload s c)

/-! ### The end of a compilation (R46, R49, R336, R381) -/

/-- What the command that asked for a plan answers (Tables 13.9 and 13.10). -/
def compileReply (s : State) (f : Nat) (k : Job) (p : Plan) (v : Nat) (c : Cmd) : Reply :=
  if cOp c = 0x0402 then replyRes (natLE 4 v) (planReport s f k p v)
  else if cOp c = 0x0404 then replyOk (((List.range 4).map fun i => natLE 1 (p.map.axes.getD i i)).flatten)
  else switchReply k c

def answerCompile (s : State) (f : Nat) (k : Job) (p : Plan) (v : Nat) (req : Option Nat) : State :=
  match req.bind (flightOf s) with
  | some fl => answer s fl.cmd (compileReply s f k p v fl.cmd)
  | none => s

/-- Whether the plan in force keeps running while a new one waits for a commit (R49). -/
def keepsPlan (j : Job) : Bool := j.run.isSome && j.verified && (match j.recovery with | .recompile _ => false | _ => true)

/-- A plan that needs no commit comes into force: rows move to their new owners unless a restore brings them (R279, R381). -/
def enterNow (s : State) (f : Nat) (j k : Job) : State :=
  let s1 := setJob s f fun _ => { k with verified := false }
  let s2 := match j.recovery with | .recompile 0 => s1 | _ => takeEarly (moveRows s1 f j) f
  if j.run.isSome then s2 else finishDrain (startHeldDrain (serveAdmitted s2))

/-- Verification that no command asks for: while a step runs or waits for a replay, the root starts it; a reference that came early counts now. -/
def verifyAfter (s : State) (f v : Nat) (d : Bytes) (auto : Bool) : State :=
  match jobAt s f with
  | none => s
  | some j =>
    match j.refPlan with
    | some (w, ref) => if w = v then voteVerify s f v ref else s
    | none => if auto && isRoot s j then startVerify s f v d else s

/-- The host-class cores have compiled plan p: it is refused, waits for verification and a commit, or comes into force. A plan that breaks
what the compiler guarantees is none that they give, and changes nothing (R46; log 3). -/
def compilationComplete (s : State) (f : Nat) (p : Plan) : State :=
  match jobAt s f with
  | none => s
  | some j =>
    match j.compiling with
    | none => s
    | some (req, v) =>
      let k := enterPlan s f { j with compiling := none } p v
      if !planSound s f j k p then s
      else match compiledRefusal s f k p with
      | some r =>
        let s1 := setJob s f fun j => { j with compiling := none, nextOps := none, newLengths := none, newWarm := none, ranked := none, atSwitch := [] }
        answerAll (answerOpt s1 req (planReply r)) j.atSwitch (planReply r)
      | none =>
        let s := setFn s f fun x => { x with compiled := (compileInputs s j k, p) :: x.compiled }
        let asked := match req.bind (flightOf s) with | some fl => decide (cOp fl.cmd = 0x0402) | none => false
        if keepsPlan j then
          let s1 := setJob s f fun j => { j with compiling := none, next := some (p, v, false) }
          verifyAfter (answerCompile s1 f k p v req) f v p.digest (!asked)
        else
          let s1 := enterNow s f j k
          verifyAfter (answerCompile s1 f k p v req) f v p.digest j.run.isSome

def execCompilationComplete (f : Nat) (p : Plan) (s : State) : Host.Outcome State Fault Refusal := .next (compilationComplete s f p)

end Sys2Proof.Machine
end

