-- ==== Sys2Proof/Machine/Mailbox.lean ====
section
/-! DEFINITION. The bootstrap window, descriptor fetch and completion writes (spec/12 R384 to R390). -/
namespace Sys2Proof.Machine
open Sys2Proof

/-- The window accepts writes from the start of the control processors (R386). -/
def windowOpen (s : State) : Bool := decide (4 ≤ s.pow.stage) && s.pow.standby.isNone && s.pow.input

/-- Ring pair 0 arms once size and both bases are nonzero, with every counter at 0 (R385). -/
def armIfReady (s : State) : State :=
  if s.mbx.armed || s.mbx.cmdSize = 0 || s.mbx.cmdBase = 0 || s.mbx.cplBase = 0 then s
  else
    let s1 := setRing s 0 fun r =>
      { r with configured := true, cmdBase := s.mbx.cmdBase.toNat, cplBase := s.mbx.cplBase.toNat,
               slots := s.mbx.cmdSize.toNat, cmdHead := 0, cmdTail := 0, cplHead := 0, cplTail := 0, evHead := 0, evTail := 0,
               busy := [] }
    { s1 with mbx := { s1.mbx with armed := true } }

/-- Bits [11:0] of a base are ignored (Table 12.1). -/
def baseOf (v : Word64) : Word64 := v &&& ~~~(0xFFF : Word64)

/-- Slots in force for a value written: clamped to 8 to 256, rounded up to a power of two (R385). -/
def slotsInForce (v : Nat) : Nat := if v % 65536 = 0 then 0 else pow2Up (clamp 8 256 (v % 65536))

/-- R385: a base takes effect only while ring pair 0 is disarmed. -/
def execMbxCmdBaseWrite (v : Word64) (s : State) : Host.Outcome State Fault Refusal :=
  .next (if windowOpen s && !s.mbx.armed then armIfReady { s with mbx := { s.mbx with cmdBase := baseOf v } } else s)

/-- R385: 0 disarms; a nonzero size is ignored while armed. -/
def execMbxCmdSizeWrite (v : Word64) (s : State) : Host.Outcome State Fault Refusal :=
  .next (
    if !windowOpen s then s
    else if slotsInForce v.toNat = 0 then
      let s1 := setRing s 0 fun r => { r with configured := false }
      { s1 with mbx := { s1.mbx with armed := false, cmdSize := 0 } }
    else if s.mbx.armed then s
    else armIfReady { s with mbx := { s.mbx with cmdSize := BitVec.ofNat 64 (slotsInForce v.toNat) } })

/-- R385. -/
def execMbxCplBaseWrite (v : Word64) (s : State) : Host.Outcome State Fault Refusal :=
  .next (if windowOpen s && !s.mbx.armed then armIfReady { s with mbx := { s.mbx with cplBase := baseOf v } } else s)

def countOverfill (s : State) : State :=
  { s with mbx := { s.mbx with overfills := sat (2 ^ 32 - 1) (s.mbx.overfills + 1) } }

/-- R388: a doorbell moves the tail of a configured ring; one that would overfill the ring is ignored and counted. -/
def execMbxCmdTail (v : Word64) (s : State) : Host.Outcome State Fault Refusal :=
  .next (
    if !windowOpen s then s
    else
      let s := { s with mbx := { s.mbx with cmdTail := v } }
      let n := bits v.toNat 19 16
      let t := v.toNat % 65536
      let r := ringAt s n
      if 8 < n || !r.configured then s
      else if r.slots < ringCount r.cmdHead t then countOverfill s
      else
        let held := cpDown s 0
        setRing s n fun r =>
          { r with cmdTail := t, busy := if held then r.busy ++ [(r.cmdTail, t)] else r.busy })

/-- Writes EVENTS_LOST into the slot kept free (R404). -/
def reportLost (s : State) (n : Nat) : State :=
  let r := ringAt s n
  if r.evDropped = 0 then s
  else
    writeEvent (setRing s n fun r => { r with evDropped := 0 }) n
      (eventRecord s n 1 1 (genericBody (2 ^ 64 - 1) 0 r.evDropped 0))

/-- R388, R404: a head write frees slots of a completion ring, or of an event ring when bit 20 is set. -/
def execMbxCplHead (v : Word64) (s : State) : Host.Outcome State Fault Refusal :=
  .next (
    let n := bits v.toNat 19 16
    let h := v.toNat % 65536
    let r := ringAt s n
    if !windowOpen s || 8 < n then s
    else if bit v.toNat 20 then
      if r.evSlots = 0 then s
      else if r.evSlots < ringCount h r.evTail then countOverfill s
      else if r.evHead = h then s
      else reportLost (setRing s n fun r => { r with evHead := h }) n
    else if !r.configured then s
    else if 2 * r.slots < ringCount h r.cplTail then countOverfill s
    else setRing s n fun r => { r with cplHead := h })

/-- R384: a narrower, unaligned or read-only access is ignored. -/
def execRegisterWriteOther (_offset _width : Nat) (_v : Word64) (s : State) : Host.Outcome State Fault Refusal := .next s

/-- Commands of a ring that are in flight (R389). -/
def inFlight (s : State) (n : Nat) : Nat :=
  (s.mbx.flights.filter fun f => f.bridge.isNone && decide (f.cmd.ring = n)).length

/-- Whether a descriptor arrived while CP0 was in reset (R22). -/
def cameInReset (r : RingPair) : Bool := r.busy.any fun b => decide (ringCount b.1 r.cmdHead < ringCount b.1 b.2)

/-- The descriptors that came in resets of CP0, once the head counter has reached h (R22). -/
def busyAfter (l : List (Nat × Nat)) (h : Nat) : List (Nat × Nat) := l.filter fun b => !decide (b.2 = h)

/-- Whether the bridge may fetch from a ring: from READY until a reset (R386, R389, R399, R22); while its service port retrains, commands wait (R343). -/
def mayFetch (s : State) (n : Nat) : Bool :=
  let r := ringAt s n
  s.fab.bridge && decide ((portAt s 8).pstate = 2) && (s.pow.state = 1 || s.pow.state = 2 || s.pow.state = 3) && !cpDown s 0 && r.configured && decide (r.cmdHead ≠ r.cmdTail)
    && decide (inFlight s n < r.slots)

/-- R389: fetches the next descriptor; the tests that need no resource run at once (R399); other devices' commands leave
by FORWARD (R405). A descriptor that came while CP0 was in reset is answered BUSY (R22), with one beat of `retry_after` (log 151). -/
def execDescriptorFetch (ring : Nat) (desc payload : Bytes) (s : State) : Host.Outcome State Fault Refusal :=
  .next (
    if !mayFetch s ring then s
    else
      let r := ringAt s ring
      let req := s.mbx.nextReq
      let c : Cmd := ⟨req, ring, fit 64 desc, payload⟩
      let s1 := setRing s ring fun r => { r with cmdHead := (r.cmdHead + 1) % 65536, busy := busyAfter r.busy ((r.cmdHead + 1) % 65536) }
      let ts := resolveTargets s1 c
      let alone := ts.all fun t => decide (t.phys = selfPhys s)
      let fl : Flight := ⟨c, s.eng.beat, .fetched, none, if alone then [] else ts, false, 0⟩
      let s2 := { s1 with mbx := { s1.mbx with nextReq := (req + 1) % 2 ^ 32, flights := s1.mbx.flights ++ [fl] } }
      if cameInReset r then answer (setFlight s2 req fun f => { f with targets := [] }) c (replyBusy 1)
      else if ts.isEmpty then
        answer s2 c (if opcodeKnown (cOp c) then replyAbsent 0 (cTarget c) 255 else ⟨5, 0, 0, [1, 0], none⟩)
      else if alone then
        if blocked s2 c && opcodeKnown (cOp c) then s2
        else match preTest s2 c with
          | some x => answer s2 c x
          | none => s2
      else pumpPayload (dispatchFlights s2))

/-- A ring pair that FN.ENABLE configures starts once the command's completion is written (R412). -/
def enableRings (s : State) (req : Nat) : State :=
  let start (r : RingPair) : RingPair := if r.enabling = some req then { r with configured := true, enabling := none } else r
  { s with mbx := { s.mbx with rings := s.mbx.rings.map start } }

/-- R390, R401, R406: writes the oldest held completion of a ring into a free slot, the beat stamp last. -/
def execCompletionWrite (ring : Nat) (stampZero : Bool) (s : State) : Host.Outcome State Fault Refusal :=
  .next (
    let r := ringAt s ring
    match s.mbx.held.find? fun x => decide (x.ring = ring) with
    | none => s
    | some x =>
      if cpDown s 0 || !r.configured || !stampZero || decide (2 * r.slots ≤ ringCount r.cplHead r.cplTail) then s
      else
        let a := r.cplBase + 32 * (r.cplTail % max 1 (2 * r.slots))
        let s1 := if x.result.isEmpty then s else hostWrite s x.resultAddr x.result
        let s2 := hostWrite s1 a (slice x.bytes 0 8)
        let s3 := hostWrite s2 (a + 16) (slice x.bytes 16 16)
        let s4 := hostNotice (hostWrite s3 (a + 8) (slice x.bytes 8 8))
        let s5 := setRing s4 ring fun r => { r with cplTail := (r.cplTail + 1) % 65536 }
        let s6 := enableRings { s5 with mbx := { s5.mbx with held := s5.mbx.held.erase x } } x.req
        if !x.final then s6
        else match flightOf s6 x.req with
          | none => s6
          | some f =>
            let others := f.targets.filter fun t => !decide (t.phys = selfPhys s)
            let s7 := others.foldl (fun s t => forwardTo s t.phys x.req 4 ring 0 (selfPhys s) []) s6
            pumpPayload (dispatchFlights (dropFlight s7 x.req)))

end Sys2Proof.Machine
end

