-- ==== Sys2Proof/Machine/Panel.lean ====
section
/-! DEFINITION. The service face: PANEL commands, the locate pad and the attention button (spec/13 R436; spec/16 R494, R507 to R512). -/
namespace Sys2Proof.Machine
open Sys2Proof

/-- Sets locate; each change latches bit 7 of the alert causes (R509). -/
def setLocate (s : State) (on : Bool) : State :=
  if s.face.locate = on then s else setAlert { s with face := { s.face with locate := on } } 7

/-- A toggle clears any pending timeout and notes its time (R509). -/
def toggleLocate (s : State) (nowMs : Nat) : State :=
  let s1 := setLocate s (!s.face.locate)
  { s1 with face := { s1.face with locateTimeout := none, lastToggle := some nowMs } }

/-- Always-on time in ms of a command, from the system time base (log 36). -/
def nowMs (s : State) : Nat := s.eng.timeNs / 1000000

/-- R436, R509: off, on with a timeout, or toggle. -/
def panelLocate (s : State) (c : Cmd) : State :=
  let op := cArg c 32 1
  let t := cArg c 34 2
  unlessRefused s c (op ≤ 2) 4 32 <|
  let timeout := if t = 0 then none else some (clamp 1 3600 t)
  let s1 := if op = 2 then toggleLocate s (nowMs s) else setLocate s (op = 1)
  let s2 := { s1 with face := { s1.face with locateTimeout := if s1.face.locate then timeout else none } }
  answer s2 c (replyOk (natLE 1 (b2n s2.face.locate)))

def execPanelLocate (c : Cmd) (s : State) : Host.Outcome State Fault Refusal := .next (startCmd s c fun s => panelLocate s c)

/-- R436: the service indication, or a removal request as by the long press. -/
def panelService (s : State) (c : Cmd) : State :=
  let op := cArg c 32 1
  unlessRefused s c (op ≤ 2) 4 32 <|
  let s1 := if op = 2 then requestRemoval s else { s with face := { s.face with service := decide (op = 1) } }
  answer s1 c (replyOk (natLE 1 (b2n s1.face.service)))

def execPanelService (c : Cmd) (s : State) : Host.Outcome State Fault Refusal := .next (startCmd s c fun s => panelService s c)

/-- Whether a toggle within 500 ms before a time makes the next one ignored (R509, R517). -/
def tooSoon (s : State) (nowMs : Nat) : Bool :=
  match s.face.lastToggle with
  | some t => decide (nowMs < t + 500)
  | none => false

/-- R509: a touch of 50 ms to 2 s toggles locate. -/
def execLocatePadTouch (touchMs nowMs : Nat) (s : State) : Host.Outcome State Fault Refusal :=
  .next (if 50 ≤ touchMs ∧ touchMs ≤ 2000 ∧ !tooSoon s nowMs then toggleLocate s nowMs else s)

/-- R510: a press of 50 ms up to 3 s toggles locate on release. -/
def execAttentionButtonRelease (pressMs nowMs : Nat) (s : State) : Host.Outcome State Fault Refusal :=
  .next (if 50 ≤ pressMs ∧ pressMs < 3000 ∧ !tooSoon s nowMs then toggleLocate s nowMs else s)

/-- R510: a press that reaches 3 s requests removal. -/
def execAttentionLongPress (s : State) : Host.Outcome State Fault Refusal := .next (requestRemoval s)

/-- R436, R509: the timeout set by PANEL.LOCATE expires. -/
def execLocateTimeout (s : State) : Host.Outcome State Fault Refusal :=
  .next (if s.face.locateTimeout.isSome then
      let s1 := setLocate s false
      { s1 with face := { s1.face with locateTimeout := none } }
    else s)

/-- Table 16.11: pattern 5 ends after 5 s. -/
def execRefusalPatternEnd (s : State) : Host.Outcome State Fault Refusal :=
  .next { s with face := { s.face with refusal := false } }

/-! ### The light bar (R507, R508) -/

/-- The state code of Table 16.11: the first pattern whose condition holds. -/
def lightCode (s : State) : Nat :=
  if s.pow.standby.isSome then 1
  else if s.pow.state = 5 then 2
  else if s.fab.safe then 3
  else if molting s then 4
  else if s.face.refusal then 5
  else if s.fab.drain.isSome then 6
  else if s.face.locate then 7
  else if s.pow.stage ≤ 9 then 8
  else 9

/-- What a segment of the light bar shows in the normal display. -/
inductive Segment where
  | off | green | greenBlink | amber
  deriving DecidableEq, Repr

/-- The normal display, segments 0 to 7 (Table 16.12). -/
def normalDisplay (s : State) : List Segment :=
  let health := if s.pow.state = 2 then Segment.amber else .green
  let recent := match s.face.lastActive with | some t => decide (s.eng.timeNs ≤ t + 100000000) | none => false
  let activity := if recent && !(s.fns.any fun x => x.confidential) then Segment.green else .off
  let fn (f : Nat) : Segment :=
    if fnState s f = 4 then .green else if fnState s f = 2 ∨ fnState s f = 3 then .greenBlink else .off
  let good (p : Nat) : Bool := decide ((portAt s p).pstate = 2) && (portAt s p).spare
  let ports := if s.fab.map.isNone then Segment.off else if (listedPorts s).all good then .green else .amber
  let service := if s.face.service || s.st.spares.any (fun x => x.isNone) then Segment.amber else .off
  [health, activity, fn 0, fn 1, fn 2, fn 3, ports, service]

/-- The pattern of a cage's LED as the row of Table 16.13, counted from 1; 9 when off. -/
def cageLed (s : State) (p : Nat) : Nat :=
  let x := portAt s p
  if s.pow.standby.isSome then 9
  else if x.pstate = 3 then 1
  else if x.pstate = 4 then 2
  else if x.pstate = 0 ∧ x.present then 3
  else if x.pstate = 5 then 4
  else if x.pstate = 1 ∧ x.stage = 9 ∧ x.admitted then 6
  else if x.pstate = 1 ∧ x.stage = 9 ∧ (s.fab.drain.isSome || s.fab.safe) then 3
  else if x.pstate = 1 then 5
  else if x.pstate = 2 ∧ (!x.spare || x.failedRx.isSome || x.failedTx.isSome) then 7
  else if x.pstate = 2 then 8
  else 9

end Sys2Proof.Machine
end

