-- ==== Sys2Proof/Machine/Processors.lean ====
section
/-! DEFINITION. The watchdogs of the control processors, and the duties that wait while one is in reset (spec/01 R22, spec/14 R449, R455). -/
namespace Sys2Proof.Machine
open Sys2Proof

/-- R22, R449: the security processor resets one control processor; CP1 or CP2 aborts the running steps. -/
def cpWatchdog (s : State) (cp : Nat) : State :=
  if cpDown s cp then s
  else
    let s1 := raiseDev { s with pow := { s.pow with cpReset := cp :: s.pow.cpReset } } 0 1 0x0204 cp 0 0
    let s2 := if cp = 3 then { s1 with pow := { s1.pow with limiter := true } } else s1
    if cp = 1 ∨ cp = 2 then abortAll s2 0x0204 else s2

def execCpWatchdog (cp : Nat) (s : State) : Host.Outcome State Fault Refusal := .next (cpWatchdog s cp)

/-- A FORWARD message that CP0 has held: a command for this device is answered BUSY (R22; log 151). -/
def heldForward (s : State) (p : Nat) (m : Msg) : State :=
  let req := rd m.body 0 4
  let fresh := forwardHere s m.sub && decide (rd m.body 4 1 = 0) &&
    (match flightOf s req with | some f => decide (f.phase = .final) && keptBusy s req | none => true)
  let s1 := takeForward s p m
  if fresh then answerReq s1 req (replyBusy 1) else s1

/-- A message that a processor has held, when it returns (R22). -/
def heldMessage (s : State) (x : Nat × Nat × Msg) : State :=
  if x.1 = 3 then takeCommit s x.2.2
  else if x.1 = 4 then takeBarrier s x.2.2
  else if x.1 = 6 then takePlan s x.2.2
  else if x.1 = 7 then takeEvent s x.2.1 x.2.2
  else heldForward s x.2.1 x.2.2

/-- The messages that no processor in reset holds any more, in the order of their arrival (R22). -/
def takeHeld (s : State) : State :=
  let due (x : Nat × Nat × Msg) : Bool := !messageHeld s x.1
  (s.mbx.cpHeld.filter due).foldl heldMessage { s with mbx := { s.mbx with cpHeld := s.mbx.cpHeld.filter fun x => !due x } }

/-- What CP0 takes up again: events of the bridge, and pieces of payloads (R22). -/
def resumeCp0 (s : State) : State :=
  let s1 := s.mbx.evHeld.foldl deliverEvent { s with mbx := { s.mbx with evHeld := [] } }
  s1.mbx.flights.foldl (fun s f => takePieces s f.cmd.req) s1

/-- What CP1 takes up again: the verification votes it owes (R22, R47). -/
def resumeCp1 (s : State) : State :=
  ([0, 1, 2, 3] : List Nat).foldl (fun s f =>
    match (jobAt s f).bind fun j => j.refPlan with
    | some (version, ref) => voteVerify s f version ref
    | none => s) s

/-- The duties of a processor that has returned (R22). -/
def resumeDuties (s : State) (cp : Nat) : State :=
  let s1 := takeHeld (if cp = 0 then resumeCp0 s else if cp = 1 then resumeCp1 s else s)
  if cp = 1 ∨ cp = 2 then ([0, 1, 2, 3] : List Nat).foldl voteReplay s1 else s1

/-- R22: the processor returns and takes up the duties that it has held; after CP3 the power manager takes over from the limiter (R455). -/
def cpReturn (s : State) (cp : Nat) : State :=
  if cpDown s cp then
    let s1 := { s with pow := { s.pow with cpReset := s.pow.cpReset.filter fun x => !decide (x = cp) } }
    resumeDuties (if cp = 3 then { s1 with pow := { s1.pow with limiter := false } } else s1) cp
  else s

def execCpResetComplete (cp : Nat) (s : State) : Host.Outcome State Fault Refusal := .next (cpReturn s cp)

end Sys2Proof.Machine
end

