-- ==== Sys2Proof/Machine/Snaps.lean ====
section
/-! DEFINITION. The SNAP commands, the level-0 stop, levels 1 and 2 and restores (spec/11 R361 to R382, spec/13 R432, R433). -/
namespace Sys2Proof.Machine
open Sys2Proof

/-! ### SNAP.TAKE (R367, R368, R432, R438) -/

/-- Step and stop beat that SNAP.TAKE announces: A beats ahead when ready, after the quiet window of the open commit, or at the commit
point planned next (R367, R277). -/
def takeAnnounce (s : State) (j : Job) : Nat × Option Nat × Nat :=
  if j.run.isNone then (j.committed.step, some (s.eng.beat + announceDist s), s.eng.beat + announceDist s)
  else match j.commit with
    | some ci =>
      let b := ci.beat + quietWindow s + 1
      (if ci.applied then j.committed.step else j.committed.step + 1, if ci.applied then some b else none, b)
    | none =>
      let point : Int := match j.anchor, j.plan with | some a, some p => a + p.commitPoint | _, _ => s.eng.beat
      (j.committed.step + 1, none, point.toNat + quietWindow s + 1)

def snapTake (s : State) (c : Cmd) : State :=
  needState s c [3, 4] <|
  withJob s c fun j =>
    if j.restoring.isSome then answer s c (replyBusy 1)
    else match j.stopWanted with
      | some (some _) => s
      | _ =>
        let t := takeAnnounce s j
        answer (setJob s (cIx c) fun j => { j with stopWanted := some (some c.req), stopFrom := if j.stopFrom.isSome then j.stopFrom else t.2.1 })
          c (replyAccepted (natLE 8 t.1 ++ natLE 8 t.2.2))

def execSnapTake (c : Cmd) (s : State) : Host.Outcome State Fault Refusal := .next (startCmd s c fun s => snapTake s c)

/-! ### SNAP.POLICY (R361, R362) -/

def snapPolicy (s : State) (c : Cmd) : State :=
  let f := cIx c
  needState s c [2, 3, 4] <|
  withJob s c fun j =>
    let len := mapLengths s
    let new := policyOf (coordSize len) len.d (fit 32 c.payload)
    let force := if j.plan.isNone then new else mergePolicy j.hdr.policy new
    if j.policyNext.isSome then s
    else if j.run.isNone ∨ force = j.hdr.policy then
      answer (setJob s f fun j => { j with hdr := { j.hdr with policy := force }, policyWanted := new }) c (policyReply force)
    else
      answer (setJob s f fun j => { j with policyNext := some (new, some c.req), policyWanted := new }) c (replyDeferred ((policyBytes force).take 4))

def execSnapPolicy (c : Cmd) (s : State) : Host.Outcome State Fault Refusal := .next (startCmd s c fun s => snapPolicy s c)

/-! ### SNAP.LIST (R375, R480) -/

/-- Table 11.9. -/
def listEntry (c : Chrysalis) : Bytes :=
  natLE 8 c.record.step ++ natLE 8 c.stateBytes ++ natLE 1 (b2n c.level0 + 2 * b2n c.level1 + 4 * b2n c.level2 + 8 * b2n c.level3)
    ++ natLE 1 c.l1Slot ++ zeros 2 ++ natLE 4 c.planVersion ++ natLE 8 c.stopBeat

/-- The entry of a level-2 image of a function without a job: its descriptor, and the plan version of its header (R375, R481; log 177). -/
def driveEntry (x : FnSt) (b : Bytes) : Bytes :=
  let img := driveImage x (descStep b) (descStop b)
  natLE 8 (descStep b) ++ natLE 8 (descSize b) ++ natLE 1 (4 * b2n img.isSome) ++ zeros 3
    ++ natLE 4 (match img with | some i => rd i 12 4 | none => 0) ++ natLE 8 (descStop b)

def snapList (s : State) (c : Cmd) : State :=
  needState s c [1, 2, 3, 4] <|
    let x := fnAt s (cIx c)
    let l := match x.job with | some j => j.chrysalises.map listEntry | none => x.drives.map (driveEntry x)
    answer s c (replyRes (natLE 4 l.length) l.flatten)

def execSnapList (c : Cmd) (s : State) : Host.Outcome State Fault Refusal := .next (startCmd s c fun s => snapList s c)

/-! ### SNAP.EXPORT (R432, R433) -/

def snapExport (s : State) (c : Cmd) : State :=
  needState s c [3, 4] <|
  withJob s c fun j =>
    unlessRefused s c (j.hdr.exportMode ≠ 0) 4 48 <|
    unlessRefused s c (cArg c 48 1 < 2) 4 48 <|
    if j.exporting.isSome then answer s c (replyBusy 1)
    else
      answer (setJob s (cIx c) fun j => { j with exporting := some ⟨c.req, cArg c 32 8, cArg c 40 8, cArg c 48 1, 0, 0, [], 0, 0, false⟩ })
        c (replyAccepted (natLE 8 (j.lastEnd.getD (2 ^ 64 - 1)) ++ zeros 8))

def execSnapExport (c : Cmd) (s : State) : Host.Outcome State Fault Refusal := .next (startCmd s c fun s => snapExport s c)

/-! ### Level-3 records of a restore (R282, R283, R285) -/

/-- The records of a payload, each with its 32-byte header. -/
def splitRecords : Nat → Bytes → List Bytes
  | 0, _ => []
  | n + 1, b => if b.length < 32 then [] else b.take (32 + rd b 8 4) :: splitRecords n (b.drop (32 + rd b 8 4))

/-- The difference encoding undone: literal words are XORed onto the old ones (R283). -/
def undoDiff (w : Nat) : Nat → Bytes → List Nat → List Nat
  | 0, _, old => old
  | n + 1, b, old =>
    if b.length < 4 then old
    else
      let k := rd b 0 4 % 2 ^ 31
      if bit (rd b 0 4) 31 then
        ((List.range k).map fun i => old.getD i 0 ^^^ rd b (4 + w * i) w) ++ undoDiff w n (b.drop (4 + w * k)) (old.drop k)
      else old.take k ++ undoDiff w n (b.drop 4) (old.drop k)

/-- Words that a DIFF body covers. -/
def diffWords (w : Nat) : Nat → Bytes → Nat
  | 0, _ => 0
  | n + 1, b =>
    if b.length < 4 then 0
    else
      let k := rd b 0 4 % 2 ^ 31
      k + diffWords w n (b.drop (if bit (rd b 0 4) 31 then 4 + w * k else 4))

/-- The local element of a part that a logical index names: rows and columns of the shard, or entries of a factored part. -/
def localElem (j : Job) (o : OpD) (p : ParamEntry) (part x : Nat) : Option Nat :=
  let c := shardCorner j p
  let n := (ownRows j p).2
  let within (base k : Nat) : Option Nat := if base ≤ x ∧ x < base + k then some (x - base) else none
  if part ≠ 0 ∧ isFactored o p then (if part = 1 then within c.1 n else within c.2.1 p.cols)
  else
    let row := x / max 1 c.2.2
    let col := x % max 1 c.2.2
    if c.1 ≤ row ∧ row < c.1 + n ∧ c.2.1 ≤ col ∧ col < c.2.1 + p.cols then some ((row - c.1) * p.cols + (col - c.2.1)) else none

/-- Address and width in bytes of a stored word; split masters lie in two halves (R244, R246). -/
def putWord (m : Memory) (j : Job) (region : Nat) (o : OpD) (p : ParamEntry) (part e v : Nat) : Memory :=
  let b := currentBank j p
  if part = 0 then
    let base := weightBank region p b
    if j.hdr.weightMode = 0 then
      memWrite (memWrite m (base + 2 * e) (natLE 2 (v / 65536))) (base + lowOffset (bankElems j p) + 2 * e) (natLE 2 v)
    else memWrite m (base + 2 * e) (natLE 2 v)
  else
    let w := if updBf16 o && decide (updFamily o < 3) then 2 else 4
    memWrite m (stateBank region p b + partOffset (stateParts j o p) (part - 1) + w * e) (natLE w v)

def getWord (m : Memory) (j : Job) (region : Nat) (o : OpD) (p : ParamEntry) (part e : Nat) : Nat :=
  let b := currentBank j p
  if part = 0 then
    let base := weightBank region p b
    if j.hdr.weightMode = 0 then (masterAt m j p base e).toNat else leNat (memRead m (base + 2 * e) 2)
  else
    let w := if updBf16 o && decide (updFamily o < 3) then 2 else 4
    leNat (memRead m (stateBank region p b + partOffset (stateParts j o p) (part - 1) + w * e) w)

/-- One BASE, SHARD or DIFF record: the words of this device's shard are stored, router biases are kept beside. -/
def applyRecord (j : Job) (region : Nat) (acc : Memory × Committed) (rec : Bytes) : Memory × Committed :=
  let type := rd rec 0 1
  let part := rd rec 1 1
  let off := rd rec 24 8
  let body := rec.drop 32
  match j.params.find? fun p => decide (p.tensorId = rd rec 12 4) with
  | none => acc
  | some p =>
    if part = 3 then
      let old := ((lookupD acc.2.biases p.layer []).map (·.toNat)).drop off
      let new := if type = 2 then undoDiff 4 body.length body old else (List.range (body.length / 4)).map fun i => rd body (4 * i) 4
      let ws : List F32 := new.map (BitVec.ofNat 32)
      let put (l : List F32) : List F32 := l.take off ++ ws ++ l.drop (off + ws.length)
      (acc.1, { acc.2 with biases := acc.2.biases.map fun b => if b.1 = p.layer then (b.1, put b.2) else b })
    else match groupOp j p with
      | none => acc
      | some o =>
        let w := wordWidth j p part
        let at_ (i : Nat) : Option Nat := localElem j o p part (off + i)
        let n := if type = 2 then diffWords w body.length body else body.length / w
        let old := (List.range n).map fun i => match at_ i with | some e => getWord acc.1 j region o p part e | none => 0
        let new := if type = 2 then undoDiff w body.length body old else (List.range n).map fun i => rd body (w * i) w
        (new.zipIdx.foldl (fun m x => match at_ x.2 with | some e => putWord m j region o p part e x.1 | none => m) acc.1, acc.2)

/-- p1 and p2 after n committed steps (R257). -/
def productsAfter (j : Job) (n : Nat) : List (F32 × F32) :=
  (updateOps j).map fun o =>
    n.repeat (fun ps : F32 × F32 => (enc32 (rMul (dec32 ps.1) (opF32 o 8)), enc32 (rMul (dec32 ps.2) (opF32 o 12)))) (0x3F800000, 0x3F800000)

/-- The chrysalis that level-3 records give this device: the state after their last complete step (R282 to R285, R371). -/
def sentChrysalis (s : State) (f : Nat) (j : Job) (payload : Bytes) : Option Chrysalis :=
  let recs := splitRecords payload.length payload
  match (recs.filter fun r => decide (rd r 0 1 = 5)).getLast?, paramRegion s f with
  | some fin, some r =>
    match recs.find? fun x => decide (rd x 0 1 = 1) && decide (rd x 16 8 = rd fin 16 8) with
    | none => none
    | some begin_ =>
      let ver := rd begin_ 32 4
      let opt := rd begin_ 40 8
      let com := { j.committed with step := rd fin 16 8 + 1, version := ver, bank := ver % 2, lsExp := rd begin_ 36 1, optStep := opt,
                                    cleanRun := Config.restoredCleanRun (rd fin 16 8 + 1), products := productsAfter j opt }
      let k := { j with committed := com }
      let out := (recs.filter fun x => decide (rd x 0 1 = 2) || decide (rd x 0 1 = 3) || decide (rd x 0 1 = 6)).foldl (applyRecord k r.addr) (s.st.mem, com)
      some { record := out.2, seed := j.hdr.seed, planVersion := j.planVersion, planDigest := match j.plan with | some p => p.digest | none => [],
             dLen := j.lengths.d, stopBeat := 0, stateBytes := deviceState j, cursors := [], level0 := false, level1 := false, level2 := false,
             level3 := true, l1Slot := 0, image := captureImage { s with st := { s.st with mem := out.1 } } f { j with committed := out.2 } }
  | _, _ => none

/-! ### SNAP.RESTORE (R376, R377) -/

/-- The chrysalis to restore and its level: the newest of those held here and the one that the host sends (R376). -/
def chooseRestore (s : State) (f : Nat) (j : Job) (c : Cmd) : Option (Job × Nat × Nat) :=
  let want := cArg c 32 8
  let levels := if cArg c 40 1 % 16 = 0 then 15 else cArg c 40 1 % 16
  let fits (x : Chrysalis) : Bool := decide (want = 2 ^ 64 - 1) || decide (x.record.step = want)
  let own := j.chrysalises.findIdx? fun x => fits x && restorable j x (levels % 8)
  let sent := if bit levels 3 && !c.payload.isEmpty then (sentChrysalis s f j c.payload).filter fits else none
  let useSent (x : Chrysalis) : Option (Job × Nat × Nat) :=
    let rest := j.chrysalises.filter fun y => decide (x.record.step < y.record.step)
    some ({ j with chrysalises := rest ++ x :: j.chrysalises.filter fun y => !decide (x.record.step < y.record.step) }, rest.length, 8)
  match own.bind fun i => (j.chrysalises[i]?).map fun y => (i, y), sent with
  | some (i, y), some x => if y.record.step < x.record.step then useSent x else some (j, i, 2 ^ restoreLevel y (levels % 8))
  | some (i, y), none => some (j, i, 2 ^ restoreLevel y (levels % 8))
  | none, some x => useSent x
  | none, none => none

/-- The flash controller's domain is on while a level-2 write or restore runs (Table 14.7). -/
def flashOn (s : State) : State :=
  if s.pow.domains.contains 95 then s else { s with pow := { s.pow with domains := sortBy id (95 :: s.pow.domains) } }

def snapRestore (s : State) (c : Cmd) : State :=
  let f := cIx c
  if fnState s f = 2 then answer s c (replyRefused s c 5 0xFFFF)
  else needState s c [3] <|
    withJob s c fun j =>
      if j.restoring.isSome || j.stopEnd.isSome then answer s c (replyBusy 1)
      else match chooseRestore s f (testDrives (fnAt s f) j) c with
        | none => answer s c (replyFailed 0 [])
        | some (k, i, lv) =>
          let s1 := setJob s f fun _ => { k with restoring := some (some c.req, i, lv) }
          let step := match k.chrysalises[i]? with | some x => x.record.step | none => 0
          answer (if lv = 4 then flashOn s1 else s1) c (replyAccepted (natLE 8 step ++ natLE 1 lv))

def execSnapRestore (c : Cmd) (s : State) : Host.Outcome State Fault Refusal := .next (startCmd s c fun s => snapRestore s c)

/-- The restore copy of a SNAP.RESTORE has finished on every device (R378). -/
def restoreComplete (s : State) (f : Nat) : State :=
  match jobAt s f with
  | none => s
  | some j =>
    match j.restoring with
    | some (some q, i, lv) =>
      match j.chrysalises[i]? with
      | some c => answerReq (restoreInto s f (restoredFrom s f lv j c)) q (replyOk (natLE 8 c.record.step ++ natLE 1 lv))
      | none => answerReq (setJob s f fun j => { j with restoring := none }) q (replyFailed 0 [])
    | _ => s

def execRestoreComplete (f : Nat) (s : State) : Host.Outcome State Fault Refusal := .next (restoreComplete s f)

/-- The copies and transfers of a recovery are done: the chrysalis is in force and the root announces the anchor (R378, R381). -/
def transfersComplete (s : State) (f : Nat) : State :=
  match jobAt s f with
  | none => s
  | some j =>
    match j.recovery, j.restoring with
    | .transfers, some (none, i, lv) =>
      match j.chrysalises[i]? with
      | none => s
      | some c =>
        let s1 := setJob (restoreInto s f (restoredFrom s f lv j c)) f fun k => { k with loss := none, transfersDue := false }
        if j.gone then finishRun s1 f 7 0
        else if isRoot s1 j then announce s1 f (commitBody (s1.eng.beat + announceDist s1) c.record.step false false 2 c.record.lsExp)
        else s1
    | _, _ => s

def execRecoveryTransfersComplete (f : Nat) (s : State) : Host.Outcome State Fault Refusal := .next (transfersComplete s f)

/-! ### The stop (R365 to R368, R373) -/

/-- Cursors of a new chrysalis: one per logical d, and the retired ones in their places (R373, R374). -/
def newCursors (j : Job) : List (Nat × Bool) :=
  let live := (List.range j.lengths.d).map fun d => (Config.cursor j.digest8 j.committed.step d, false)
  match j.chrysalises.head? with
  | some c => (c.cursors.zipIdx.filter fun x => x.1.2).foldl (fun l x => l.take x.2 ++ x.1 :: l.drop x.2) live
  | none => live

/-- Whether the stop is an interval stop, which waits for level 2 too (R368). -/
def intervalStop (j : Job) : Bool := decide (j.stopWanted = some none) && !j.ownersChange

/-- Whether a stop begins in this beat: at C + Q + 1, or from A beats after SNAP.TAKE when no timetable runs, and levels 1 and 2 permit it; a CP2
in reset holds it (R22, R365, R367). -/
def stopBegins (s : State) (j : Job) : Bool :=
  j.stopWanted.isSome && j.stopEnd.isNone && !j.gone && !cpDown s 2 && !j.l1Busy && !(intervalStop j && j.l2Busy) && j.restoring.isNone &&
    (match j.stopFrom with
     | some b => if j.run.isSome && j.anchor.isSome then decide (b = s.eng.beat) else decide (b ≤ s.eng.beat)
     | none => false)

def stopBegin (s : State) (f : Nat) : State :=
  setJob s f fun j =>
    if !stopBegins s j then j
    else
      let z := stopBeats s j
      let c : Chrysalis :=
            { record := j.committed, seed := j.hdr.seed, planVersion := j.planVersion,
              planDigest := match j.plan with | some p => p.digest | none => [], dLen := j.lengths.d, stopBeat := s.eng.beat, stateBytes := deviceState j,
              cursors := newCursors j, image := [], level0 := false, level1 := false, level2 := false, level3 := false, l1Slot := 0 }
      { shiftPlan s.eng.beat z j with
        stopEnd := some (s.eng.beat + z), l2Busy := false, chrysalises := c :: j.chrysalises.map fun x => { x with level0 := false } }

def execSnapshotStopBegin (f : Nat) (s : State) : Host.Outcome State Fault Refusal := .next (stopBegin s f)

/-- Chrysalises of which some level is left; the newest stays. -/
def pruneLevels (l : List Chrysalis) : List Chrysalis :=
  l.take 1 ++ (l.drop 1).filter fun c => c.level0 || c.level1 || c.level2 || c.level3

/-- Older level-1 copies whose slot the new chrysalis takes (R369). -/
def dropSlot (slot : Nat) (c : Chrysalis) : Chrysalis := if c.l1Slot = slot then { c with level1 := false } else c

/-- The slot for a new chrysalis: with two slots, the one that the chrysalis before it does not hold (R369). -/
def nextSlot (j : Job) : Nat :=
  match j.chrysalises[1]? with | some c => if j.l1Slots = 2 then 1 - c.l1Slot else 0 | none => 0

/-- The stop ends: level 0 is sealed, level 1 and every `l2_every`-th level 2 start (R366, R369, R370, R480). -/
def stopEndWork (s : State) (f : Nat) : State :=
  match jobAt s f with
  | none => s
  | some j =>
    match j.stopEnd, j.chrysalises with
    | some e, c :: older =>
      if s.eng.beat < e then s
      else
        let l1 := decide (j.l1Slots ≠ 0xFF) && (partnerOf j j.coord).isSome
        let slot := nextSlot j
        let n := j.taken + 1
        let l2 := decide (j.hdr.policy.l2Every ≠ 0) && decide (n % max 1 j.hdr.policy.l2Every = 0) && (fnAt s f).l2Key.isSome
        let new := { c with level0 := true, image := captureImage s f j, l1Slot := slot }
        let s1 := setJob s f fun j =>
          { j with stopEnd := none, stopWanted := none, stopFrom := none, lastStop := s.eng.beat, ownersChange := false, taken := n, l1Busy := l1, l2Busy := l2,
                   chrysalises := pruneLevels (new :: (if l1 then older.map (dropSlot slot) else older)) }
        let s2 := if l2 then flashOn s1 else s1
        match j.stopWanted with
        | some (some q) => answerReq s2 q (replyOk (natLE 8 c.record.step ++ natLE 8 c.stopBeat))
        | _ => s2
    | _, _ => s

def execSnapshotStopEnd (f : Nat) (s : State) : Host.Outcome State Fault Refusal := .next (stopEndWork s f)

/-! ### Levels 1 and 2 (R369, R370) -/

/-- Changes the newest chrysalis. -/
def setHead (j : Job) (g : Chrysalis → Chrysalis) : Job :=
  { j with chrysalises := match j.chrysalises with | c :: r => g c :: r | [] => [] }

def level1Complete (s : State) (f : Nat) : State :=
  setJob s f fun j =>
    let k := { j with partner := match j.partner with | p :: r => { p with complete := true } :: r | [] => [] }
    if j.l1Busy then { setHead k fun c => { c with level1 := true } with l1Busy := false } else k

def execLevel1Complete (f : Nat) (s : State) : Host.Outcome State Fault Refusal := .next (level1Complete s f)

/-- Level-2 copies beyond the newest n are freed. -/
def keepLevel2 : Nat → List Chrysalis → List Chrysalis
  | _, [] => []
  | n, c :: r => if c.level2 then (if n = 0 then { c with level2 := false } else c) :: keepLevel2 (n - 1) r else c :: keepLevel2 n r

def level2Complete (s : State) (f : Nat) : State :=
  match jobAt s f with
  | none => s
  | some j =>
    if !j.l2Busy then s
    else
      let k := setHead j fun c => { c with level2 := true }
      let keep := j.hdr.policy.l2Keep
      let s1 := setJob s f fun _ => { k with l2Busy := false, chrysalises := pruneLevels (keepLevel2 keep k.chrysalises) }
      match k.chrysalises.head?, (fnAt s f).l2Key with
      | some c, some w => setFn s1 f fun x => { x with drives := (driveBytes w k c :: x.drives).take keep }
      | _, _ => s1

def execLevel2Complete (f : Nat) (s : State) : Host.Outcome State Fault Refusal := .next (level2Complete s f)

end Sys2Proof.Machine
end

