-- ==== Sys2Proof/Machine/Spdm.lean ====
section
/-! DEFINITION. SPDM, SEC commands and the test port (spec/15 R463 to R483; spec/13 R436). Message layouts that the spec leaves
to DMTF DSP0274 are those of that public standard (log 38); signatures, keys and certificates are free values. -/
namespace Sys2Proof.Machine
open Sys2Proof

/-! ### Measurements (Table 15.4) -/

/-- The field-failure list as `DEV.INFO` lays its entries out. -/
def fflBytes (s : State) : Bytes := (s.flash.ffl.map fun e => natLE 1 e.kind ++ zeros 3 ++ natLE 4 e.index ++ natLE 8 e.addr).flatten

/-- DMTF type and content of a block, for the indices of Table 15.4. -/
def measurement (s : State) (i : Nat) : Option (Nat × Bytes) :=
  let fl := s.flash
  let env := if s.env.running then fl.envImage else none
  if i = 1 then some (0, fit 64 Config.romDigest)
  else if i = 2 then some (1, imgDigest (runningImage s))
  else if i = 3 then some (1, imgDigest env)
  else if i = 4 then some (2, fit 64 (Config.configDigest fl.serial))
  else if i = 5 then some (7, natLE 4 (imgSvn (runningImage s)) ++ natLE 4 (imgSvn env) ++ natLE 4 fl.counter ++ natLE 4 fl.envCounter)
  else if i = 6 then
    some (5, natLE 4 (b2n fl.unlockedOnce + 2 * b2n fl.unlocked + 4 * b2n (s.fns.any fun x => x.confidential)))
  else if i = 7 then
    let a := fl.staged.map (·.1)
    let b := fl.envStaged.map (·.1)
    some (9, imgDigest a ++ imgDigest b ++ natLE 4 (imgSvn a) ++ natLE 4 (imgSvn b))
  else if i = 8 then some (3, natLE 1 fl.partMode ++ zeros 3 ++ sha512 (fflBytes s))
  else if 17 ≤ i ∧ i ≤ 20 then
    let f := i - 17
    let x := fnAt s f
    some (9, natLE 1 (fnState s f) ++ natLE 1 (b2n x.confidential) ++ zeros 6 ++ sha512 (fit 16 x.tenant))
  else none

def blockIndices : List Nat := [1, 2, 3, 4, 5, 6, 7, 8, 17, 18, 19, 20]

/-- A measurement block. -/
def measurementBlock (s : State) (i : Nat) : Bytes :=
  match measurement s i with
  | some (t, v) => natLE 1 i ++ natLE 1 1 ++ natLE 2 (v.length + 3) ++ natLE 1 t ++ natLE 2 v.length ++ v
  | none => []

/-! ### Responses (Table 15.3) -/

def spdmHead (code p1 p2 : Nat) : Bytes := natLE 1 0x13 ++ natLE 1 code ++ natLE 1 p1 ++ natLE 1 p2

def spdmError (code data : Nat) : Bytes := spdmHead 0x7F code data

/-- The connection record, or a new one. -/
def connOf (s : State) (n : Nat) : SpdmConn := (s.sec.conns.find? fun x => decide (x.conn = n)).getD ⟨n, none, none⟩

def setConn (s : State) (x : SpdmConn) : State :=
  { s with sec := { s.sec with conns := x :: s.sec.conns.filter fun y => !decide (y.conn = x.conn) } }

/-- The free part of a response. -/
def spdmFree (s : State) (msg : Bytes) : Bytes × State :=
  let (n, s1) := drawFree s
  (Config.spdmBody n msg, s1)

def respVersion (s : State) (conn : Nat) (_m : Bytes) : Bytes × State :=
  (natLE 1 0x10 ++ natLE 1 4 ++ zeros 3 ++ natLE 1 1 ++ natLE 2 0x1300, setConn s ⟨conn, none, none⟩)

/-- CERT, CHAL, MEAS with signature, MEAS_FRESH, ENCRYPT, MAC and KEY_EX. -/
def respCapabilities (s : State) (m : Bytes) : Bytes × State :=
  let (b, s1) := spdmFree s m
  (spdmHead 0x61 0 0 ++ zeros 1 ++ fit 3 b ++ natLE 4 0x2F6 ++ fit 8 (b.drop 3), s1)

/-- The algorithm structures of a request: type and supported bits. -/
def algStructs : Nat → Bytes → List (Nat × Nat)
  | 0, _ => []
  | n + 1, b => if b.length < 4 then [] else (rd b 0 1, rd b 2 2) :: algStructs n (b.drop 4)

/-- Whether a request offers an algorithm of Table 15.3: ECDSA P-521, SHA-512, secp521r1 or AES-256-GCM. -/
def offersAny (m : Bytes) : Bool :=
  let structs := algStructs (rd m 2 1) (m.drop (32 + 4 * rd m 28 1 + 4 * rd m 29 1))
  bit (rd m 8 4) 8 || bit (rd m 12 4) 2 || structs.any fun x => (x.1 = 2 && bit x.2 5) || (x.1 = 3 && bit x.2 1)

def respAlgorithms (s : State) (m : Bytes) : Bytes × State :=
  if offersAny m then
    let (b, s1) := spdmFree s m
    (spdmHead 0x63 2 0 ++ natLE 2 44 ++ natLE 1 1 ++ zeros 1 ++ natLE 4 0x40 ++ natLE 4 0x100 ++ natLE 4 4 ++ fit 12 b
      ++ natLE 4 0 ++ natLE 1 2 ++ natLE 1 0x20 ++ natLE 2 0x20 ++ natLE 1 3 ++ natLE 1 0x20 ++ natLE 2 2, s1)
  else (spdmError 1 0, s)

/-- Root, intermediate, DeviceID and Alias certificates (R465). -/
def slotChain (s : State) : Bytes := Config.certChain s.flash.serial deviceIdKey (aliasKey s) (layer0 s) s.flash.aliasGen

/-- A response with the Alias key's signature over request and response (R464, R471). -/
def signed (s : State) (msg body : Bytes) : Bytes × State :=
  let (n, s1) := drawFree s
  (body ++ fit 132 (Config.ecdsa (aliasKey s) n (msg ++ body)), s1)

def respDigests (s : State) : Bytes × State := (spdmHead 1 0 1 ++ sha512 (slotChain s), s)

/-- Slot 0 only: a portion of the chain from the offset asked for. -/
def respCertificate (s : State) (m : Bytes) : Bytes × State :=
  if rd m 2 1 % 16 ≠ 0 then (spdmError 1 0, s)
  else
    let rest := (slotChain s).drop (rd m 4 2)
    let part := rest.take (rd m 6 2)
    (spdmHead 2 0 0 ++ natLE 2 part.length ++ natLE 2 (rest.length - part.length) ++ part, s)

def respChallenge (s : State) (m : Bytes) : Bytes × State :=
  if rd m 2 1 ≠ 0 then (spdmError 1 0, s)
  else
    let (b, s1) := spdmFree s m
    signed s1 m (spdmHead 3 0 1 ++ sha512 (slotChain s) ++ b)

/-- The count, all blocks, or one block; the free part holds the nonce; signed when the request asks for it. -/
def respMeasurements (s : State) (m : Bytes) : Bytes × State :=
  let op := rd m 3 1
  if op ≠ 0 ∧ op ≠ 255 ∧ !blockIndices.contains op then (spdmError 1 0, s)
  else
    let idx := if op = 0 then [] else if op = 255 then blockIndices else [op]
    let rec_ := (idx.map (measurementBlock s)).flatten
    let (b, s1) := spdmFree s m
    let body := spdmHead 0x60 (if op = 0 then blockIndices.length else 0) 0 ++ natLE 1 idx.length ++ natLE 3 rec_.length ++ rec_ ++ b
    if bit (rd m 2 1) 0 then signed s1 m body else (body, s1)

/-- A session starts; a previous session of the connection ends. -/
def respKeyExchange (s : State) (conn : Nat) (m : Bytes) : Bytes × State :=
  let half := s.sec.nextSession % 65536
  let id := rd m 4 2 + 65536 * half
  let (b, s1) := spdmFree s m
  let s2 := setConn s1 { connOf s1 conn with session := some (id, false) }
  (spdmHead 0x64 0 0 ++ natLE 2 half ++ b, { s2 with sec := { s2.sec with nextSession := s.sec.nextSession + 1 } })

/-- The handshake ends. -/
def respFinish (s : State) (conn : Nat) (m : Bytes) : Bytes × State :=
  match (connOf s conn).session with
  | some (id, _) =>
    let (b, s1) := spdmFree s m
    (spdmHead 0x65 0 0 ++ b, setConn s1 { connOf s1 conn with session := some (id, true) })
  | none => (spdmError 4 0, s)

/-- The response to a request by its code, RESPOND_IF_READY apart (Table 15.3). -/
def spdmRespond (s : State) (conn : Nat) (m : Bytes) : Bytes × State :=
  let code := rd m 1 1
  if code = 0x84 then respVersion s conn m
  else if code = 0xE1 then respCapabilities s m
  else if code = 0xE3 then respAlgorithms s m
  else if code = 0x81 then respDigests s
  else if code = 0x82 then respCertificate s m
  else if code = 0x83 then respChallenge s m
  else if code = 0xE0 then respMeasurements s m
  else if code = 0xE4 then respKeyExchange s conn m
  else if code = 0xE5 then respFinish s conn m
  else (spdmError 7 code, s)

/-- The deferred response, once the activation window is over (R473). -/
def respondIfReady (s : State) (conn : Nat) : Bytes × State :=
  match (connOf s conn).deferred with
  | some m => spdmRespond (setConn s { connOf s conn with deferred := none }) conn m
  | none => (spdmError 4 0, s)

/-- ceil(log2 r) (R473). -/
def ceilLog2 (r : Nat) : Nat := if r ≤ 1 then 0 else Nat.log2 (r - 1) + 1

/-- One SPDM request: in the activation window ResponseNotReady, else its response (R471, R473). -/
def spdmServe (s : State) (q : SpdmReq) (f : State → Bytes × State) : State :=
  if !s.pow.input then s
  else
    let (b, s1) :=
      if s.flash.activation.isSome then
        let x := connOf s q.conn
        let keep := if rd q.msg 1 1 = 0xFF then x.deferred else some q.msg
        (spdmError 0x42 0 ++ natLE 1 (ceilLog2 q.leftUs) ++ natLE 1 (rd q.msg 1 1) ++ zeros 1 ++ natLE 1 1,
          setConn s { x with deferred := keep })
      else f s
    { s1 with sec := { s1.sec with spdmOut := s1.sec.spdmOut ++ [(q.conn, b)] } }

def execGetVersion (q : SpdmReq) (s : State) : Host.Outcome State Fault Refusal := .next (spdmServe s q fun s => respVersion s q.conn q.msg)
def execGetCapabilities (q : SpdmReq) (s : State) : Host.Outcome State Fault Refusal := .next (spdmServe s q fun s => respCapabilities s q.msg)
def execNegotiateAlgorithms (q : SpdmReq) (s : State) : Host.Outcome State Fault Refusal := .next (spdmServe s q fun s => respAlgorithms s q.msg)
def execGetDigests (q : SpdmReq) (s : State) : Host.Outcome State Fault Refusal := .next (spdmServe s q respDigests)
def execGetCertificate (q : SpdmReq) (s : State) : Host.Outcome State Fault Refusal := .next (spdmServe s q fun s => respCertificate s q.msg)
def execChallenge (q : SpdmReq) (s : State) : Host.Outcome State Fault Refusal := .next (spdmServe s q fun s => respChallenge s q.msg)
def execGetMeasurements (q : SpdmReq) (s : State) : Host.Outcome State Fault Refusal := .next (spdmServe s q fun s => respMeasurements s q.msg)
def execKeyExchange (q : SpdmReq) (s : State) : Host.Outcome State Fault Refusal := .next (spdmServe s q fun s => respKeyExchange s q.conn q.msg)
def execFinish (q : SpdmReq) (s : State) : Host.Outcome State Fault Refusal := .next (spdmServe s q fun s => respFinish s q.conn q.msg)
def execRespondIfReady (q : SpdmReq) (s : State) : Host.Outcome State Fault Refusal := .next (spdmServe s q fun s => respondIfReady s q.conn)
/-- ERROR UnsupportedRequest (R471). -/
def execSpdmUnsupportedRequest (q : SpdmReq) (s : State) : Host.Outcome State Fault Refusal :=
  .next (spdmServe s q fun s => (spdmError 7 (rd q.msg 1 1), s))

/-! ### SEC commands -/

/-- R471, R473: one SPDM request on the connection of the issuing ring pair. -/
def secAttest (s : State) (c : Cmd) : State :=
  match s.flash.activation with
  | some e => answer s c (replyBusy (e - s.eng.beat))
  | none =>
    let conn := c.ring + 1
    let (b, s1) := if rd c.payload 1 1 = 0xFF then respondIfReady s conn else spdmRespond s conn c.payload
    answer s1 c (replyRes [] b)

def execSecAttest (c : Cmd) (s : State) : Host.Outcome State Fault Refusal := .next (startCmd s c fun s => secAttest s c)

def keysReply (s : State) (f : Nat) : Reply :=
  replyOk (natLE 1 (b2n (fnAt s f).l2Key.isSome + 2 * b2n (s.fab.ports.any fun x => x.enc)))

/-- Installs a key: it destroys the one before it and frees the images under it (R480, R482). -/
def installKey (s : State) (f : Nat) (stored : Bytes) : State :=
  let s1 := freeDrives (setFn s f fun x => { x with l2Key := some stored }) f
  { s1 with sec := { s1.sec with nextKey := s1.sec.nextKey + 1 } }

/-- The tenant's key under K_wrap of its session, or the refusal reason (R480, Table 15.6). -/
def unwrapKey (s : State) (f : Nat) (p : Bytes) : Bytes ⊕ Nat :=
  let conn := f + 2
  match (connOf s conn).session with
  | some (id, true) =>
    if rd p 0 4 ≠ id then .inr 4
    else
      let k := hkdfExpand (Config.exportSecret conn id) (ascii "zk tenant wrap") 32
      let nonce := slice p 4 12
      let ct := slice p 16 32
      if gcmTag k nonce (p.take 4 ++ natLE 1 (f + 1)) ct = slice p 48 16 then .inl (gcmCrypt k nonce ct) else .inr 7
  | _ => .inr 4

def secKeys (s : State) (c : Cmd) : State :=
  let op := cArg c 32 1
  let f := cIx c
  let isFn := decide (1 ≤ cFunction c) && decide (cFunction c ≤ 4)
  unlessRefused s c (op ≤ 3) 4 32 <|
  if op = 0 then answer s c (if isFn then keysReply s f else replyOk (natLE 1 (2 * b2n (s.fab.ports.any fun x => x.enc))))
  else if op = 2 then
    let s1 := (List.range 9).foldl (fun s p => if (portAt s p).enc then startKeyx s p else s) s
    answer s1 c (if isFn then keysReply s1 f else replyOk (natLE 1 (2 * b2n (s.fab.ports.any fun x => x.enc))))
  else
    unlessRefused s c isFn 2 8 <|
    needState s c [1, 3] <|
    if op = 3 then
      let s1 := freeDrives (setFn s f fun x => { x with l2Key := none }) f
      answer s1 c (keysReply s1 f)
    else if c.payload.isEmpty then
      let s1 := installKey s f (drawnKey s.sec.nextKey)
      answer s1 c (keysReply s1 f)
    else
      unlessRefused s c (c.payload.length = 64) 4 24 <|
      match unwrapKey s f c.payload with
      | .inl k => let s1 := installKey s f (wrapKey s.sec.nextKey k); answer s1 c (keysReply s1 f)
      | .inr r => answer s c (replyRefused s c r 0)

def execSecKeys (c : Cmd) (s : State) : Host.Outcome State Fault Refusal := .next (startCmd s c fun s => secKeys s c)

/-! ### The test port (R474, R475) -/

/-- A token that names this serial and the device counter unlocks the port unless a function is confidential. -/
def execUnlockToken (serial counter : Nat) (signed : Bool) (s : State) : Host.Outcome State Fault Refusal :=
  .next (if s.pow.input && signed && decide (serial = s.flash.serial) && decide (counter = s.flash.counter)
            && !(s.fns.any fun x => x.confidential) then
      { s with flash := { s.flash with unlocked := true, unlockedOnce := true } }
    else s)

end Sys2Proof.Machine
end

