-- ==== Sys2Proof/Machine/Steps.lean ====
section
/-! DEFINITION. The STEP commands and BATCH.CANCEL (spec/13 R430, R431, spec/02 R48, spec/07 R236, R239, spec/08 R281, spec/04 R132). -/
namespace Sys2Proof.Machine
open Sys2Proof

/-! ### STEP.RUN (R48, R430) -/

/-- The job at the start of a run whose first anchor is `a`: nothing of an abandoned step is left. -/
def startRun (s : State) (j : Job) (a : Int) (req steps : Nat) : Job :=
  let n := j.committed.step
  { clearStepWork j with
    run := some ⟨req, (if steps = 0 then none else some (n + min steps (2 ^ 63) - 1)), n - 1, 0⟩, anchor := some a, runStep := n, slotBase := a,
    stopped := false, recovery := .none, abandoned := 0, causes := [], restoredOnce := false, holding := [], staged := [], parked := [], normTotal := none, clipFactor := 0x3F800000, clipKnown := false, abortOrigin := none,
    gradNorm := 0, loads := [], lastStop := if n = 0 then s.eng.beat else j.lastStop }

/-- First anchor of a run: A beats after acceptance, less the earliest slice's offset. -/
def firstAnchor (s : State) (p : Plan) : Int :=
  (s.eng.beat : Int) + announceDist s - p.slices.foldl (fun m sl => min m sl.beat) 0

def stepRun (s : State) (c : Cmd) : State :=
  let f := cIx c
  if fnState s f = 2 then answer s c (replyRefused s c 5 0xFFFF)
  else needState s c [3] <|
    withJob s c fun j =>
      match j.plan with
      | none => answer s c (replyRefused s c 5 0xFFFF)
      | some p =>
        if j.restoring.isSome then answer s c (replyBusy 1)
        else
          let a := firstAnchor s p
          answer (setJob s f fun j => startRun s j a c.req (cArg c 32 8)) c (replyAccepted (natLE 8 a.toNat ++ natLE 8 j.committed.step))

def execStepRun (c : Cmd) (s : State) : Host.Outcome State Fault Refusal := .next (startCmd s c fun s => stepRun s c)

/-! ### STEP.ABORT (R430, R431) -/

/-- The ABORT floods, the step is abandoned here, and the command waits until the ABORT has reached every device (R39). -/
def stepAbort (s : State) (c : Cmd) : State :=
  let f := cIx c
  let stop := decide (cArg c 32 1 = 1)
  needState s c [4] <|
  unlessRefused s c (cArg c 32 1 < 2) 4 32 <|
  withJob s c fun j =>
    let reason := if stop then stopReason else 0
    let s1 := setJob (begun s c) f fun j => { j with aborting := j.aborting ++ [(c.req, s.eng.beat, j.committed.step)] }
    let s2 := sendMsg s1 (intactPorts s1) 1 f (abortBody j reason)
    let s3 := { s2 with eng := { s2.eng with abortsSeen := (originOf s f, s.eng.beat) :: s2.eng.abortsSeen } }
    if stop || j.anchor.isSome then abandonStep s3 f reason s.eng.beat stop else s3

def execStepAbort (c : Cmd) (s : State) : Host.Outcome State Fault Refusal := .next (startCmd s c fun s => stepAbort s c)

/-! ### STEP.STATUS (R132, R239, R281, R430) -/

/-- Table 8.11. -/
def updateStats (x : StepStats) : Bytes :=
  let c (n : Nat) : Bytes := natLE 4 (sat (2 ^ 32 - 1) n)
  c x.deferredState ++ c x.lateHolder ++ c x.parkedOverflow ++ natLE 1 (b2n x.skipped) ++ natLE 1 x.sigma ++ natLE 1 x.nextLs ++ zeros 1
    ++ natLE 4 x.gradNorm.toNat ++ natLE 4 x.clipFactor.toNat ++ c x.exportGaps ++ natLE 4 x.version

/-- Table 4.8. -/
def eyeBytes (x : EyeSum) : Bytes := natLE 4 x.flags ++ natLE 4 x.firstTile ++ natLE 4 x.firstEye.toNat ++ natLE 4 x.total

/-- Table 7.6. -/
def exchBytes (rounds : Nat) (x : ExchStats) : Bytes :=
  let c (n : Nat) : Bytes := natLE 4 (sat (2 ^ 32 - 1) n)
  c x.routed ++ c x.dropped ++ c x.spilled ++ c x.windowDropped ++ c x.stale ++ natLE 2 (sat 65535 x.zeroExperts) ++ natLE 1 (sat 255 x.maxExponent)
    ++ natLE 1 (sat 255 rounds) ++ c x.cancelled ++ zeros 4

def isProduct (o : OpD) : Bool := decide (o.cls = 1) || decide (o.cls = 2)

/-- The index of a tile of a MATMUL in the whole output, of which the plan places this device's part (R81, R129, R132). -/
def logicalTile (j : Job) (y : EyeSum) : Nat :=
  match (opNth j y.op).bind fun o => (placeOf j (outAt o 0).tensorId).map fun q => (o, q) with
  | some (o, q) =>
    let n := ceilDiv (outAt o 0).cols 128
    if o.cls ≠ 1 ∨ y.firstTile = 0xFFFFFFFF then y.firstTile
    else (q.row / 128 + y.firstTile / max 1 n) * ceilDiv q.cols 128 + q.col / 128 + y.firstTile % max 1 n
  | none => y.firstTile

/-- The summary over all members of a job, combined by logical tile index with what the others found (R132; log 83). -/
def eyesOfJob (j : Job) (step : Nat) (y : EyeSum) : EyeSum :=
  if coordSize j.lengths ≤ 1 then y
  else
    let (flags, tile, eye, total) := Config.otherEyes j.digest8 [step, y.op, y.flags, y.total, j.abandoned]
    let own := logicalTile j y
    let mine := decide (own < tile % 2 ^ 32)
    { y with flags := y.flags ||| (flags % 2 ^ 32 / 2 ^ 27 * 2 ^ 27), firstTile := if mine then own else tile % 2 ^ 32,
             firstEye := if mine then y.firstEye else eye, total := sat (2 ^ 32 - 1) (y.total + total) }

/-- The result of STEP.STATUS for a committed step. -/
def statusBytes (j : Job) (x : StepStats) : Bytes :=
  let eyes := (j.ops.zipIdx.filter fun o => isProduct o.1).map fun o =>
    eyeBytes (eyesOfJob j x.step ((x.eyes.find? fun y => decide (y.op = o.2)).getD ⟨o.2, 0, 0xFFFFFFFF, 0, 0⟩))
  let layers := j.exch.map fun e => exchBytes (roundsOf j e.layer 0) ((x.exch.find? fun y => decide (y.layer = e.layer)).getD (ExchStats.init e.layer))
  updateStats x ++ eyes.flatten ++ layers.flatten

def stepStatus (s : State) (c : Cmd) : State :=
  needState s c [2, 3, 4] <|
  withJob s c fun j =>
    let want := cArg c 32 8
    let found := if want = 2 ^ 64 - 1 then j.history.head? else j.history.find? fun x => decide (x.step = want)
    if j.stopped then answer s c (replyFailed 0 [])
    else match found with
      | some x => answer s c (replyRes (natLE 8 x.step) (statusBytes j x))
      | none => answer s c (replyAbsent 0 ⟨255, 255, 255, 255⟩ 255)

def execStepStatus (c : Cmd) (s : State) : Host.Outcome State Fault Refusal := .next (startCmd s c fun s => stepStatus s c)

/-! ### BATCH.CANCEL (R236) -/

/-- Whether a backward slice of a micro-batch of the running step is planned at or before a beat. -/
def backwardBy (j : Job) (mb e : Nat) : Bool :=
  match j.plan with
  | some p => p.slices.any fun sl => sl.backward && decide (sl.mb = some mb) && decide (realBeat j j.committed.step sl.beat ≤ (e : Int))
  | none => false

def batchCancel (s : State) (c : Cmd) : State :=
  let f := cIx c
  let mb := cArg c 32 2
  needState s c [4] <|
  withJob s c fun j =>
    let accepted := match flightOf s c.req with | some fl => fl.fetchBeat | none => s.eng.beat
    let e := accepted + announceDist s
    unlessRefused s c (decide (mb < (match j.plan with | some p => p.microBatches | none => 0))) 4 32 <|
    unlessRefused s c (decide (j.hdr.kind ≠ 0) || !backwardBy j mb e) 2 0xFFFF <|
    setJob (begun s c) f fun j => { j with cancels := j.cancels ++ [(mb, e, c.req)] }

def execBatchCancel (c : Cmd) (s : State) : Host.Outcome State Fault Refusal := .next (startCmd s c fun s => batchCancel s c)

end Sys2Proof.Machine
end

