-- ==== Sys2Proof/Machine/Tel.lean ====
section
/-! DEFINITION. TEL commands and the I3C target (spec/13 R436; spec/12 R404; spec/14 R459; spec/16 R498, R499). -/
namespace Sys2Proof.Machine
open Sys2Proof

/-- A read of group 0 starts a new search for the highest 1 ms mean (Table 14.11). -/
def afterRead (s : State) (g : Nat) : State :=
  if g = 0 ∧ !molting s then { s with pow := { s.pow with peakW := s.pow.reading.meanW } } else s

/-- R436, R459, R477: one telemetry record. -/
def telRead (s : State) (c : Cmd) : State :=
  let g := cArg c 32 1
  unlessRefused s c (g ≤ 6) 4 32 <|
  answer (afterRead s g) c (replyRes (natLE 8 s.eng.beat) (telRecord s g (cIx c)))

def execTelRead (c : Cmd) (s : State) : Host.Outcome State Fault Refusal := .next (startCmd s c fun s => telRead s c)

/-- R404, R436: configures or removes the event ring of the issuing ring pair; events lost so far are reported. -/
def telSubscribe (s : State) (c : Cmd) : State :=
  let n := cArg c 40 2
  let cls := cArg c 42 1 % 4
  let slots := if n = 0 then 0 else pow2Up (clamp 8 256 n)
  let s1 := setRing s c.ring fun r =>
    { r with evBase := cArg c 32 8, evSlots := slots, evHead := 0, evTail := 0, evInfo := bit cls 0 && decide (slots ≠ 0),
             evWarn := bit cls 1 && decide (slots ≠ 0), evDropped := if slots = 0 then 0 else r.evDropped }
  let s2 := if slots = 0 then s1 else reportLost s1 c.ring
  answer s2 c (replyOk (natLE 2 slots ++ natLE 1 (if slots = 0 then 0 else cls)))

def execTelSubscribe (c : Cmd) (s : State) : Host.Outcome State Fault Refusal := .next (startCmd s c fun s => telSubscribe s c)

/-! ### I3C (R498, R499) -/

def setI3c (s : State) (a : Nat) : State := if s.pow.input then { s with face := { s.face with i3cAddr := some (a % 128) } } else s

/-- The controller assigns the dynamic address from the static address 0x40 + SLOT_ID. -/
def execSetdasa (addr : Nat) (s : State) : Host.Outcome State Fault Refusal := .next (setI3c s addr)

/-- Dynamic address assignment. -/
def execEntdaa (addr : Nat) (s : State) : Host.Outcome State Fault Refusal := .next (setI3c s addr)

def execI3cSelectorWrite (sel : Nat) (s : State) : Host.Outcome State Fault Refusal :=
  .next (if s.pow.input then { s with face := { s.face with selector := sel % 256 } } else s)

/-- The group of a telemetry selector (Table 16.4). -/
def i3cGroup (sel : Nat) : Option Nat := if sel = 0 ∨ sel = 1 ∨ sel = 4 ∨ sel = 6 then some sel else none

/-- Status byte and record of the selected record (R499; log 39). -/
def i3cRecord (s : State) : Bytes :=
  let sel := s.face.selector
  match i3cGroup sel with
  | some g => if s.pow.stage < 4 then [2] else if molting s then [1] else natLE 1 0 ++ telRecord s g 0
  | none =>
    if sel = 0xF0 then natLE 1 0 ++ natLE 8 (devStatus s)
    else if sel = 0xF1 then natLE 1 0 ++ natLE 4 s.face.alerts.toNat
    else if sel = 0xF2 then natLE 1 0 ++ natLE 8 s.flash.serial ++ natLE 1 s.pow.slotId ++ natLE 1 (lightCode s) ++ zeros 6
    else [3]

/-- R499: answers a private read; reading the alert cause register clears the causes read. -/
def i3cRead (s : State) : State :=
  if !s.pow.input then s
  else
    let b := i3cRecord s
    let s1 := match i3cGroup s.face.selector with
      | some g => if 1 < b.length then afterRead s g else s
      | none => s
    { s1 with face := { s1.face with i3cOut := s1.face.i3cOut ++ [b],
                                     alerts := if s.face.selector = 0xF1 then 0 else s1.face.alerts } }

def execI3cPrivateRead (s : State) : Host.Outcome State Fault Refusal := .next (i3cRead s)

end Sys2Proof.Machine
end

