-- ==== Sys2Proof/Machine/Dispatch.lean ====
section
/-! DEFINITION. One arm per command and event (spec/opcode_table.json). -/
namespace Sys2Proof.Machine
open Sys2Proof

def exec (i : Instr) (s : State) : Host.Outcome State Fault Refusal :=
  match i with
  | .mbxCmdBaseWrite v => Sys2Proof.Machine.execMbxCmdBaseWrite v s
  | .mbxCmdSizeWrite v => Sys2Proof.Machine.execMbxCmdSizeWrite v s
  | .mbxCplBaseWrite v => Sys2Proof.Machine.execMbxCplBaseWrite v s
  | .mbxCmdTail v => Sys2Proof.Machine.execMbxCmdTail v s
  | .mbxCplHead v => Sys2Proof.Machine.execMbxCplHead v s
  | .registerWriteOther offset width v => Sys2Proof.Machine.execRegisterWriteOther offset width v s
  | .descriptorFetch ring desc payload => Sys2Proof.Machine.execDescriptorFetch ring desc payload s
  | .completionWrite ring stampZero => Sys2Proof.Machine.execCompletionWrite ring stampZero s
  | .devInfo c => Sys2Proof.Machine.execDevInfo c s
  | .devCaps c => Sys2Proof.Machine.execDevCaps c s
  | .devSelftest c => Sys2Proof.Machine.execDevSelftest c s
  | .devReset c => Sys2Proof.Machine.execDevReset c s
  | .devFwStage c => Sys2Proof.Machine.execDevFwStage c s
  | .devFwActivate c => Sys2Proof.Machine.execDevFwActivate c s
  | .fnPartition c => Sys2Proof.Machine.execFnPartition c s
  | .fnEnable c => Sys2Proof.Machine.execFnEnable c s
  | .fnAssign c => Sys2Proof.Machine.execFnAssign c s
  | .fnReset c => Sys2Proof.Machine.execFnReset c s
  | .fnMolt c => Sys2Proof.Machine.execFnMolt c s
  | .memAlloc c => Sys2Proof.Machine.execMemAlloc c s
  | .memFree c => Sys2Proof.Machine.execMemFree c s
  | .memWrite c => Sys2Proof.Machine.execMemWrite c s
  | .memRead c => Sys2Proof.Machine.execMemRead c s
  | .memWindow c => Sys2Proof.Machine.execMemWindow c s
  | .jobLoad c => Sys2Proof.Machine.execJobLoad c s
  | .jobPlan c => Sys2Proof.Machine.execJobPlan c s
  | .jobVerify c => Sys2Proof.Machine.execJobVerify c s
  | .jobMap c => Sys2Proof.Machine.execJobMap c s
  | .jobReshard c => Sys2Proof.Machine.execJobReshard c s
  | .jobResize c => Sys2Proof.Machine.execJobResize c s
  | .jobUnload c => Sys2Proof.Machine.execJobUnload c s
  | .stepRun c => Sys2Proof.Machine.execStepRun c s
  | .stepAbort c => Sys2Proof.Machine.execStepAbort c s
  | .stepStatus c => Sys2Proof.Machine.execStepStatus c s
  | .batchCancel c => Sys2Proof.Machine.execBatchCancel c s
  | .snapTake c => Sys2Proof.Machine.execSnapTake c s
  | .snapPolicy c => Sys2Proof.Machine.execSnapPolicy c s
  | .snapRestore c => Sys2Proof.Machine.execSnapRestore c s
  | .snapExport c => Sys2Proof.Machine.execSnapExport c s
  | .snapList c => Sys2Proof.Machine.execSnapList c s
  | .linkStatus c => Sys2Proof.Machine.execLinkStatus c s
  | .linkAdmit c => Sys2Proof.Machine.execLinkAdmit c s
  | .linkDrain c => Sys2Proof.Machine.execLinkDrain c s
  | .linkMapinfo c => Sys2Proof.Machine.execLinkMapinfo c s
  | .timeSync c => Sys2Proof.Machine.execTimeSync c s
  | .timeBeatSet c => Sys2Proof.Machine.execTimeBeatSet c s
  | .timeBeatStretch c => Sys2Proof.Machine.execTimeBeatStretch c s
  | .telRead c => Sys2Proof.Machine.execTelRead c s
  | .telSubscribe c => Sys2Proof.Machine.execTelSubscribe c s
  | .secAttest c => Sys2Proof.Machine.execSecAttest c s
  | .secKeys c => Sys2Proof.Machine.execSecKeys c s
  | .panelLocate c => Sys2Proof.Machine.execPanelLocate c s
  | .panelService c => Sys2Proof.Machine.execPanelService c s
  | .hostEnvStart c => Sys2Proof.Machine.execHostEnvStart c s
  | .hostEnvStop c => Sys2Proof.Machine.execHostEnvStop c s
  | .beatBoundary => Sys2Proof.Machine.execBeatBoundary s
  | .messagePhaseStart => Sys2Proof.Machine.execMessagePhaseStart s
  | .dataPhaseStart faults => Sys2Proof.Machine.execDataPhaseStart faults s
  | .dataPhaseEnd unfinished => Sys2Proof.Machine.execDataPhaseEnd unfinished s
  | .deadlineTest => Sys2Proof.Machine.execDeadlineTest s
  | .remainderDone r => Sys2Proof.Machine.execRemainderDone r s
  | .holdExpiry fn => Sys2Proof.Machine.execHoldExpiry fn s
  | .commitBeat fn => Sys2Proof.Machine.execCommitBeat fn s
  | .commitIrrevocable fn => Sys2Proof.Machine.execCommitIrrevocable fn s
  | .replayAnchor fn => Sys2Proof.Machine.execReplayAnchor fn s
  | .stretchEffective => Sys2Proof.Machine.execStretchEffective s
  | .stretchLowering => Sys2Proof.Machine.execStretchLowering s
  | .periodEffective => Sys2Proof.Machine.execPeriodEffective s
  | .cancelEffective fn mb => Sys2Proof.Machine.execCancelEffective fn mb s
  | .syncFlit port payload t4 => Sys2Proof.Machine.execSyncFlit port payload t4 s
  | .upstreamLoss reachable upstream depth => Sys2Proof.Machine.execUpstreamLoss reachable upstream depth s
  | .masterElectionComplete others => Sys2Proof.Machine.execMasterElectionComplete others s
  | .lockLost => Sys2Proof.Machine.execLockLost s
  | .lockWindowExpiry => Sys2Proof.Machine.execLockWindowExpiry s
  | .suspensionEnd => Sys2Proof.Machine.execSuspensionEnd s
  | .memberAfterLock fn => Sys2Proof.Machine.execMemberAfterLock fn s
  | .referenceEdge offsetNs => Sys2Proof.Machine.execReferenceEdge offsetNs s
  | .referenceLocked => Sys2Proof.Machine.execReferenceLocked s
  | .ppsOutput => Sys2Proof.Machine.execPpsOutput s
  | .abort port m => Sys2Proof.Machine.execAbort port m s
  | .stretch port m => Sys2Proof.Machine.execStretch port m s
  | .commit port m => Sys2Proof.Machine.execCommit port m s
  | .barrier port m => Sys2Proof.Machine.execBarrier port m s
  | .counts port m => Sys2Proof.Machine.execCounts port m s
  | .plan port m => Sys2Proof.Machine.execPlan port m s
  | .event port m => Sys2Proof.Machine.execEvent port m s
  | .forward port m => Sys2Proof.Machine.execForward port m s
  | .allocationComplete fn layer mb backward => Sys2Proof.Machine.execAllocationComplete fn layer mb backward s
  | .tokenRow fn round backward row => Sys2Proof.Machine.execTokenRow fn round backward row s
  | .itemRelease fn expert mTile => Sys2Proof.Machine.execItemRelease fn expert mTile s
  | .itemComplete fn core => Sys2Proof.Machine.execItemComplete fn core s
  | .collectiveSegment fn port seg => Sys2Proof.Machine.execCollectiveSegment fn port seg s
  | .dataItem port desc item => Sys2Proof.Machine.execDataItem port desc item s
  | .compilationComplete fn p => Sys2Proof.Machine.execCompilationComplete fn p s
  | .flitReceived port flit clean => Sys2Proof.Machine.execFlitReceived port flit clean s
  | .checkTimeout port => Sys2Proof.Machine.execCheckTimeout port s
  | .laneFailed port rx lane => Sys2Proof.Machine.execLaneFailed port rx lane s
  | .cableInserted port => Sys2Proof.Machine.execCableInserted port s
  | .cableRemoved port => Sys2Proof.Machine.execCableRemoved port s
  | .backplanePowerGood port => Sys2Proof.Machine.execBackplanePowerGood port s
  | .cableReadDone port info => Sys2Proof.Machine.execCableReadDone port info s
  | .cableOvercurrent port => Sys2Proof.Machine.execCableOvercurrent port s
  | .trainingStageDone port margins => Sys2Proof.Machine.execTrainingStageDone port margins s
  | .trainingStageTimeout port => Sys2Proof.Machine.execTrainingStageTimeout port s
  | .latencyMeasured port roundTrips => Sys2Proof.Machine.execLatencyMeasured port roundTrips s
  | .identRecord port rec => Sys2Proof.Machine.execIdentRecord port rec s
  | .keyx port payload verified => Sys2Proof.Machine.execKeyx port payload verified s
  | .portTimeLock port => Sys2Proof.Machine.execPortTimeLock port s
  | .linkRekey port => Sys2Proof.Machine.execLinkRekey port s
  | .servicePortRetrained lanes => Sys2Proof.Machine.execServicePortRetrained lanes s
  | .bridgeLost becomes => Sys2Proof.Machine.execBridgeLost becomes s
  | .patrolScrub addr find => Sys2Proof.Machine.execPatrolScrub addr find s
  | .occupancyWindowEnd occ bytesMoved => Sys2Proof.Machine.execOccupancyWindowEnd occ bytesMoved s
  | .oscillatorTracking => Sys2Proof.Machine.execOscillatorTracking s
  | .selfRefreshEntry => Sys2Proof.Machine.execSelfRefreshEntry s
  | .coreSelftestDone fn physA physB failA failB => Sys2Proof.Machine.execCoreSelftestDone fn physA physB failA failB s
  | .snapshotStopBegin fn => Sys2Proof.Machine.execSnapshotStopBegin fn s
  | .snapshotStopEnd fn => Sys2Proof.Machine.execSnapshotStopEnd fn s
  | .level1Complete fn => Sys2Proof.Machine.execLevel1Complete fn s
  | .level2Complete fn => Sys2Proof.Machine.execLevel2Complete fn s
  | .recoveryTransfersComplete fn => Sys2Proof.Machine.execRecoveryTransfersComplete fn s
  | .powerSample r => Sys2Proof.Machine.execPowerSample r s
  | .thermalCritical sensor celsius => Sys2Proof.Machine.execThermalCritical sensor celsius s
  | .leakNAsserted own us => Sys2Proof.Machine.execLeakNAsserted own us s
  | .leakSenseDry => Sys2Proof.Machine.execLeakSenseDry s
  | .inputUndervoltage millivolts us => Sys2Proof.Machine.execInputUndervoltage millivolts us s
  | .hotswapFault => Sys2Proof.Machine.execHotswapFault s
  | .powerApplied slotId => Sys2Proof.Machine.execPowerApplied slotId s
  | .bootStageComplete f => Sys2Proof.Machine.execBootStageComplete f s
  | .bootStageTimeout => Sys2Proof.Machine.execBootStageTimeout s
  | .modRstAssert us => Sys2Proof.Machine.execModRstAssert us s
  | .modRstRelease stillCause => Sys2Proof.Machine.execModRstRelease stillCause s
  | .cpWatchdog cp => Sys2Proof.Machine.execCpWatchdog cp s
  | .cpResetComplete cp => Sys2Proof.Machine.execCpResetComplete cp s
  | .envWatchdogExpiry => Sys2Proof.Machine.execEnvWatchdogExpiry s
  | .activationWindowEnd verified => Sys2Proof.Machine.execActivationWindowEnd verified s
  | .fnResetComplete fn => Sys2Proof.Machine.execFnResetComplete fn s
  | .moltEnd fn failedPart => Sys2Proof.Machine.execMoltEnd fn failedPart s
  | .selftestComplete failures => Sys2Proof.Machine.execSelftestComplete failures s
  | .envBooted => Sys2Proof.Machine.execEnvBooted s
  | .envGraceExpiry => Sys2Proof.Machine.execEnvGraceExpiry s
  | .flashIdleOff => Sys2Proof.Machine.execFlashIdleOff s
  | .locatePadTouch touchMs nowMs => Sys2Proof.Machine.execLocatePadTouch touchMs nowMs s
  | .attentionButtonRelease pressMs nowMs => Sys2Proof.Machine.execAttentionButtonRelease pressMs nowMs s
  | .attentionLongPress => Sys2Proof.Machine.execAttentionLongPress s
  | .locateTimeout => Sys2Proof.Machine.execLocateTimeout s
  | .refusalPatternEnd => Sys2Proof.Machine.execRefusalPatternEnd s
  | .setdasa addr => Sys2Proof.Machine.execSetdasa addr s
  | .entdaa addr => Sys2Proof.Machine.execEntdaa addr s
  | .i3cSelectorWrite sel => Sys2Proof.Machine.execI3cSelectorWrite sel s
  | .i3cPrivateRead => Sys2Proof.Machine.execI3cPrivateRead s
  | .getVersion q => Sys2Proof.Machine.execGetVersion q s
  | .getCapabilities q => Sys2Proof.Machine.execGetCapabilities q s
  | .negotiateAlgorithms q => Sys2Proof.Machine.execNegotiateAlgorithms q s
  | .getDigests q => Sys2Proof.Machine.execGetDigests q s
  | .getCertificate q => Sys2Proof.Machine.execGetCertificate q s
  | .challenge q => Sys2Proof.Machine.execChallenge q s
  | .getMeasurements q => Sys2Proof.Machine.execGetMeasurements q s
  | .keyExchange q => Sys2Proof.Machine.execKeyExchange q s
  | .finish q => Sys2Proof.Machine.execFinish q s
  | .respondIfReady q => Sys2Proof.Machine.execRespondIfReady q s
  | .spdmUnsupportedRequest q => Sys2Proof.Machine.execSpdmUnsupportedRequest q s
  | .referenceSignalLost => Sys2Proof.Machine.execReferenceSignalLost s
  | .serviceLanesEnabled other => Sys2Proof.Machine.execServiceLanesEnabled other s
  | .unlockToken serial counter signed => Sys2Proof.Machine.execUnlockToken serial counter signed s
  | .powerLoss => Sys2Proof.Machine.execPowerLoss s
  | .domainSwitchedOn domains => Sys2Proof.Machine.execDomainSwitchedOn domains s
  | .restoreComplete fn => Sys2Proof.Machine.execRestoreComplete fn s
  | .imageStaged valid => Sys2Proof.Machine.execImageStaged valid s
  | .engineSelftestDone fn engine failA failB => Sys2Proof.Machine.execEngineSelftestDone fn engine failA failB s
  | .thermalWarning sensor celsius => Sys2Proof.Machine.execThermalWarning sensor celsius s
  | .envWatchdogArm periodMs => Sys2Proof.Machine.execEnvWatchdogArm periodMs s

end Sys2Proof.Machine
end

