-- ==== Sys2Proof/Safety.lean ====
section
/-! DEFINITION. What counts as a safe state, the parts of State that a frame names, and how a statement says that a
command may start, in the terms that claims use. -/
namespace Sys2Proof.Machine
open Sys2Proof

/-- The parts of State that frames name. `queue` is the queue of control messages (R37) with the express bytes of the beat (R306), `sent` the trace of
transmissions, `mem` the bytes of every device address, `stores` all else in the stores. -/
inductive Part where
  | pending | mbx | flash | eng | queue | fab | sent | stores | mem | fns | env | pow | face | sec | free
  deriving DecidableEq, Repr

/-- The beat engine without its message queue and the express bytes of the beat. -/
def BeatEngine.sansQueue (e : BeatEngine) : BeatEngine := { e with queue := [], express := [] }

/-- The fabric without the trace of transmissions. -/
def Fabric.sansSent (f : Fabric) : Fabric := { f with sent := [] }

/-- The stores without the memory. -/
def Stores.sansMem (x : Stores) : Stores := { x with mem := [] }

/-- Whether a part is the same in two states. -/
def Part.same : Part → State → State → Prop
  | .pending, s, t => t.pending = s.pending
  | .mbx, s, t => t.mbx = s.mbx
  | .flash, s, t => t.flash = s.flash
  | .eng, s, t => t.eng.sansQueue = s.eng.sansQueue
  | .queue, s, t => t.eng.queue = s.eng.queue ∧ t.eng.express = s.eng.express
  | .fab, s, t => t.fab.sansSent = s.fab.sansSent
  | .sent, s, t => t.fab.sent = s.fab.sent
  | .stores, s, t => t.st.sansMem = s.st.sansMem
  | .mem, s, t => ∀ a, memGet t.st.mem a = memGet s.st.mem a
  | .fns, s, t => t.fns = s.fns
  | .env, s, t => t.env = s.env
  | .pow, s, t => t.pow = s.pow
  | .face, s, t => t.face = s.face
  | .sec, s, t => t.sec = s.sec
  | .free, s, t => t.free = s.free

/-- Every part but the listed ones is the same in both states. -/
def Frame (changed : List Part) (s t : State) : Prop := ∀ p : Part, p ∉ changed → p.same s t

/-- A command is in flight, nothing keeps it from starting, and it passes tests 1 to 4 (R391, R399). -/
def MayStart (s : State) (c : Cmd) : Prop :=
  (flightOf s c.req).isSome = true ∧ blocked s c = false ∧ preTest s c = none

/-- The same for a command that this device fetched for itself alone (R389, R405). -/
def OwnStart (s : State) (c : Cmd) : Prop :=
  (∃ f, flightOf s c.req = some f ∧ f.phase = .fetched ∧ f.bridge = none ∧ f.targets = []) ∧ blocked s c = false ∧ preTest s c = none

/-- A command that this device fetched for itself has given one more completion: its words and its result (R390, R398). -/
def Answered (s t : State) (c : Cmd) (status reason : Nat) (eff result : Bytes) : Prop :=
  t.mbx.held = s.mbx.held ++
    [⟨c.ring, c.req, natLE 4 (cTag c) ++ natLE 1 status ++ natLE 1 reason ++ natLE 2 0 ++ natLE 8 s.eng.beat ++ fit 16 eff,
      result, cArg c 48 8, status != 1 && status != 3⟩]

/-- The command that a row of spec/13 carries. -/
def commandOf : Instr → Option Cmd
  | .devInfo c | .devCaps c | .devSelftest c | .devReset c
  | .devFwStage c | .devFwActivate c | .fnPartition c | .fnEnable c
  | .fnAssign c | .fnReset c | .fnMolt c | .memAlloc c
  | .memFree c | .memWrite c | .memRead c | .memWindow c
  | .jobLoad c | .jobPlan c | .jobVerify c | .jobMap c
  | .jobReshard c | .jobResize c | .jobUnload c | .stepRun c
  | .stepAbort c | .stepStatus c | .batchCancel c | .snapTake c
  | .snapPolicy c | .snapRestore c | .snapExport c | .snapList c
  | .linkStatus c | .linkAdmit c | .linkDrain c | .linkMapinfo c
  | .timeSync c | .timeBeatSet c | .timeBeatStretch c | .telRead c
  | .telSubscribe c | .secAttest c | .secKeys c | .panelLocate c
  | .panelService c | .hostEnvStart c | .hostEnvStop c => some c
  | _ => none

/-- The ring pair 0 is armed with the words of the window: bases, slots, every counter at 0 (R385). -/
def armedAs (t : State) : Prop :=
  t.mbx.armed = true ∧ (ringAt t 0).configured = true ∧ (ringAt t 0).cmdBase = t.mbx.cmdBase.toNat ∧
  (ringAt t 0).cplBase = t.mbx.cplBase.toNat ∧ (ringAt t 0).slots = t.mbx.cmdSize.toNat ∧
  (ringAt t 0).cmdHead = 0 ∧ (ringAt t 0).cmdTail = 0 ∧ (ringAt t 0).cplHead = 0 ∧ (ringAt t 0).cplTail = 0 ∧
  (ringAt t 0).evHead = 0 ∧ (ringAt t 0).evTail = 0

/-- The memory keeps its canonical form (log entry 10). -/
def State.memSafe (s : State) : Prop := Memory.wf s.st.mem = true

/-- The bytes that a host write to [a, a + n) zeroes beside those it stores: the low halves of the master weights whose high half it
touches (R247). -/
def lowTouched (s : State) (f a n x : Nat) : Prop :=
  ∃ j r p y lo, (fnAt s f).job = some j ∧ paramRegion s f = some r ∧ j.hdr.weightMode = 0 ∧ p ∈ j.params ∧ a ≤ y ∧ y < a + n ∧
    lowOf r.addr (ceilDiv p.rows (max 1 j.lengths.d)) p y = some lo ∧ (x = lo ∨ x = lo + 1)

/-- A legal period (R30, R31). -/
def legalPeriod (p : Nat) : Prop := 2000 ≤ p ∧ p ≤ 32000 ∧ p % 500 = 0

/-- Periods in force, scheduled and asked for, and stretch levels, are legal (R30, R31, R53, R56, R58). -/
def State.beatSafe (s : State) : Prop :=
  legalPeriod s.eng.period ∧ (∀ p b, s.eng.periodPending = some (p, b) → legalPeriod p) ∧
  (∀ a ∈ s.eng.periodAsks, legalPeriod a.period) ∧ s.eng.level ≤ 2 ∧ (∀ x ∈ s.eng.levelPending, x.1 ≤ 2) ∧ s.eng.requested ≤ 2 ∧ s.eng.hostFloor ≤ 2

end Sys2Proof.Machine
end

