-- ==== Sys2Proof/Certificates/Slice0/Obligations.lean ====
section
/-! DEFINITION. Statements for the provers, in the order of the spec's chapters. -/
open Sys2Proof Sys2Proof.Machine

/-- O1. Step: the command at the front of the queue runs on the state with the queue's rest; an empty queue idles. -/
def Obligations.StepRunsFront : Prop :=
  (∀ (i : Instr) (rest : List Instr) (s : State), step { s with pending := i :: rest } = exec i { s with pending := rest }) ∧
  ∀ s : State, s.pending = [] → step s = .next s

/-- O2. R384, R385: while ring pair 0 is disarmed, a write of a base or of a nonzero size takes effect; the write after which all three
words are nonzero arms the pair, another one leaves it disarmed; nothing else changes. R384, R385: while ring pair 0 is armed, writes
to the bases and a nonzero size are ignored; a size of 0 disarms it; a narrower, unaligned or read-only access changes nothing. -/
def Obligations.WindowWrites : Prop :=
  (∀ (s : State) (v : Word64) (i : Instr), windowOpen s = true → s.mbx.armed = false → s.mbx.rings.length = 9 →
    (i = .mbxCmdBaseWrite v ∨ i = .mbxCplBaseWrite v ∨ (i = .mbxCmdSizeWrite v ∧ v.toNat % 65536 ≠ 0)) →
    ∃ t, exec i s = .next t ∧ Frame [.mbx] s t ∧ (∀ n, n ≠ 0 → ringAt t n = ringAt s n) ∧
      t.mbx.flights = s.mbx.flights ∧ t.mbx.held = s.mbx.held ∧ t.mbx.hostOut = s.mbx.hostOut ∧
      t.mbx.cmdBase = (if i = .mbxCmdBaseWrite v then v &&& ~~~(0xFFF : Word64) else s.mbx.cmdBase) ∧
      t.mbx.cplBase = (if i = .mbxCplBaseWrite v then v &&& ~~~(0xFFF : Word64) else s.mbx.cplBase) ∧
      (i ≠ .mbxCmdSizeWrite v → t.mbx.cmdSize = s.mbx.cmdSize) ∧
      (i = .mbxCmdSizeWrite v →
        t.mbx.cmdSize ∈ ([8, 16, 32, 64, 128, 256] : List Word64) ∧
        (v.toNat % 65536 ≤ t.mbx.cmdSize.toNat ∨ t.mbx.cmdSize = 256) ∧
        (t.mbx.cmdSize.toNat < 2 * (v.toNat % 65536) ∨ t.mbx.cmdSize = 8)) ∧
      (t.mbx.cmdSize ≠ 0 ∧ t.mbx.cmdBase ≠ 0 ∧ t.mbx.cplBase ≠ 0 → armedAs t) ∧
      (t.mbx.cmdSize = 0 ∨ t.mbx.cmdBase = 0 ∨ t.mbx.cplBase = 0 → t.mbx.armed = false ∧ ringAt t 0 = ringAt s 0)) ∧
  ((∀ (s : State) (v : Word64), s.mbx.armed = true →
    exec (.mbxCmdBaseWrite v) s = .next s ∧ exec (.mbxCplBaseWrite v) s = .next s ∧
    (v.toNat % 65536 ≠ 0 → exec (.mbxCmdSizeWrite v) s = .next s)) ∧
  (∀ (s : State) (v : Word64), windowOpen s = true → s.mbx.rings.length = 9 → v.toNat % 65536 = 0 →
    ∃ t, exec (.mbxCmdSizeWrite v) s = .next t ∧ Frame [.mbx] s t ∧ t.mbx.armed = false ∧ t.mbx.cmdSize = 0 ∧
      (ringAt t 0).configured = false ∧ (∀ n, n ≠ 0 → ringAt t n = ringAt s n) ∧
      t.mbx.cmdBase = s.mbx.cmdBase ∧ t.mbx.cplBase = s.mbx.cplBase) ∧
  ∀ (s : State) (offset width : Nat) (v : Word64), exec (.registerWriteOther offset width v) s = .next s)

/-- O3. R388: a doorbell moves the tail of a configured ring, one that would overfill it is ignored and counted; a head write moves the
head of a completion ring or of an event ring; the other rings keep every counter. -/
def Obligations.Doorbells : Prop :=
  ∀ (s : State) (v : Word64) (n h : Nat), windowOpen s = true → s.mbx.rings.length = 9 →
    n = v.toNat / 65536 % 16 → n ≤ 8 → h = v.toNat % 65536 →
    ((ringAt s n).configured = true →
      ∃ t, exec (.mbxCmdTail v) s = .next t ∧ Frame [.mbx] s t ∧ t.mbx.cmdTail = v ∧
        (∀ k, k ≠ n → ringAt t k = ringAt s k) ∧ (ringAt t n).cmdHead = (ringAt s n).cmdHead ∧
        (ringCount (ringAt s n).cmdHead h ≤ (ringAt s n).slots →
          (ringAt t n).cmdTail = h ∧ t.mbx.overfills = s.mbx.overfills) ∧
        ((ringAt s n).slots < ringCount (ringAt s n).cmdHead h →
          (ringAt t n).cmdTail = (ringAt s n).cmdTail ∧ (s.mbx.overfills < 2 ^ 32 - 1 → t.mbx.overfills = s.mbx.overfills + 1))) ∧
    (v.toNat.testBit 20 = false → (ringAt s n).configured = true →
      ∃ t, exec (.mbxCplHead v) s = .next t ∧ Frame [.mbx] s t ∧ (∀ k, k ≠ n → ringAt t k = ringAt s k) ∧
        (ringAt t n).cplTail = (ringAt s n).cplTail ∧
        (ringCount h (ringAt s n).cplTail ≤ 2 * (ringAt s n).slots → (ringAt t n).cplHead = h) ∧
        (2 * (ringAt s n).slots < ringCount h (ringAt s n).cplTail → (ringAt t n).cplHead = (ringAt s n).cplHead)) ∧
    (v.toNat.testBit 20 = true → ringCount h (ringAt s n).evTail ≤ (ringAt s n).evSlots →
      h ≠ (ringAt s n).evHead → 0 < (ringAt s n).evSlots →
      ∃ t, exec (.mbxCplHead v) s = .next t ∧ Frame [.mbx] s t ∧ (ringAt t n).evHead = h ∧ (ringAt t n).evDropped = 0 ∧
        (∀ k, k ≠ n → ringAt t k = ringAt s k) ∧
        ((ringAt s n).evDropped = 0 → (ringAt t n).evTail = (ringAt s n).evTail ∧ t.mbx.hostOut = s.mbx.hostOut) ∧
        (0 < (ringAt s n).evDropped →
          (ringAt t n).evTail = ((ringAt s n).evTail + 1) % 65536 ∧
          ∃ x, t.mbx.hostOut = s.mbx.hostOut ++ [x] ∧ rd x.bytes 2 2 = 1 ∧
            x.addr = (ringAt s n).evBase + 64 * ((ringAt s n).evTail % (ringAt s n).evSlots)))

/-- O4. R389, R405: a fetch advances the head counter of its ring by one and puts the descriptor in flight under a fresh request number,
behind the commands in flight; it changes nothing outside the mailbox but the messages it sends. -/
def Obligations.FetchTakesNext : Prop :=
  ∀ (s : State) (ring : Nat) (desc payload : Bytes), mayFetch s ring = true → s.mbx.rings.length = 9 → ring ≤ 8 →
    ∃ t, exec (.descriptorFetch ring desc payload) s = .next t ∧ Frame [.mbx, .queue, .sent] s t ∧
      (ringAt t ring).cmdHead = ((ringAt s ring).cmdHead + 1) % 65536 ∧
      (∀ k, k ≠ ring → ringAt t k = ringAt s k) ∧ t.mbx.nextReq = (s.mbx.nextReq + 1) % 2 ^ 32 ∧
      t.mbx.flights.map (fun f => f.cmd) = s.mbx.flights.map (fun f => f.cmd) ++ [⟨s.mbx.nextReq, ring, fit 64 desc, payload⟩]

/-- O5. R390: the oldest held completion of a ring goes into a free slot, its result area first, then bytes 0 to 7 and 16 to 31, its beat
stamp last, with one notice; without a free slot it stays held and nothing changes, and so while CP0 is in reset (R22). R412: a ring pair that
FN.ENABLE configures starts once that command's completion is written; no other ring pair changes. -/
def Obligations.CompletionWritten : Prop :=
  ∀ (s : State) (ring : Nat) (x : Cpl) (stampZero : Bool), s.mbx.rings.length = 9 → ring ≤ 8 →
    s.mbx.held.find? (fun y => decide (y.ring = ring)) = some x → (ringAt s ring).configured = true →
    (stampZero = true → cpDown s 0 = false → ringCount (ringAt s ring).cplHead (ringAt s ring).cplTail < 2 * (ringAt s ring).slots →
      ∃ t a, exec (.completionWrite ring stampZero) s = .next t ∧ Frame [.mbx, .queue, .sent] s t ∧
        a = (ringAt s ring).cplBase + 32 * ((ringAt s ring).cplTail % (2 * (ringAt s ring).slots)) ∧
        t.mbx.hostOut = s.mbx.hostOut ++ (if x.result = [] then [] else [⟨x.resultAddr, x.result⟩]) ++
          [⟨a, slice x.bytes 0 8⟩, ⟨a + 16, slice x.bytes 16 16⟩, ⟨a + 8, slice x.bytes 8 8⟩] ∧
        t.mbx.notices = s.mbx.notices + 1 ∧ t.mbx.held = s.mbx.held.erase x ∧
        (ringAt t ring).cplTail = ((ringAt s ring).cplTail + 1) % 65536 ∧
        (∀ k, k ≠ ring → (ringAt s k).enabling ≠ some x.req → ringAt t k = ringAt s k) ∧
        (∀ k, k ≠ ring → (ringAt s k).enabling = some x.req → ringAt t k = { ringAt s k with configured := true, enabling := none }) ∧
        (x.final = true → ∀ f ∈ t.mbx.flights, f.cmd.req ≠ x.req)) ∧
    (stampZero = false ∨ cpDown s 0 = true ∨ 2 * (ringAt s ring).slots ≤ ringCount (ringAt s ring).cplHead (ringAt s ring).cplTail →
      exec (.completionWrite ring stampZero) s = .next s)

/-- O6. R391, R399: a command that an earlier one of its ring keeps waiting, or that has started, does nothing; one that fails a test is
answered by that test and has no other effect. R399, R392, R412, R386, R442: the order of the tests: an unknown opcode, a missing
function (refused where a JOB.LOAD broadcast names it), a device that is not ready, the ring, a confidential function. DEV.INFO on ring 0
passes them in every state of the device (R421; the model's order of R421 over R399, log 176). -/
def Obligations.TestsBeforeEffects : Prop :=
  (∀ (i : Instr) (c : Cmd) (s : State), commandOf i = some c → (flightOf s c.req).isSome = true →
    (blocked s c = true → exec i s = .next s) ∧
    ∀ r, blocked s c = false → preTest s c = some r → exec i s = .next (answer s c r)) ∧
  (∀ (s : State) (c : Cmd),
    (opcodeKnown (cOp c) = false → ∃ r, preTest s c = some r ∧ r.status = 5) ∧
    (opcodeKnown (cOp c) = true → functionExists s (cFunction c) = false → ∃ r, preTest s c = some r ∧
      (cOp c = 0x0401 ∧ isBroadcast c = true ∧ cFunction c ≤ 4 → r.status = 4 ∧ r.reason = 2) ∧
      (¬(cOp c = 0x0401 ∧ isBroadcast c = true ∧ cFunction c ≤ 4) → r.status = 6)) ∧
    (cOp c = 0x0101 → c.ring = 0 → functionExists s (cFunction c) = true → preTest s c = none) ∧
    (opcodeKnown (cOp c) = true → functionExists s (cFunction c) = true → c.ring ≠ 6 → ¬(cOp c = 0x0101 ∧ c.ring = 0) →
      (s.pow.state = 5 → ∃ r, preTest s c = some r ∧ r.status = 7) ∧
      (s.pow.state ≠ 5 → s.pow.state ≠ 1 → s.pow.state ≠ 2 → ∃ r, preTest s c = some r ∧ r.status = 2 ∧ 1 ≤ r.retry ∧ r.retry ≤ 65535) ∧
      (s.pow.state = 1 ∨ s.pow.state = 2 → ringAccepts c.ring (cOp c) = false ∨ (c.ring ≠ 0 ∧ cFunction c ≠ c.ring) →
        ∃ r, preTest s c = some r ∧ r.status = 4 ∧ r.reason = 3) ∧
      (s.pow.state = 1 ∨ s.pow.state = 2 → c.ring = 0 → cCat c = 4 → cOp c / 256 = 4 → 1 ≤ cFunction c → cFunction c ≤ 4 →
        (fnAt s (cFunction c - 1)).confidential = true → ∃ r, preTest s c = some r ∧ r.status = 4 ∧ r.reason = 3)))

/-- O7. R390, R398, R400, R405, R407: what a reply becomes. Fetched for this device alone: one completion joins the held ones. Forwarded
here: it leaves for the bridge by FORWARD and a final one is kept. A target of a command with other targets that have answered nothing:
nothing is written to the host yet. No reply changes more than the mailbox and the messages. -/
def Obligations.ReplyForms : Prop :=
  ∀ (s : State) (c : Cmd) (r : Reply) (f : Flight), flightOf s c.req = some f → f.phase ≠ .final →
    Frame [.mbx, .queue, .sent] s (answer s c r) ∧
    (answer s c r).mbx.rings = s.mbx.rings ∧ (answer s c r).mbx.hostOut = s.mbx.hostOut ∧
    (answer s c r).mbx.flights.map (fun f => f.cmd) = s.mbx.flights.map (fun f => f.cmd) ∧
    (f.bridge = none → f.targets = [] →
      Frame [.mbx] s (answer s c r) ∧ ∃ x, (answer s c r).mbx.held = s.mbx.held ++ [x] ∧ x.ring = c.ring ∧ x.req = c.req ∧
        x.bytes = natLE 4 (cTag c) ++ natLE 1 r.status ++ natLE 1 (reasonOf c r) ++ natLE 2 r.retry ++ natLE 8 s.eng.beat ++ fit 16 (effOf r) ∧
        x.result = areaBytes c r ∧ x.resultAddr = cArg c 48 8 ∧ (x.final = true ↔ r.status ≠ 1 ∧ r.status ≠ 3) ∧
        (x.final = true → ∃ g, flightOf (answer s c r) c.req = some g ∧ g.phase = .final)) ∧
    (∀ b, f.bridge = some b → (answer s c r).mbx.held = s.mbx.held ∧
      (r.status ≠ 1 → r.status ≠ 3 → ∃ x, (answer s c r).mbx.kept = s.mbx.kept ++ [x] ∧ x.req = c.req ∧
        x.bytes = natLE 4 (cTag c) ++ natLE 1 r.status ++ natLE 1 (reasonOf c r) ++ natLE 2 r.retry ++ natLE 8 s.eng.beat ++ fit 16 (effOf r))) ∧
    (f.bridge = none → (∃ t ∈ f.targets, t.coord ≠ ownName s c ∧ t.final = none ∧ t.interim = none) →
      (answer s c r).mbx.held = s.mbx.held)

/-- O8. R421, R422: DEV.INFO returns the record of Table 13.5 and DEV.CAPS the contract's capabilities; neither changes more than the
reply. -/
def Obligations.DevInfoAndCaps : Prop :=
  ∀ (s : State) (c : Cmd), MayStart s c →
    (∃ b, exec (.devInfo c) s = .next (answer s c (replyRes (natLE 8 s.flash.serial) b)) ∧
      slice b 0 8 = natLE 8 s.flash.serial ∧ slice b 8 8 = ascii "ZK961536" ∧ rd b 16 1 = 0xB0 ∧
      rd b 17 1 = s.flash.partMode % 256 ∧ rd b 18 1 = s.pow.slotId % 256 ∧ rd b 19 1 = s.pow.state % 256 ∧
      rd b 28 1 = (if s.flash.runB then 1 else 0) ∧
      (s.st.spares.length = 16 → ∀ k, k < 16 → rd b (32 + k) 1 = ((s.st.spares.getD k none).getD 255) % 256)) ∧
    ∃ b, exec (.devCaps c) s = .next (answer s c (replyRes [1, 0, 1] b))

/-- O9. R421, R446, R462: a self-test is accepted with the parts of its scope, or BUSY while one runs; DEV.RESET answers OK first and then
resets, both only while no function runs. R446, R386, R443, Table 14.4: after a device reset no job, no far or near allocation and no
system map is left, every word of the bootstrap window and every ring is at its reset value, the near, core and cluster memory of the
functions reads zero, and the flash keeps its contents. -/
def Obligations.ResetCommands : Prop :=
  (∀ (s : State) (c : Cmd), MayStart s c →
    ((∀ f, f < 4 → fnState s f ≠ 4 ∧ fnState s f ≠ 5) →
      (s.pow.selftest = none →
        ∃ scope, exec (.devSelftest c) s =
            .next { answer s c (replyAccepted []) with pow := { s.pow with selftest := some (c.req, scope) } } ∧
          scope = (if cArg c 32 1 % 32 = 0 then 31 else cArg c 32 1 % 32)) ∧
      (s.pow.selftest ≠ none → ∃ n, exec (.devSelftest c) s = .next (answer s c (replyBusy n)))) ∧
    ((∃ f, f < 4 ∧ fnState s f = 4 ∧ fnExists s f = true) →
      exec (.devSelftest c) s = .next (answer s c (replyRefused s c 2 0xFFFF)) ∧
      ((cFlags c).testBit 8 = false → exec (.devReset c) s = .next (answer s c (replyRefused s c 2 0xFFFF)))) ∧
    ((∀ f, f < 4 → fnState s f ≠ 4) ∨ (cFlags c).testBit 8 = true →
      exec (.devReset c) s = .next (requestReset (answer s c (replyOk (natLE 8 s.eng.beat)))))) ∧
  (∀ s : State, s.fns.length = 4 →
    let t := deviceReset s
    t.flash = { s.flash with staging := none } ∧ t.fab.map = none ∧ t.fab.bridge = false ∧ t.pow.state = 4 ∧
    t.pow.stage = (if s.pow.rstHeld then 3 else 4) ∧
    t.mbx.cmdBase = 0 ∧ t.mbx.cmdSize = 0 ∧ t.mbx.cmdTail = 0 ∧ t.mbx.cplBase = 0 ∧ t.mbx.armed = false ∧
    t.mbx.rings = List.replicate 9 RingPair.off ∧ t.mbx.flights = [] ∧ t.mbx.held = [] ∧ t.mbx.window = 0x400000 ∧
    (∀ f, f < 4 → (fnAt t f).job = none ∧ (fnAt t f).near = [] ∧ (fnAt t f).far = [] ∧ (fnAt t f).hashKey = none) ∧
    (∀ p, p < s.fab.ports.length → (portAt t p).pstate = 0 ∧ (portAt t p).code = (portAt s p).code) ∧
    (∀ a f, f < 4 → ownsAddr s f a = true → regionOf a ≠ .far → memGet t.st.mem a = 0) ∧
    t.st.cores = [] ∧ t.st.partials = [] ∧ t.st.bad = [])

/-- O10. R458: SELFTEST_COMPLETE answers the command with every failed item and lists the failures of cores and memory rows. R466, R468,
R469: staging is accepted and ends at IMAGE_STAGED, which fills the slot that does not run; activation opens a window; at its end a
verified image becomes slot A and the counter never falls. -/
def Obligations.SelftestAndFirmware : Prop :=
  (∀ (s : State) (failures : List FailItem) (q scope : Nat), s.pow.selftest = some (q, scope) →
    ∃ t u, exec (.selftestComplete failures) s = .next t ∧
      t = answerReq u q (replyRes (natLE 4 failures.length ++ natLE 1 scope)
        (failures.map fun x => natLE 1 x.kind ++ natLE 4 x.index ++ natLE 8 x.addr ++ zeros 3).flatten) ∧
      t.pow.selftest = none ∧ (∀ x ∈ failures, x.kind ≤ 2 → (⟨x.kind, x.index, x.addr⟩ : FflEntry) ∈ t.flash.ffl) ∧
      (∀ e ∈ s.flash.ffl, e ∈ t.flash.ffl) ∧ t.flash.partMode = s.flash.partMode ∧ t.flash.counter = s.flash.counter) ∧
  ((∀ (s : State) (c : Cmd), MayStart s c → cArg c 32 1 ≤ 1 → s.flash.activation = none → s.flash.staging = none →
    ∃ img ok, exec (.devFwStage c) s = .next
        { answer s c (replyAccepted (natLE 4 img.version)) with
            flash := { s.flash with staging := some (cArg c 32 1, img, ok, c.req) } } ∧
      img = ⟨rd c.payload 8 4, rd c.payload 12 4, slice c.payload 32 64⟩ ∧
      (ok = true → (if cArg c 32 1 = 0 then s.flash.counter else s.flash.envCounter) ≤ img.svn)) ∧
  (∀ (s : State) (img : Image) (q : Nat), s.flash.staging = some (0, img, true, q) →
    ∃ u, exec (.imageStaged true) s = .next (answerReq u q (replyOk (natLE 4 img.version ++ natLE 1 (if s.flash.runB then 0 else 1)))) ∧
      Frame [.flash] s u ∧ u.flash.staged = some (img, if s.flash.runB then 0 else 1) ∧ u.flash.staging = none ∧
      (s.flash.runB = true → u.flash.slotB = s.flash.slotB) ∧ (s.flash.runB = false → u.flash.slotA = s.flash.slotA)) ∧
  (∀ (s : State) (kind q : Nat) (img : Image) (ok valid : Bool), s.flash.staging = some (kind, img, ok, q) → (ok && valid) = false →
    exec (.imageStaged valid) s = .next (answerReq { s with flash := { s.flash with staging := none } } q ⟨4, 7, 0, [0xFF, 0xFF, 0, 7], none⟩)) ∧
  (∀ (s : State) (c : Cmd) (img : Image) (slot : Nat), MayStart s c → cArg c 32 1 = 0 → s.flash.staged = some (img, slot) →
    (∀ f, f < 4 → fnState s f ≤ 1) →
    ∃ t, exec (.devFwActivate c) s = .next t ∧ t.pow.state = 3 ∧ t.flash.activation = some (s.eng.beat + beatsOf s 2000000000) ∧
      t.flash.staged = s.flash.staged ∧ t.mbx.held = [] ∧ t.mbx.flights = [] ∧ t.fns = s.fns ∧ t.st = s.st) ∧
  (∀ (s : State) (c : Cmd) (img : Image) (slot : Nat), MayStart s c → cArg c 32 1 = 1 → s.flash.envStaged = some (img, slot) →
    s.env.running = false → s.env.booting = false → (∀ f ∈ s.fns, ∀ j, f.job = some j → j.compiling = none) →
    exec (.devFwActivate c) s = .next (answer { s with flash := { s.flash with envImage := some img, envSlot := slot, envStaged := none } }
      c (replyOk (natLE 4 img.version)))) ∧
  ∀ (s : State) (img : Image) (slot e : Nat), s.flash.activation = some e → s.flash.staged = some (img, slot) →
    ∃ t, exec (.activationWindowEnd true) s = .next t ∧ t.flash.activation = none ∧ t.flash.staged = none ∧ t.flash.runB = false ∧
      t.flash.slotA = some img ∧ (slot = 1 → t.flash.slotB = s.flash.slotA) ∧ t.flash.counter = s.flash.counter ∧
      t.pow.state = 4)

/-- O11. R423, R440: FN.PARTITION stores the mode while every compute function is idle or disabled; the ring pairs of functions that the
mode lacks become unconfigured; memory, cores and ports are as before. -/
def Obligations.PartitionSetsMode : Prop :=
  ∀ (s : State) (c : Cmd), MayStart s c → s.mbx.rings.length = 9 → cArg c 32 1 ≤ 2 → (∀ f, f < 4 → fnState s f ≤ 1) →
    s.env.running = false → s.env.booting = false → (∀ f, f < 4 → (fnAt s f).near = []) →
    ∃ t u, exec (.fnPartition c) s = .next t ∧ t = answer u c (replyOk (natLE 1 (cArg c 32 1))) ∧
      Frame [.mbx, .flash, .pow] s u ∧ u.flash = { s.flash with partMode := cArg c 32 1 } ∧ (∀ d ∈ u.pow.domains, d ∈ s.pow.domains) ∧
      (∀ n, n ≤ fnCount (cArg c 32 1) → ringAt u n = ringAt s n) ∧
      (∀ n, fnCount (cArg c 32 1) < n → n ≤ 4 → ringAt u n = RingPair.off) ∧ (∀ n, 4 < n → ringAt u n = ringAt s n)

/-- O12. R440: FN.PARTITION sets the partition mode; no other command, reset or loss of power changes it; a module that has never been
partitioned runs in whole mode. -/
def Obligations.PartitionModeKept : Prop :=
  (∀ (i : Instr) (s t : State), (∀ c, i ≠ .fnPartition c) → exec i s = .next t → t.flash.partMode = s.flash.partMode) ∧
  (∀ (s : State) (c : Cmd), MayStart s c → cArg c 32 1 ≤ 2 → (∀ f, f < 4 → fnState s f ≤ 1) →
    s.env.running = false → s.env.booting = false → (∀ f, f < 4 → (fnAt s f).near = []) →
    ∃ t, exec (.fnPartition c) s = .next t ∧ t.flash.partMode = cArg c 32 1) ∧
  State.reset.flash.partMode = 0

/-- O13. R387, R412, R423: FN.ENABLE gives the ring pair of its function its bases, 8 to 256 slots, a power of two, and counters at 0; the pair
starts once the command's completion is written (at once where another device forwards the command); a disable unconfigures it once none
of its commands is in flight; FN.ENABLE of F0 is refused. -/
def Obligations.EnableConfiguresRing : Prop :=
  ∀ (s : State) (c : Cmd), MayStart s c → s.mbx.rings.length = 9 → cFunction c ≤ 8 →
    (cFunction c = 0 → exec (.fnEnable c) s = .next (answer s c (replyRefused s c 2 8))) ∧
    (cFunction c ≠ 0 → cArg c 50 1 = 1 →
      ∃ u slots, exec (.fnEnable c) s = .next (answer u c (replyOk (natLE 2 slots ++ [1]))) ∧ Frame [.mbx] s u ∧
        slots ∈ ([8, 16, 32, 64, 128, 256] : List Nat) ∧ (cArg c 48 2 ≤ slots ∨ slots = 256) ∧
        (∀ g, flightOf s c.req = some g →
          (g.bridge = none → (ringAt u (cFunction c)).configured = false ∧ (ringAt u (cFunction c)).enabling = some c.req) ∧
          (g.bridge ≠ none → (ringAt u (cFunction c)).configured = true ∧ (ringAt u (cFunction c)).enabling = none)) ∧
        (ringAt u (cFunction c)).cmdBase = cArg c 32 8 ∧
        (ringAt u (cFunction c)).cplBase = cArg c 40 8 ∧ (ringAt u (cFunction c)).slots = slots ∧
        (ringAt u (cFunction c)).cmdHead = 0 ∧ (ringAt u (cFunction c)).cmdTail = 0 ∧
        (ringAt u (cFunction c)).cplHead = 0 ∧ (ringAt u (cFunction c)).cplTail = 0 ∧
        (∀ k, k ≠ cFunction c → ringAt u k = ringAt s k)) ∧
    (cFunction c ≠ 0 → cArg c 50 1 = 0 → (∀ f ∈ s.mbx.flights, f.bridge ≠ none ∨ f.cmd.ring ≠ cFunction c) →
      ∃ u, exec (.fnEnable c) s = .next (answer u c (replyOk [0, 0, 0])) ∧ Frame [.mbx] s u ∧
        (ringAt u (cFunction c)).configured = false ∧ (∀ k, k ≠ cFunction c → ringAt u k = ringAt s k))

/-- O14. R423, R475, R476, R480: FN.ASSIGN names the tenant and the mode of an idle compute function and draws a fresh level-2 key
generation; a confidential assignment is refused while the test port is unlocked, and a new tenant without a molt is refused with
reason 0x0A. -/
def Obligations.AssignNamesTenant : Prop :=
  ∀ (s : State) (c : Cmd) (f : Nat), MayStart s c → s.fns.length = 4 → f < 4 → cFunction c = f + 1 → (c.ring = 6 → cCat c ≠ 6) →
    cArg c 48 1 ≤ 1 → fnState s f = 1 →
    ((cArg c 48 1 = 1 → s.flash.unlocked = false) → (cArg c 48 1 = 0 → (fnAt s f).confidential = false) →
      ((fnAt s f).molted = true ∨ (fnAt s f).lastTenant = slice c.desc 32 16) →
      ∃ u, exec (.fnAssign c) s = .next (answer u c (replyOk (natLE 1 (cArg c 48 1) ++ zeros 7 ++ (slice c.desc 32 16).take 8))) ∧
        Frame [.fns, .sec, .fab, .sent, .free] s u ∧ (fnAt u f).tenant = slice c.desc 32 16 ∧
        (fnAt u f).lastTenant = slice c.desc 32 16 ∧ (fnAt u f).molted = false ∧
        ((fnAt u f).confidential = true ↔ cArg c 48 1 = 1) ∧ (fnAt u f).l2Key = some (drawnKey s.sec.nextKey) ∧
        u.sec.nextKey = s.sec.nextKey + 1 ∧ (fnAt u f).near = (fnAt s f).near ∧ (fnAt u f).far = (fnAt s f).far ∧
        (∀ k, k ≠ f → fnAt u k = fnAt s k)) ∧
    (cArg c 48 1 = 1 → s.flash.unlocked = true → exec (.fnAssign c) s = .next (answer s c (replyRefused s c 2 48))) ∧
    (cArg c 48 1 = 1 → s.flash.unlocked = false → (fnAt s f).molted = false → (fnAt s f).lastTenant ≠ slice c.desc 32 16 →
      exec (.fnAssign c) s = .next (answer s c (replyRefused s c 0x0A 32)))

/-- O15. R443, R447, Tables 14.3 and 14.5: FN.RESET is accepted at once and puts the function in the reset state with the bound of its
table; FN_RESET_COMPLETE zeroes a compute function's near memory and SRAM, frees its ranges, unconfigures its ring pair, leaves it
without a job, and answers the command. -/
def Obligations.FunctionReset : Prop :=
  (∀ (s : State) (c : Cmd) (f : Nat), MayStart s c → s.fns.length = 4 → f < 4 → cFunction c = f + 1 → (c.ring = 6 → cCat c ≠ 6) →
    cArg c 32 1 ≤ 1 → fnState s f ≠ 0 →
    ∃ t, exec (.fnReset c) s = .next t ∧ t.flash = s.flash ∧ fnState t f = 6 ∧
      (fnAt t f).reset = some ⟨s.eng.beat + beatsOf s (40000000 + if cArg c 32 1 = 1 then 2500000000 else 0), some c.req, decide (cArg c 32 1 = 1)⟩ ∧
      (∀ j, jobAt t f = some j → j.running = [] ∧ j.anchor = none)) ∧
  (∀ (s : State) (c : Cmd) (n : Nat), MayStart s c → cFunction c = n → 5 ≤ n → n ≤ 8 → cArg c 32 1 ≤ 1 →
    ∃ t, exec (.fnReset c) s = .next t ∧
      t.env.resets = s.env.resets ++ [(n, ⟨s.eng.beat + beatsOf s (if n = 5 then 5000000 else if n = 6 then 20000000 else if n = 7 then 5000000 else 100000000), some c.req, false⟩)]) ∧
  (∀ (s : State) (f e : Nat) (q : Option Nat), s.fns.length = 4 → s.mbx.rings.length = 9 → fnExists s f = true → f < 4 →
    (fnAt s f).reset = some ⟨e, q, false⟩ →
    ∃ u, exec (.fnResetComplete f) s = .next (answerOpt u q (replyOk (natLE 8 s.eng.beat))) ∧
      Frame [.mbx, .stores, .mem, .fns, .pow, .sec] s u ∧
      (fnAt u f).job = none ∧ (fnAt u f).reset = none ∧ (fnAt u f).near = [] ∧ (fnAt u f).far = [] ∧ (fnAt u f).hashKey = none ∧
      (fnAt u f).tenant = (fnAt s f).tenant ∧ (∀ k, k ≠ f → fnAt u k = fnAt s k) ∧ ringAt u (f + 1) = RingPair.off ∧
      (∀ a, ownsAddr s f a = true → regionOf a ≠ .far → memGet u.st.mem a = 0) ∧
      (∀ a, ownsAddr s f a = false ∨ regionOf a = .far → memGet u.st.mem a = memGet s.st.mem a)) ∧
  ∀ (s : State) (n e : Nat) (q : Option Nat) (m : Bool), 5 ≤ n → n ≤ 8 → s.mbx.rings.length = 9 →
    s.env.resets.find? (fun x => decide (x.1 = n)) = some (n, ⟨e, q, m⟩) →
    ∃ u, exec (.fnResetComplete (n - 1)) s = .next (answerOpt u q (replyOk (natLE 8 s.eng.beat))) ∧
      Frame [.mbx, .env, .sec] s u ∧ ringAt u n = RingPair.off ∧ ∀ x ∈ u.env.resets, x.1 ≠ n

/-- O16. R484 to R486, R423, R424: FN.MOLT of an idle function is accepted, raises MOLT_BEGIN and holds the function in the molt state for
at most 2.5 s; a molt that ends with every part done leaves it idle, molted, without tenant, memory or keys, and its near memory zero;
a failed part leaves it off. -/
def Obligations.MoltClears : Prop :=
  (∀ (s : State) (c : Cmd) (f : Nat), MayStart s c → s.fns.length = 4 → f < 4 → cFunction c = f + 1 → (c.ring = 6 → cCat c ≠ 6) →
    fnState s f = 1 →
    ∃ t, exec (.fnMolt c) s = .next t ∧ fnState t f = 5 ∧ t.st = s.st ∧ t.flash = s.flash ∧
      (fnAt t f).molt = some ⟨s.eng.beat, s.eng.beat + beatsOf s 2500000000, some c.req, 0⟩ ∧
      (∀ k, k ≠ f → fnAt t k = fnAt s k)) ∧
  ∀ (s : State) (f : Nat) (m : MoltInfo), s.fns.length = 4 → f < 4 → (fnAt s f).molt = some m → s.pow.resetWaits = false →
    (∃ t, exec (.moltEnd f none) s = .next t ∧ t.flash = s.flash ∧
      (fnAt t f).molt = none ∧ (fnAt t f).molted = true ∧ (fnAt t f).failed = false ∧ (fnAt t f).confidential = false ∧
      (fnAt t f).tenant = [] ∧ (fnAt t f).job = none ∧ (fnAt t f).near = [] ∧ (fnAt t f).far = [] ∧ (fnAt t f).hashKey = none ∧
      (fnAt t f).l2Key = none ∧ (fnAt t f).drives = [] ∧
      (∀ a, ownsAddr s f a = true → memGet t.st.mem a = 0)) ∧
    ∀ p, ∃ t, exec (.moltEnd f (some p)) s = .next t ∧ (fnAt t f).molt = none ∧ (fnAt t f).failed = true ∧ fnState t f = 0

/-- O17. R175, R176, R181, R425, Table 13.7: MEM.ALLOC gives the lowest free stripes of the near memory that the function owns and answers
their address and size; without room it is REFUSED with reason 6; no stored byte changes. Table 13.7, R425, R175: MEM.FREE gives back the
allocation that starts at the address, and answers its size; an address of the function's memory where none starts is ABSENT. R173, R174,
R176: a reserved address is ABSENT, SRAM and another function's memory are REFUSED with reason 0x0C. -/
def Obligations.Allocations : Prop :=
  (∀ (s : State) (c : Cmd) (f n a : Nat), MayStart s c → s.fns.length = 4 → f < 4 → cIx c = f → fnExists s f = true → fnState s f ∈ [1, 2, 3, 4] →
    cArg c 32 1 = 0 → (cArg c 34 1).testBit 0 = false → n = stripes (cArg c 40 8) →
    (cArg c 33 1 = 0xFF ∨ cArg c 33 1 ∈ fnDies s.flash.partMode f) →
    n % 8192 = 0 ∧ 8192 ≤ n ∧
    (placeNear s f (cArg c 33 1) n = none → exec (.memAlloc c) s = .next (answer s c (replyRefused s c 6 40))) ∧
    (placeNear s f (cArg c 33 1) n = some a →
      (∀ l ∈ (fnAt s f).near, a + n ≤ l.addr ∨ l.addr + l.size ≤ a) ∧
      (∃ d, d ∈ fnDies s.flash.partMode f ∧ nearBase + d * nearDie ≤ a ∧ a + n ≤ nearBase + (d + 1) * nearDie) ∧
      ∃ u, exec (.memAlloc c) s = .next (answer u c (replyOk (natLE 8 a ++ natLE 8 n))) ∧ Frame [.fns] s u ∧
        (∀ k, k ≠ f → fnAt u k = fnAt s k) ∧ (fnAt u f).far = (fnAt s f).far ∧ (fnAt u f).job = (fnAt s f).job ∧
        (∀ l, l ∈ (fnAt u f).near ↔ l ∈ (fnAt s f).near ∨ l = ⟨a, n, false⟩))) ∧
  (∀ (s : State) (c : Cmd) (f : Nat) (l : Alloc), MayStart s c → s.fns.length = 4 → f < 4 → cIx c = f → fnState s f ∈ [1, 2, 3] →
    (regionOf (cArg c 40 8) = .reserved → exec (.memFree c) s = .next (answer s c (replyAbsent (cArg c 40 8) ⟨255, 255, 255, 255⟩ 255))) ∧
    (regionOf (cArg c 40 8) ≠ .reserved → regionOf (cArg c 40 8) ∉ [.near, .far] ∨ ownsAddr s f (cArg c 40 8) = false →
      exec (.memFree c) s = .next (answer s c (replyRefused s c 0x0C 40))) ∧
    (regionOf (cArg c 40 8) ∈ [.near, .far] → ownsAddr s f (cArg c 40 8) = true →
      ((fnAt s f).near ++ (fnAt s f).far).find? (fun l => decide (l.addr = cArg c 40 8)) = none →
      exec (.memFree c) s = .next (answer s c (replyAbsent (cArg c 40 8) ⟨255, 255, 255, 255⟩ 255))) ∧
    (regionOf (cArg c 40 8) ∈ [.near, .far] → ownsAddr s f (cArg c 40 8) = true →
      ((fnAt s f).near ++ (fnAt s f).far).find? (fun l => decide (l.addr = cArg c 40 8)) = some l →
      (l.param = false ∨ jobAt s f = none) → s.env.running = false → s.env.booting = false →
      ∃ u, exec (.memFree c) s = .next (answer u c (replyOk (natLE 8 l.size))) ∧ Frame [.fns] s u ∧
        (∀ k, k ≠ f → fnAt u k = fnAt s k) ∧ (fnAt u f).job = (fnAt s f).job ∧
        ∀ x, x ∈ (fnAt u f).near ++ (fnAt u f).far ↔ x ∈ (fnAt s f).near ++ (fnAt s f).far ∧ x.addr ≠ cArg c 40 8))

/-- O18. R173, R174, R176, R198, R247, R425: MEM.WRITE stores its payload at the address, zeroes the low halves of the master weights whose
high half it touches, and leaves every other byte as before; a write that covers an uncorrectable word in part is FAILED. R198, R414,
R425: MEM.READ returns the bytes of its range and changes nothing else; a word with an uncorrectable error is FAILED and counted. A reserved
address is ABSENT; SRAM, another function's memory and a range outside the function's allocations are REFUSED with reason 0x0C. R408:
MEM.WINDOW clamps the staging window to 1 to 8 MiB and rounds it up to a power of two. -/
def Obligations.HostAccess : Prop :=
  (∀ (s : State) (c : Cmd) (f a : Nat) (b : Bytes), MayStart s c → cIx c = f → fnState s f ∈ [1, 2, 3, 4] →
    a = cArg c 40 8 → b = fit (cPayLen c) c.payload →
    (regionOf a = .reserved → exec (.memWrite c) s = .next (answer s c (replyAbsent a ⟨255, 255, 255, 255⟩ 255))) ∧
    (regionOf a ≠ .reserved → regionOf a ∉ [.near, .far] ∨ ownsAddr s f a = false ∨ inOneAlloc s f a b.length = false →
      exec (.memWrite c) s = .next (answer s c (replyRefused s c 0x0C 40))) ∧
    (regionOf a ∈ [.near, .far] → ownsAddr s f a = true → inOneAlloc s f a b.length = true →
      (∀ w, badPartial s a b.length = some w → exec (.memWrite c) s = .next (answer s c (replyFailed 0 (natLE 8 w)))) ∧
      (badPartial s a b.length = none → s.memSafe →
        ∃ u, exec (.memWrite c) s = .next (answer u c (replyOk (natLE 8 b.length))) ∧ Frame [.stores, .mem] s u ∧
          (∀ i, i < b.length → memGet u.st.mem (a + i) = b.getD i 0) ∧
          (∀ x, x < a ∨ a + b.length ≤ x → lowTouched s f a b.length x → memGet u.st.mem x = 0) ∧
          ∀ x, x < a ∨ a + b.length ≤ x → ¬lowTouched s f a b.length x → memGet u.st.mem x = memGet s.st.mem x))) ∧
  (∀ (s : State) (c : Cmd) (f a n : Nat), MayStart s c → cIx c = f → fnState s f ∈ [1, 2, 3, 4] → a = cArg c 40 8 →
    n = max 1 (min (cArg c 32 8) (2 ^ 63)) →
    (regionOf a = .reserved → exec (.memRead c) s = .next (answer s c (replyAbsent a ⟨255, 255, 255, 255⟩ 255))) ∧
    (regionOf a ≠ .reserved → regionOf a ∉ [.near, .far] ∨ ownsAddr s f a = false ∨ inOneAlloc s f a n = false →
      exec (.memRead c) s = .next (answer s c (replyRefused s c 0x0C 40))) ∧
    (regionOf a ∈ [.near, .far] → ownsAddr s f a = true → inOneAlloc s f a n = true →
      (badIn s a n = none → ∃ r, exec (.memRead c) s = .next (answer s c (replyRes (natLE 8 (deliveredLen c n)) r)) ∧ r.length = n ∧
        ∀ i, i < n → r.getD i 0 = memGet s.st.mem (a + i)) ∧
      (∀ w, badIn s a n = some w → exec (.memRead c) s = .next (answer (countError s 0) c (replyFailed 0 (natLE 8 w)))))) ∧
  (∀ (s : State) (c : Cmd), MayStart s c → s.mbx.chunks = [] →
    ∃ w, exec (.memWindow c) s = .next (answer { s with mbx := { s.mbx with window := w } } c (replyOk (natLE 8 w))) ∧
      w ∈ ([2 ^ 20, 2 ^ 21, 2 ^ 22, 2 ^ 23] : List Nat) ∧ (cArg c 32 8 ≤ w ∨ w = 2 ^ 23) ∧ (w < 2 * cArg c 32 8 ∨ w = 2 ^ 20)) ∧
  ∀ (s : State) (c : Cmd), MayStart s c → s.mbx.chunks ≠ [] → exec (.memWindow c) s = .next s

/-- O19. R32, R53: a beat boundary counts one beat, opens the sync phase, and advances system time by the period at the level in force (the
data phase is the period less 1,250 ns; level 1 lengthens it by an eighth, level 2 by a quarter). It stores nothing in memory, changes
neither flash nor the environment, and leaves a function without a job as it is: no job, its near allocations, its tenant. -/
def Obligations.BeatBoundaryCounts : Prop :=
  ∀ s : State, s.fns.length = 4 → ∃ t, exec .beatBoundary s = .next t ∧
    t.eng.beat = s.eng.beat + 1 ∧ t.eng.phase = .sync ∧ t.eng.period = s.eng.period ∧ t.eng.level = s.eng.level ∧
    (s.eng.level = 0 → t.eng.timeQ = s.eng.timeQ + 4 * s.eng.period) ∧
    (s.eng.level = 1 → t.eng.timeQ = s.eng.timeQ + 4 * s.eng.period + (s.eng.period - 1250) / 2) ∧
    (s.eng.level = 2 → t.eng.timeQ = s.eng.timeQ + 4 * s.eng.period + (s.eng.period - 1250)) ∧
    t.flash = s.flash ∧ t.env = s.env ∧ (∀ a, memGet t.st.mem a = memGet s.st.mem a) ∧
    ∀ f, f < 4 → jobAt s f = none → jobAt t f = none ∧ (fnAt t f).near = (fnAt s f).near ∧ (fnAt t f).tenant = (fnAt s f).tenant

/-- O20. R37: the message phase opens; without a job, with CP0 up and nothing due to be sent again, a queue for one port that fits in the
phase leaves whole, in ascending priority number, equal priorities in the order of their arrival. -/
def Obligations.MessagePhaseOrders : Prop :=
  ∀ (s : State) (p : Nat) (ms : List Msg), (∀ f, f < 4 → jobAt s f = none) → s.mbx.flights = [] → cpDown s 0 = false →
    (∀ q, q < 9 → (portAt s q).resendDue = none) → s.eng.queue = ms.map (fun m => (m, [p])) →
    (ms.map fun m => (msgBytes m).length).foldl (· + ·) 0 ≤ 300000 →
    ∃ t, exec .messagePhaseStart s = .next t ∧ t.eng.phase = .message ∧ t.eng.queue = [] ∧ t.eng.beat = s.eng.beat ∧
      ∃ out : List Msg, t.fab.sent = s.fab.sent ++ out.map (Sent.msg p) ∧ out.Pairwise (fun a b => a.code ≤ b.code) ∧
        ∀ k, out.filter (fun m => m.code = k) = ms.filter (fun m => m.code = k)

/-- O21. R30, R31: TIME.BEAT_SET clamps the period to 2,000 to 32,000 ns and rounds it to the nearest 500 with ties to the larger. With a
job loaded it is REFUSED. The master announces the period on every intact port, keeps it for the beat that lies A beats ahead, and answers
with both; any other device asks upstream, and its command waits; an announcement is kept once and goes on (the STRETCH message that
carries these is the model's, log 30). R55: A is the least number of beats, at least 8, that lasts τ_abort and 56 µs, with the values
that R55 gives. PERIOD_EFFECTIVE brings the kept period and the latency classes with it into force at its beat and not before, and
leaves the stretch level. -/
def Obligations.BeatSetSchedules : Prop :=
  (∀ (s : State) (c : Cmd), MayStart s c → (∀ x ∈ s.fns, x.job = none) →
    ∃ p, 2000 ≤ p ∧ p ≤ 32000 ∧ p % 500 = 0 ∧
      (2000 ≤ cArg c 32 4 → cArg c 32 4 ≤ 32000 → p ≤ cArg c 32 4 + 250 ∧ cArg c 32 4 < p + 250) ∧
      (cArg c 32 4 < 2000 → p = 2000) ∧ (32000 < cArg c 32 4 → p = 32000) ∧
      (s.eng.master = some s.flash.serial → s.eng.periodAsks = [] →
        ∃ u v, exec (.timeBeatSet c) s = .next (answer u c (replyOk (natLE 4 p ++ zeros 4 ++ natLE 8 (s.eng.beat + announceDist s)))) ∧
          v = emitMsg s (intactPorts s) ⟨2, 0, s.eng.beat, selfPhys s, [0, 4] ++ natLE 4 p ++ zeros 2 ++ natLE 8 (s.eng.beat + announceDist s)⟩ ∧
          u = { v with eng := { v.eng with periodPending := some (p, s.eng.beat + announceDist s) } }) ∧
      (s.eng.master ≠ some s.flash.serial →
        ∃ u, exec (.timeBeatSet c) s = .next (emitMsg u s.eng.upstream.toList ⟨2, 0, s.eng.beat, selfPhys s, [0, 3] ++ natLE 4 p ++ zeros 10⟩) ∧
          Frame [.mbx, .eng] s u ∧ u.eng = { s.eng with periodAsks := s.eng.periodAsks ++ [⟨p, some c.req, none⟩] } ∧
          u.mbx.held = s.mbx.held ∧ ∃ g, flightOf u c.req = some g ∧ g.phase = .interim)) ∧
  (∀ (s : State) (c : Cmd), MayStart s c → (∃ x ∈ s.fns, x.job ≠ none) →
    exec (.timeBeatSet c) s = .next (answer s c (replyRefused s c 2 0xFFFF))) ∧
  (∀ (s : State) (p v b : Nat) (m : Msg), rd m.body 1 1 = 4 → rd m.body 2 4 = v → rd m.body 8 8 = b → legalPeriod v →
    (s.eng.periodPending = some (v, b) ∨ b ≤ s.eng.beat → exec (.stretch p m) s = .next s) ∧
    (s.eng.periodPending ≠ some (v, b) → s.eng.beat < b → ∃ t, exec (.stretch p m) s = .next t ∧ Frame [.mbx, .eng, .queue, .sent] s t ∧
      t.eng.periodPending = some (v, b) ∧ t.eng.period = s.eng.period ∧ t.eng.periodAsks = [])) ∧
  (∀ s : State, 0 < s.eng.period → 8 ≤ announceDist s ∧ s.eng.tauAbort + 56000 ≤ announceDist s * s.eng.period ∧
    (announceDist s = 8 ∨ (announceDist s - 1) * s.eng.period < s.eng.tauAbort + 56000) ∧
    (s.eng.tauAbort = 200000 → (s.eng.period = 8000 → announceDist s = 32) ∧ (s.eng.period = 2000 → announceDist s = 128) ∧
      (s.eng.period = 32000 → announceDist s = 8)) ∧
    (s.eng.tauAbort = 370900 → s.eng.period = 8000 → announceDist s = 54)) ∧
  (∀ (s : State) (p b : Nat), s.eng.periodPending = some (p, b) → b ≤ s.eng.beat →
    ∃ t, exec .periodEffective s = .next t ∧ Frame [.eng, .fab] s t ∧
      t.eng = { s.eng with period := p, periodPending := none } ∧
      (∀ q, q < 8 → q < s.fab.ports.length → (portAt t q).lambda = latencyClass q (portAt s q).latencyPs p)) ∧
  ∀ s : State, (∀ p b, s.eng.periodPending = some (p, b) → s.eng.beat < b) → exec .periodEffective s = .next s

/-- O22. R55 to R58: the host floor is clamped to 2 and kept; the master announces a change at beat n for beat n + A; a level takes effect
at its beat and not before, and brings the clock up to its floor (R54), unless the 1,400 W limit holds the clock below it, when the fault of
R59 follows; after 4,096 idle beats the master announces one level lower. -/
def Obligations.StretchFollowsAnnouncement : Prop :=
  (∀ (s : State) (c : Cmd), MayStart s c → s.eng.master = some s.flash.serial → s.eng.levelPending = [] →
    s.eng.requested ≤ 2 →
    ∃ u, exec (.timeBeatStretch c) s = .next (answer u c (replyOk (natLE 1 s.eng.level ++ zeros 7 ++
        natLE 8 (if max (min 2 (cArg c 32 1)) s.eng.requested = s.eng.level then 0 else s.eng.beat + announceDist s)))) ∧
      Frame [.eng, .queue, .sent] s u ∧ u.eng.hostFloor = min 2 (cArg c 32 1) ∧ u.eng.level = s.eng.level ∧ u.eng.beat = s.eng.beat ∧
      u.eng.levelPending = (if max (min 2 (cArg c 32 1)) s.eng.requested = s.eng.level then []
        else [(max (min 2 (cArg c 32 1)) s.eng.requested, s.eng.beat + announceDist s)])) ∧
  (∀ (s : State) (l b : Nat) (r : List (Nat × Nat)), s.eng.levelPending = (l, b) :: r →
    (∀ v : State, v = { s with eng := { s.eng with level := l, levelPending := r, idleBeats := 0 } } → b ≤ s.eng.beat →
      (clockFloor v ≤ s.pow.clock → exec .stretchEffective s = .next v) ∧
      (s.pow.clock < clockFloor v → s.pow.reading.meanW < 1400 →
        exec .stretchEffective s = .next { v with pow := { v.pow with clock := clockFloor v } }) ∧
      (s.pow.clock < clockFloor v → 1400 ≤ s.pow.reading.meanW → molting s = false →
        ∃ t, exec .stretchEffective s = .next t ∧ t.eng.level = l ∧ t.eng.levelPending = r ∧ t.pow.clock = s.pow.clock ∧
          t.face.alerts.getLsbD 4 = true)) ∧
    (s.eng.beat < b → exec .stretchEffective s = .next s)) ∧
  (∀ s : State, s.eng.master = some s.flash.serial → s.eng.levelPending = [] → 0 < s.eng.level →
    (4096 ≤ s.eng.idleBeats → s.eng.hostFloor < s.eng.level →
      ∃ t, exec .stretchLowering s = .next t ∧ Frame [.eng, .queue, .sent] s t ∧ t.eng.level = s.eng.level ∧
        t.eng.levelPending = [(s.eng.level - 1, s.eng.beat + announceDist s)]) ∧
    (s.eng.idleBeats < 4096 → exec .stretchLowering s = .next s))

/-- O23. R56: at the master, a request for a level that is in force or announced makes no new announcement; a higher one is announced for
the beat that lies A beats ahead, and replaces what was announced for that beat, so that requests of one beat merge to the highest. -/
def Obligations.StretchRequestsMerge : Prop :=
  ∀ (s : State) (p : Nat) (m : Msg), rd m.body 1 1 = 0 → s.eng.master = some s.flash.serial →
    (min 2 (rd m.body 0 1) ≤ coveredLevel s → ∃ t, exec (.stretch p m) s = .next t ∧ Frame [.eng] s t ∧
      t.eng.levelPending = s.eng.levelPending ∧ t.eng.level = s.eng.level) ∧
    (coveredLevel s < min 2 (rd m.body 0 1) → ∃ t, exec (.stretch p m) s = .next t ∧ Frame [.eng, .queue, .sent] s t ∧
      t.eng.levelPending = s.eng.levelPending.filter (fun x => x.2 ≠ s.eng.beat + announceDist s) ++
        [(min 2 (rd m.body 0 1), s.eng.beat + announceDist s)] ∧
      t.eng.level = s.eng.level ∧ coveredLevel t = min 2 (rd m.body 0 1))

/-- O24. R36, R436, R460: TIME.SYNC stores mode and priority and forgets the signal of another mode, and a master then counts as unlocked; only a device with a signal to which
its logic has locked counts as locked; the master keeps the beat and offset of each 1PPS edge; the 1PPS output pulses only while no
reference mode is selected. -/
def Obligations.ReferenceInputs : Prop :=
  (∀ (s : State) (c : Cmd), MayStart s c → cArg c 32 1 ≤ 2 →
    ∃ u eff, exec (.timeSync c) s = .next (answer u c (replyOk eff)) ∧ Frame [.eng] s u ∧ u.eng.refMode = cArg c 32 1 ∧
      slice eff 0 8 = natLE 8 s.eng.ppsBeat ∧ slice eff 8 4 = natLE 4 s.eng.ppsOffset ∧
      u.eng.priority = (if (cArg c 34 1).testBit 0 then cArg c 33 1 else s.eng.priority) ∧
      (cArg c 32 1 ≠ s.eng.refMode → u.eng.refSignal = false ∧ u.eng.refLocked = false ∧
        (s.eng.master = some s.flash.serial → u.eng.masterLocked = false)) ∧
      u.eng.beat = s.eng.beat ∧ u.eng.period = s.eng.period ∧ u.eng.level = s.eng.level) ∧
  (∀ (s : State) (o : Nat), s.eng.refMode = 2 → s.eng.master = some s.flash.serial →
    exec (.referenceEdge o) s = .next { s with eng := { s.eng with refSignal := true, ppsBeat := s.eng.beat, ppsOffset := o } }) ∧
  (∀ s : State, s.eng.refMode ≠ 0 → ∃ t, exec .referenceLocked s = .next t ∧ Frame [.eng] s t ∧
    t.eng.refSignal = true ∧ t.eng.refLocked = true ∧ (ownCandidate t).locked = true ∧ t.eng.beat = s.eng.beat) ∧
  (∀ s : State, ∃ t, exec .referenceSignalLost s = .next t ∧ Frame [.eng] s t ∧ t.eng.refSignal = false ∧
    (ownCandidate t).locked = false ∧ t.eng.beat = s.eng.beat ∧ t.eng.refMode = s.eng.refMode) ∧
  ∀ s : State, (s.eng.refMode = 0 → exec .ppsOutput s = .next { s with eng := { s.eng with ppsOut := s.eng.ppsOut + 1 } }) ∧
    (s.eng.refMode ≠ 0 → exec .ppsOutput s = .next s)

/-- O25. R32 to R35, R332: a SYNC flit of the upstream port brings master, depth and offset ((t2 - t1) - (t4 - t3)) / 2; one within 100 ns
gains lock, one beyond counts towards three. A device that has held lock for 1,024 beats keeps its period; one that has joined, without
a job, takes the period of the flit (the model's reading of R31, log 30). -/
def Obligations.SyncFlitDisciplines : Prop :=
  ∀ (s : State) (p t4 : Nat) (b : Bytes), s.fab.ports.length = 9 → p < 8 → (portAt s p).pstate = 2 → s.eng.upstream = some p →
    rd b 24 8 ≠ 0 → rd b 40 1 < 80 →
    rd b 8 8 < 2 ^ 62 → rd b 16 8 < 2 ^ 62 → rd b 24 8 < 2 ^ 62 → t4 < 2 ^ 62 →
    ∃ t o, exec (.syncFlit p b t4) s = .next t ∧ Frame [.eng, .fab] s t ∧
      o = ((rd b 16 8 : Int) - rd b 24 8) - ((t4 : Int) - rd b 8 8) ∧
      t.eng.offset = o ∧ t.eng.master = some (rd b 32 8) ∧ t.eng.depth = rd b 40 1 + 1 ∧ t.eng.missing = 0 ∧ t.eng.syncSeen = true ∧
      t.eng.beat = s.eng.beat ∧ (portAt t p).tRxLast = t4 ∧ (portAt t p).tTxLast = rd b 8 8 ∧
      (∀ q, q ≠ p → portAt t q = { portAt s q with lambda := (portAt t q).lambda }) ∧
      (1024 ≤ s.eng.lockBeats → s.eng.inLock = true → t.eng.period = s.eng.period ∧ ∀ q, q ≠ p → portAt t q = portAt s q) ∧
      (s.eng.lockBeats < 1024 → s.eng.periodPending = none → (∀ x ∈ s.fns, x.job = none) → t.eng.period = periodInForce (rd b 44 4)) ∧
      (o.natAbs ≤ 51200 → t.eng.inLock = true ∧ t.eng.badSyncs = 0) ∧
      (51200 < o.natAbs → t.eng.inLock = s.eng.inLock ∧ t.eng.badSyncs = min 3 (s.eng.badSyncs + 1))

/-- O26. R34, R35, R358, Table 2.2: an upstream partner silent for four beats is replaced, or the device holds over; the election ranks
locked references, then priority, then the lower serial; lock lost suspends the device; the suspension ends after 1,024 beats back in
lock; without lock for 4,096 beats the device leaves its jobs. R383, R328: a module that has returned and held lock for 1,024 beats
counts as a member of its job again. -/
def Obligations.LockElectionReturn : Prop :=
  ((∀ (s : State) (u : Nat) (r : Option Nat) (d : Nat), s.eng.upstream = some u → 4 ≤ s.eng.missing → d ≤ 80 →
    (exec (.upstreamLoss true r d) s =
      .next { s with eng := { s.eng with missing := 0, syncSeen := false, upstream := r, depth := d } }) ∧
    (exec (.upstreamLoss false r d) s =
      .next { s with eng := { s.eng with missing := 0, syncSeen := false, upstream := none, holdover := true } })) ∧
  (∀ (s : State) (others : List Candidate), ∃ t w, exec (.masterElectionComplete others) s = .next t ∧
    t.eng.master = some w.serial ∧ t.eng.holdover = false ∧ t.eng.masterLocked = w.locked ∧ t.eng.beat = s.eng.beat ∧
    (w = ownCandidate s ∨ w ∈ others) ∧
    (∀ k, (k = ownCandidate s ∨ k ∈ others) →
      (w.locked = true ∨ k.locked = false) ∧ (w.locked = k.locked → w.priority ≤ k.priority) ∧
      (w.locked = k.locked → w.priority = k.priority → w.serial ≤ k.serial)) ∧
    t.flash = s.flash ∧ t.st = s.st ∧ t.fns = s.fns) ∧
  (∀ s : State, s.eng.inLock = true → s.eng.badSyncs = 3 →
    ∃ t, exec .lockLost s = .next t ∧ t.eng.inLock = false ∧ t.eng.suspended = true ∧ t.eng.lockAbort = some s.eng.beat ∧
      t.flash = s.flash ∧ t.st.mem = s.st.mem) ∧
  (∀ s : State, s.eng.suspended = true → s.eng.inLock = true → 1024 ≤ s.eng.lockBeats →
    ∃ t, exec .suspensionEnd s = .next t ∧ t.eng.suspended = false ∧ t.eng.lockAbort = none ∧ t.flash = s.flash ∧ t.st = s.st) ∧
  (∀ s : State, (s.eng.suspended = false ∨ s.eng.inLock = false ∨ s.eng.lockBeats < 1024) → exec .suspensionEnd s = .next s) ∧
  ∀ (s : State) (b : Nat), s.fns.length = 4 → s.eng.lockAbort = some b → s.eng.inLock = false → b + 4096 ≤ s.eng.beat →
    ∃ t, exec .lockWindowExpiry s = .next t ∧ t.eng.lockAbort = none ∧ t.eng.suspended = false ∧
      (∀ f i j, f < 4 → jobAt s f = some i → jobAt t f = some j → j.gone = true ∧ (i.gone = false → j.run = none))) ∧
  (∀ (s : State) (f : Nat) (j : Job), s.fns.length = 4 → f < 4 → jobAt s f = some j → s.eng.inLock = true → 1024 ≤ s.eng.lockBeats →
    s.eng.suspended = false → j.gone = true → s.fab.safe = false →
    ∃ t k, exec (.memberAfterLock f) s = .next t ∧ jobAt t f = some k ∧ s.flash.serial ∉ k.left ∧ k.ownersChange = true ∧
      Frame [.fab, .fns] s t ∧ (∀ g, g ≠ f → fnAt t g = fnAt s g) ∧ k.committed = j.committed ∧
      (j.slabs.contains (coordOn (selfPhys s) (j.axes.getD 3 3)) = true → k.gone = false))

/-- O27. R30, R31, R53, R56, R58: whatever command runs, the period in force and the one scheduled stay whole multiples of 500 ns from
2,000 to 32,000, and no stretch level in force, announced, requested or held as a floor exceeds 2. -/
def Obligations.BeatStaysLegal : Prop :=
 ∀ s t : State, s.beatSafe → step s = .next t → t.beatSafe

/-- O28. R63, R64, R306, R308, Table 2.3: a second copy of an ABORT does nothing; the first goes on over every other intact port (in the data
phase within the express bytes of the beat) and is remembered; one that names a function without a job does nothing else; one that names the step in progress of a running job (other than
a stop or a loss) abandons it: no anchor, recovery waiting for the replay vote, the next attempt, no partial results, the committed
values and the holding buffer kept (at the root of the barrier tree the vote's result may follow at once). -/
def Obligations.AbortAbandonsStep : Prop :=
  (∀ (s : State) (p : Nat) (m : Msg), (m.origin, m.beat) ∈ s.eng.abortsSeen → exec (.abort p m) s = .next s) ∧
  (∀ (s : State) (p : Nat) (m : Msg), (m.origin, m.beat) ∉ s.eng.abortsSeen → jobAt s (m.sub - 1) = none →
    ∃ t, exec (.abort p m) s = .next t ∧ Frame [.eng, .queue, .sent] s t ∧ t.eng.beat = s.eng.beat ∧
      t.eng.abortsSeen = (m.origin, m.beat) :: s.eng.abortsSeen ∧
      (s.eng.phase = .message → m.code = 1 → t.fab.sent = s.fab.sent ++ (otherPorts s p).map fun q => Sent.msg q m) ∧
      (s.eng.phase = .data → m.code = 1 → (∀ q ∈ otherPorts s p, lookupD s.eng.express q 0 + flitBytes m ≤ 4096) → t.fab.sent = s.fab.sent ++ (otherPorts s p).map fun q => Sent.express q m)) ∧
  ∀ (s : State) (p f : Nat) (m : Msg) (j : Job), s.fns.length = 4 → f < 4 → m.sub = f + 1 → jobAt s f = some j →
    (m.origin, m.beat) ∉ s.eng.abortsSeen → rd m.body 0 4 = rd j.digest8 0 4 → rd m.body 4 8 = j.committed.step →
    rd m.body 12 4 ≠ 0x0601 → rd m.body 12 4 ≠ 0x20601 → rd m.body 12 4 ≠ 0x10000 → j.anchor.isSome = true → j.run.isSome = true → j.commit = none →
    j.abandoned + 1 < j.hdr.policy.replayLimit → (s.eng.suspended = true ∨ barrierParent s j j.coord ≠ none) →
    ∃ t k, exec (.abort p m) s = .next t ∧ jobAt t f = some k ∧ k.anchor = none ∧ k.recovery = .voting ∧
      k.attempt = (j.attempt + 1) % 256 ∧ k.abandoned = j.abandoned + 1 ∧ k.committed = j.committed ∧ k.holding = j.holding ∧
      k.run = j.run ∧ k.accums = [] ∧ k.collectives = [] ∧ k.exchanges = [] ∧ k.arrivals = [] ∧ k.voted = false ∧
      (∀ a, memGet t.st.mem a = memGet s.st.mem a) ∧ (∀ g, g ≠ f → fnAt t g = fnAt s g) ∧ t.flash = s.flash ∧
      t.eng.beat = s.eng.beat

/-- O29. R56, R57, R271, R275, R304, R305, R47: a level announced for a beat to come is kept once and goes on over the other ports; a
request goes upstream from a device that is not the master; a COMMIT for the step in progress with kind 0 plans the commit at its beat,
with kind 1 or 2 it sets the replay anchor, and a COMMIT for another step leaves the job as it is; a barrier vote is recorded, and a
class-0 result from the parent ends that barrier; a PLAN digest of a version that this device has not compiled is kept until it has. R22:
while CP1 is in reset, COMMIT, BARRIER and PLAN wait, as do EVENT and FORWARD while CP0 is (which duty is which is log 151). -/
def Obligations.ControlMessagesArrive : Prop :=
  (∀ (s : State) (p : Nat) (m : Msg), rd m.body 1 1 = 1 → s.eng.beat < rd m.body 8 8 → rd m.body 0 1 ≤ 2 →
    ((rd m.body 0 1, rd m.body 8 8) ∈ s.eng.levelPending → exec (.stretch p m) s = .next s) ∧
    ((rd m.body 0 1, rd m.body 8 8) ∉ s.eng.levelPending → ∃ t, exec (.stretch p m) s = .next t ∧
      Frame [.eng, .queue, .sent] s t ∧ (rd m.body 0 1, rd m.body 8 8) ∈ t.eng.levelPending ∧
      (∀ q, q.2 ≠ rd m.body 8 8 → (q ∈ t.eng.levelPending ↔ q ∈ s.eng.levelPending)) ∧ t.eng.level = s.eng.level)) ∧
  (∀ (s : State) (p : Nat) (m : Msg), rd m.body 1 1 = 0 →
    (s.eng.master ≠ some s.flash.serial → ∃ t, exec (.stretch p m) s = .next t ∧ Frame [.queue, .sent] s t)) ∧
  (∀ (s : State) (p f : Nat) (m : Msg) (j : Job), s.fns.length = 4 → f < 4 → m.sub = f + 1 → jobAt s f = some j → cpDown s 1 = false →
    ∃ t k, exec (.commit p m) s = .next t ∧ jobAt t f = some k ∧ Frame [.fns, .queue, .sent] s t ∧
      (∀ g, g ≠ f → fnAt t g = fnAt s g) ∧ k.committed = j.committed ∧ k.anchor = j.anchor ∧
      (rd m.body 8 4 ≠ j.committed.step % 2 ^ 32 → k = j) ∧
      (rd m.body 8 4 = j.committed.step % 2 ^ 32 → bits (rd m.body 12 1) 3 2 = 0 → j.recovery = .none → j.commit = none →
        ∃ ci, k.commit = some ci ∧ ci.beat = rd m.body 0 8 ∧ ci.applied = false ∧ ci.step = j.committed.step ∧
          ci.planSwitch = (rd m.body 12 1).testBit 0 ∧ ci.skip = (rd m.body 12 1).testBit 1 ∧ ci.lsExp = rd m.body 13 1) ∧
      (rd m.body 8 4 = j.committed.step % 2 ^ 32 → (bits (rd m.body 12 1) 3 2 = 1 ∨ bits (rd m.body 12 1) 3 2 = 2) →
        k.replay = some (bits (rd m.body 12 1) 3 2, rd m.body 0 8) ∧ k.recovery = .none ∧ k.commit = j.commit)) ∧
  (∀ (s : State) (p f : Nat) (m : Msg) (j : Job), s.fns.length = 4 → f < 4 → m.sub = f + 1 → jobAt s f = some j → cpDown s 1 = false →
    (barrierParent s j j.coord = some m.origin → rd m.body 0 4 < 2 ^ 30 →
      ∃ t k, exec (.barrier p m) s = .next t ∧ jobAt t f = some k ∧ Frame [.fns, .queue, .sent] s t ∧
        k.barriersDone = rd m.body 0 4 :: j.barriersDone ∧ k.committed = j.committed ∧ ∀ g, g ≠ f → fnAt t g = fnAt s g) ∧
    (barrierParent s j j.coord ≠ some m.origin → m.origin ∈ barrierKids s j j.coord →
      j.coord ≠ m.origin → (∀ v ∈ lookupD j.votes (rd m.body 0 4) [], v.1 ≠ j.coord) →
      ∃ t k, exec (.barrier p m) s = .next t ∧ jobAt t f = some k ∧ Frame [.fns] s t ∧
        (m.origin, rd m.body 4 4) ∈ lookupD k.votes (rd m.body 0 4) [] ∧ ∀ g, g ≠ f → fnAt t g = fnAt s g) ∧
    (barrierParent s j j.coord ≠ some m.origin → m.origin ∉ barrierKids s j j.coord → exec (.barrier p m) s = .next s)) ∧
  (∀ (s : State) (p : Nat) (m : Msg) (i : Instr) (code : Nat),
    (i, code) ∈ [(.commit p m, 3), (.barrier p m, 4), (.plan p m, 6), (.event p m, 7), (.forward p m, 8)] →
    (code < 7 → cpDown s 1 = true) → (7 ≤ code → cpDown s 0 = true) →
    exec i s = .next { s with mbx := { s.mbx with cpHeld := s.mbx.cpHeld ++ [(code, p, m)] } }) ∧
  ∀ (s : State) (p f : Nat) (m : Msg) (j : Job), s.fns.length = 4 → f < 4 → m.sub = f + 1 → jobAt s f = some j → cpDown s 1 = false →
    ownDigest j (rd m.body 0 4) = none → ∃ t k, exec (.plan p m) s = .next t ∧ jobAt t f = some k ∧
      Frame [.fns, .queue, .sent] s t ∧ k.refPlan = some (rd m.body 0 4, slice m.body 16 64) ∧ k.plan = j.plan ∧
      k.verified = j.verified ∧ ∀ g, g ≠ f → fnAt t g = fnAt s g

/-- O30. R208, R235, R295, R309, R319, R404, R405, R408: a COUNTS message of the current epoch enters its origin's row into the count
matrix, which it opens where it comes first, and one of an older epoch only counts as stale; an event record that has come round to its origin is dropped, the bridge
delivers another to the host and any other device sends it on; a FORWARD message for another device goes on, and one that carries a
descriptor becomes a command in flight here; an item for another device goes on unchanged, with one hop less to go. -/
def Obligations.MessagesTravel : Prop :=
  (∀ (s : State) (p f : Nat) (m : Msg) (j : Job), s.fns.length = 4 → f < 4 → m.sub = f + 1 → jobAt s f = some j →
    ∃ t k, exec (.counts p m) s = .next t ∧ jobAt t f = some k ∧ Frame [.fns, .queue, .sent] s t ∧
      (∀ g, g ≠ f → fnAt t g = fnAt s g) ∧ k.committed = j.committed ∧
      (rd m.body 4 2 ≠ epochOf j (rd m.body 2 2) → k.exchanges = j.exchanges ∧ k.arrivals = j.arrivals) ∧
      (rd m.body 4 2 = epochOf j (rd m.body 2 2) → ∀ x, exchAt j (rd m.body 0 2) (rd m.body 2 2) = some x →
        ∃ y, exchAt k (rd m.body 0 2) (rd m.body 2 2) = some y ∧
          (lookupD y.matrix m.origin.e ([], [])).2 = (List.range 8).map (fun i => rd m.body (8 + 4 * i) 4) ∧
          (lookupD y.matrix m.origin.e ([], [])).1 = (List.range (rd m.body 6 2)).map (fun i => rd m.body (40 + 4 * i) 4) ∧
          (∀ e, e ≠ m.origin.e → lookupD y.matrix e ([], []) = lookupD x.matrix e ([], [])) ∧
          k.arrivals = j.arrivals ++ [(.counts (rd m.body 0 2) (rd m.body 2 2) m.origin, x.step, s.eng.beat)]) ∧
      (rd m.body 4 2 = epochOf j (rd m.body 2 2) → exchAt j (rd m.body 0 2) (rd m.body 2 2) = none →
        ∃ y, exchAt k (rd m.body 0 2) (rd m.body 2 2) = some y ∧ y.allocated = false ∧
          y.matrix = [(m.origin.e, (List.range (rd m.body 6 2)).map (fun i => rd m.body (40 + 4 * i) 4),
            (List.range 8).map (fun i => rd m.body (8 + 4 * i) 4))])) ∧
  (∀ (s : State) (p : Nat) (m : Msg), cpDown s 0 = false →
    (s.fab.bridge = false → m.origin = selfPhys s → exec (.event p m) s = .next s) ∧
    (m.sub / 256 ≠ 0x0402 → m.sub / 256 ≠ 0x0601 →
      (s.fab.bridge = true → ∃ t, exec (.event p m) s = .next t ∧ Frame [.mbx] s t ∧ t.mbx.flights = s.mbx.flights ∧
        t.mbx.held = s.mbx.held) ∧
      (s.fab.bridge = false → m.origin ≠ selfPhys s → m.code = 7 → ∃ t, exec (.event p m) s = .next t ∧ Frame [.queue] s t ∧
        t.eng.queue = s.eng.queue ++ [(m, eventPorts s p)]))) ∧
  (∀ (s : State) (p : Nat) (m : Msg), m.code = 8 → cpDown s 0 = false →
    (forwardHere s m.sub = false → ∃ t ports, exec (.forward p m) s = .next t ∧ Frame [.queue] s t ∧
      t.eng.queue = s.eng.queue ++ [(m, ports)]) ∧
    (forwardHere s m.sub = true → rd m.body 4 1 = 0 → flightOf s (rd m.body 0 4) = none →
      ∃ t fl, exec (.forward p m) s = .next t ∧ Frame [.mbx, .queue, .sent] s t ∧ flightOf t (rd m.body 0 4) = some fl ∧ fl.fetchBeat = m.beat ∧
        fl.cmd.ring = rd m.body 5 1 ∧ fl.cmd.desc = fit 64 (m.body.drop 16) ∧ fl.bridge = some (coordOf m.body 12) ∧
        fl.phase = .fetched)) ∧
  ∀ (s : State) (p : Nat) (desc item : Bytes), itemHere s (fnIx (rd desc 2 1)) (coordOf desc 4) = false →
    ∃ t, exec (.dataItem p desc item) s = .next t ∧ Frame [.sent] s t ∧
      t.fab.sent = s.fab.sent ++ ((itemPorts s (fnIx (rd desc 2 1)) (coordOf desc 4)).filter (fun q => q ≠ p)).map
        (fun q => Sent.item q (natLE 1 (rd desc 0 1) ++ natLE 1 (rd desc 1 1 - 1) ++ slice desc 2 14) item)

/-- O31. R29, R34, R42, R43, R60, R61, R173, R226: in the data phase a job that is suspended begins nothing; a slice of the beat that waits for
no allocation and for no tile in flight begins and keeps its results until it ends; a slice that meets an address of no region stops the
model, for which the spec states no behaviour; at the end of the phase a finished slice's bytes are stored, an unfinished one and one
that lacks a partial to return carries over once, and a second carry is an overrun; a carried remainder stores its bytes when it is done; a
deadline test without a missing item does nothing, and a timeout raises the fault alert. -/
def Obligations.DataPhaseRuns : Prop :=
  (∀ s : State, (s.eng.suspended = true ∨ ∀ f, f < 4 → jobAt s f = none) → (∀ q, q < 9 → (portAt s q).resendDue = none) →
    exec (.dataPhaseStart []) s = .next { s with eng := { s.eng with phase := .data } }) ∧
  (∀ (s z : State) (f k : Nat) (j : Job) (sl : Slice), s.fns.length = 4 → f < 4 → jobAt s f = some j →
    (∀ g, g < 4 → g ≠ f → jobAt s g = none) → (∀ q, q < 9 → (portAt s q).resendDue = none) →
    z = { s with eng := { s.eng with phase := .data } } →
    s.eng.suspended = false → j.gone = false → j.running = [] → j.workLists = [] → j.hold = none → inStop z j = false →
    slicesAt z j s.eng.beat = [(sl, k)] → (∀ op mb r, sl.work ≠ .groupedWindow op mb r) →
    waitsForAllocation j sl = false → waitsForTiles z j sl.work = false →
    (startSlice (noteStart z f k sl) f k sl = .reserved → exec (.dataPhaseStart []) s = .fault .reservedAddress) ∧
    (∀ es, startSlice (noteStart z f k sl) f k sl = .ok es → ∃ t m, exec (.dataPhaseStart []) s = .next t ∧ jobAt t f = some m ∧
      m.running = [⟨sl, s.eng.beat, k, true, false, es⟩] ∧ m.committed = j.committed ∧ (∀ a, memGet t.st.mem a = memGet s.st.mem a) ∧
      t.eng.phase = .data ∧ t.fab = s.fab ∧ t.face.lastActive = some s.eng.timeNs)) ∧
  (∀ s : State, (∀ f, f < 4 → jobAt s f = none) → (∀ q, q < 9 → (portAt s q).resendDue = none) →
    ∀ rs, exec (.dataPhaseEnd rs) s = .next { s with eng := { s.eng with phase := .guard } }) ∧
  (∀ (s z : State) (f a : Nat) (b : Bytes) (j : Job) (r : RunSlice), s.memSafe → s.fns.length = 4 → f < 4 → jobAt s f = some j →
    (∀ g, g < 4 → g ≠ f → jobAt s g = none) → (∀ q, q < 9 → (portAt s q).resendDue = none) →
    z = { s with eng := { s.eng with phase := .guard } } →
    j.running = [r] → j.workLists = [] → r.started = true → r.effects = [.mem a b] → r.beat ≤ s.eng.beat →
    (lacksPartial z f j r = false → lateBad z f r = none → ∃ t k, exec (.dataPhaseEnd []) s = .next t ∧ jobAt t f = some k ∧
      k.running = [] ∧ t.eng.phase = .guard ∧
      ∀ x, memGet t.st.mem x = if a ≤ x ∧ x < a + b.length then b.getD (x - a) 0 else memGet s.st.mem x) ∧
    (lacksPartial z f j r = true → r.carried = false → ∃ t k, exec (.dataPhaseEnd []) s = .next t ∧ jobAt t f = some k ∧
      k.running = [{ r with carried := true }] ∧ (∀ x, memGet t.st.mem x = memGet s.st.mem x)) ∧
    (r.carried = false → ∃ t k, exec (.dataPhaseEnd [r.slice.res]) s = .next t ∧ jobAt t f = some k ∧
      k.running = [{ r with carried := true }] ∧ (∀ x, memGet t.st.mem x = memGet s.st.mem x)) ∧
    (r.carried = true → r.beat < s.eng.beat → molting s = false → ∃ t, exec (.dataPhaseEnd [r.slice.res]) s = .next t ∧
      t.face.alerts.getLsbD 4 = true) ∧
    (r.carried = true → s.eng.phase ≠ .data → lacksPartial s f j r = false → lateBad s f r = none →
      ∃ t k, exec (.remainderDone r.slice.res) s = .next t ∧ jobAt t f = some k ∧ k.running = [] ∧
        ∀ x, memGet t.st.mem x = if a ≤ x ∧ x < a + b.length then b.getD (x - a) 0 else memGet s.st.mem x)) ∧
  (∀ s : State, (∀ f, f < 4 → ∀ j, jobAt s f = some j → missedItems s j = []) → exec .deadlineTest s = .next s) ∧
  ∀ (s : State) (f : Nat) (j : Job), f < 4 → jobAt s f = some j → (∀ g, g < 4 → g ≠ f → jobAt s g = none) → missedItems s j ≠ [] →
    molting s = false → ∃ t, exec .deadlineTest s = .next t ∧ t.face.alerts.getLsbD 4 = true

/-- O32. R51, R236, R257, R265, R272, R273, R276, R430: at its beat a commit adds one step; unless it skips, it adds one update, turns the
bank and adds one to the version; the commit is irrevocable after beat C + Q, and the run ends with its last step. A replay anchor sets
the first beat of an update-only or a full replay; a cancel takes effect at its beat, and of its micro-batch's slices that have not begun
only the casts of the step's gradients stay (R231); hold that outlasts the slack abandons the step. -/
def Obligations.CommitsAndReplays : Prop :=
  (∀ (s : State) (f : Nat) (j : Job) (ci : CommitInfo), s.fns.length = 4 → f < 4 → jobAt s f = some j → j.commit = some ci →
    ((ci.applied = true ∨ s.eng.beat < ci.beat) → exec (.commitBeat f) s = .next s) ∧
    (ci.applied = false → ci.beat ≤ s.eng.beat → j.anchor ≠ none → ci.planSwitch = false → j.policyNext = none →
      ∃ t k, exec (.commitBeat f) s = .next t ∧ Frame [.fns, .pow] s t ∧ jobAt t f = some k ∧ (∀ g, g ≠ f → fnAt t g = fnAt s g) ∧
        k.committed.step = j.committed.step + 1 ∧ k.commit = some { ci with applied := true } ∧ k.holding = [] ∧ k.attempt = 0 ∧
        k.abandoned = 0 ∧ k.plan = j.plan ∧ k.planVersion = j.planVersion ∧
        (ci.skip = true → k.committed.optStep = j.committed.optStep ∧ k.committed.version = j.committed.version ∧
          k.committed.bank = j.committed.bank ∧ k.committed.products = j.committed.products) ∧
        (ci.skip = false → k.committed.optStep = j.committed.optStep + 1 ∧ k.committed.version = (j.committed.version + 1) % 2 ^ 32 ∧
          k.committed.bank = 1 - j.committed.bank)) ∧
    ((ci.applied = false ∨ s.eng.beat ≤ ci.beat + quietWindow s) → exec (.commitIrrevocable f) s = .next s) ∧
    (ci.applied = true → ci.beat + quietWindow s < s.eng.beat → ci.planSwitch = false →
      ∃ t k, exec (.commitIrrevocable f) s = .next t ∧ jobAt t f = some k ∧ k.commit = none ∧ k.committed = j.committed ∧
        (∀ r, j.run = some r → r.last = some ci.step → k.run = none ∧ k.anchor = none ∧ Frame [.fns, .mbx, .queue, .sent] s t) ∧
        (∀ r, j.run = some r → r.last ≠ some ci.step → k.anchor = j.anchor ∧ Frame [.fns] s t ∧
          k.run = some { r with irrevocableBeat := s.eng.beat }))) ∧
  (∀ (s : State) (f kind b : Nat) (j : Job) (p : Plan), s.fns.length = 4 → f < 4 → jobAt s f = some j → j.replay = some (kind, b) →
    j.plan = some p → j.gone = false → b ≤ s.eng.beat →
    ∃ t k, exec (.replayAnchor f) s = .next t ∧ Frame [.fns, .stores, .mem] s t ∧ (kind ≠ 1 → Frame [.fns] s t) ∧ jobAt t f = some k ∧ k.replay = none ∧ k.recovery = .none ∧
      k.runStep = j.committed.step ∧ k.committed = j.committed ∧
      (kind = 1 → k.anchor = some ((b : Int) - p.firstUpdate) ∧ k.updateOnly = true ∧ k.holding = j.holding) ∧
      (kind = 2 → k.anchor = some ((b : Int) - p.firstUpdate + p.stepBeats) ∧ k.updateOnly = false ∧ k.holding = [])) ∧
  (∀ (s : State) (f mb b q : Nat) (j : Job), s.fns.length = 4 → f < 4 → jobAt s f = some j → j.cancels = [(mb, b, q)] →
    (s.eng.beat < b → exec (.cancelEffective f mb) s = .next s) ∧
    (b ≤ s.eng.beat → ∃ t k, exec (.cancelEffective f mb) s = .next t ∧ Frame [.fns, .mbx, .queue, .sent] s t ∧ jobAt t f = some k ∧
      k.cancels = [] ∧ k.cancelled = mb :: j.cancelled ∧ (∀ i, i ≠ mb → k.epochs[i]? = j.epochs[i]?) ∧
      (mb < j.epochs.length → k.epochs.getD mb 0 = (j.epochs.getD mb 0 + 1) % 65536) ∧
      (∀ r ∈ k.running, r.slice.mb = some mb → r.step = j.committed.step → castsGradient r.slice.work = false → r.started = true))) ∧
  ∀ (s : State) (f h : Nat) (j : Job), s.fns.length = 4 → f < 4 → jobAt s f = some j → j.hold = some h →
    (s.eng.beat < h + j.hdr.commitSlack → exec (.holdExpiry f) s = .next s) ∧
    (h + j.hdr.commitSlack ≤ s.eng.beat → j.run ≠ none → j.commit = none → j.abandoned + 1 < j.hdr.policy.replayLimit →
      s.eng.suspended = true → ∃ t k, exec (.holdExpiry f) s = .next t ∧ jobAt t f = some k ∧ k.hold = none ∧ k.anchor = none ∧
        k.recovery = .voting ∧ k.attempt = (j.attempt + 1) % 256 ∧ k.committed = j.committed ∧
        (originOf s f, s.eng.beat) ∈ t.eng.abortsSeen)

/-- O33. R255: at the commit, a step whose combined nonfinite flag is set changes no bank, lowers the scale by one, not below 0, only when
the step ran at that scale, and clears the count of clean steps; any other step adds one to that count, and when it reaches
`clean_steps` raises the scale by one, to 24 at most, and clears the count. -/
def Obligations.LossScaleFollowsRule : Prop :=
  ∀ (s : State) (f : Nat) (j : Job) (ci : CommitInfo), s.fns.length = 4 → f < 4 → jobAt s f = some j → j.commit = some ci →
    ci.applied = false → ci.beat ≤ s.eng.beat → j.anchor ≠ none → ci.planSwitch = false → j.policyNext = none →
    ∃ t k, exec (.commitBeat f) s = .next t ∧ jobAt t f = some k ∧
      (ci.skip = true → k.committed.bank = j.committed.bank ∧ k.committed.version = j.committed.version ∧ k.committed.cleanRun = 0 ∧
        k.committed.lsExp = (if j.sigma = j.committed.lsExp then j.committed.lsExp - 1 else j.committed.lsExp)) ∧
      (ci.skip = false → j.hdr.cleanSteps ≤ j.committed.cleanRun + 1 →
        k.committed.cleanRun = 0 ∧ k.committed.lsExp = min 24 (j.committed.lsExp + 1)) ∧
      (ci.skip = false → j.committed.cleanRun + 1 < j.hdr.cleanSteps →
        k.committed.cleanRun = j.committed.cleanRun + 1 ∧ k.committed.lsExp = j.committed.lsExp)

/-- O34. R139 to R141, R210 to R221, R224, R226, R228, R234, R235, R301, R302: the allocation of a layer and micro-batch whose count matrix is
whole and whose beat has come puts its quotas, kept experts and flows in force, once, and what waited for it begins; a row of another epoch is only counted, a returned row of the epoch in force is kept beside its sender and
stamped with the beat; an m-tile's items can be claimed in the exchanges whose release beats for it have come; a core's item ends done; a segment of another attempt is counted as
stale at its port, one of the running step is stamped with the beat. -/
def Obligations.ExchangeAndItems : Prop :=
  (∀ (s : State) (f layer mb : Nat) (back : Bool) (j : Job), s.fns.length = 4 → f < 4 → jobAt s f = some j →
    ((exchAt j layer mb = none ∨ ∃ x, exchAt j layer mb = some x ∧ mayAllocate s j x back = false) →
      exec (.allocationComplete f layer mb back) s = .next (if s.eng.phase = .data then beginWaiting s f else s)) ∧
    (∀ x, exchAt j layer mb = some x → mayAllocate s j x back = true → ∃ u k y,
      exec (.allocationComplete f layer mb back) s = .next (if s.eng.phase = .data then beginWaiting u f else u) ∧
      Frame [.fns, .stores, .mem] s u ∧ jobAt u f = some k ∧ (∀ g, g ≠ f → fnAt u g = fnAt s g) ∧ exchAt k layer mb = some y ∧
      k.committed = j.committed ∧ y.matrix = x.matrix ∧ y.sel = x.sel ∧
      (back = true → y.backAllocated = true ∧ y.quota = x.quota ∧ y.flows = (allocateBack s j x).flows) ∧
      (back = false → y.allocated = true ∧ y.quota = (allocate s j x).quota ∧ y.kept = (allocate s j x).kept ∧
        y.flows = (allocate s j x).flows ∧ y.release = (allocate s j x).release))) ∧
  (∀ (s : State) (f round : Nat) (back : Bool) (row : Bytes) (j : Job), s.fns.length = 4 → f < 4 → jobAt s f = some j →
    (rd row 10 2 ≠ epochOf j (rd row 8 2) → ∃ t k, exec (.tokenRow f round back row) s = .next t ∧ Frame [.fns] s t ∧
      jobAt t f = some k ∧ k.exchanges = j.exchanges ∧ k.arrivals = j.arrivals) ∧
    (∀ x, rd row 10 2 = epochOf j (rd row 8 2) → exchAt j (rd row 12 2) (rd row 8 2) = some x →
      (coordOf row 0 = j.coord → ∃ t k y, exec (.tokenRow f round back row) s = .next t ∧ Frame [.fns] s t ∧ jobAt t f = some k ∧
        exchAt k (rd row 12 2) (rd row 8 2) = some y ∧ y.returned = x.returned ++ [(returnSender j x row, back, row)] ∧
        y.received = x.received ∧ k.arrivals = j.arrivals ++ [(.returned (rd row 12 2) (rd row 8 2) round back
          (coordPut j.coord 0 (returnSender j x row)), x.step, s.eng.beat)]) ∧
      (coordOf row 0 ≠ j.coord → ∃ t k y z, exec (.tokenRow f round back row) s = .next t ∧ Frame [.fns, .stores, .mem] s t ∧
        jobAt t f = some k ∧ exchAt k (rd row 12 2) (rd row 8 2) = some y ∧ y.received = x.received ++ [z] ∧ z.bytes = row ∧
        z.origin = rd row 0 1 ∧ z.round = round ∧ y.returned = x.returned))) ∧
  (∀ (s : State) (f e m : Nat) (j : Job), s.fns.length = 4 → f < 4 → jobAt s f = some j →
    ∃ t k, exec (.itemRelease f e m) s = .next t ∧ Frame [.fns] s t ∧ jobAt t f = some k ∧ k.released = dueTiles s j e m ++ j.released ∧
      k.workLists.length = j.workLists.length ∧ ∀ (n : Nat) (w : WorkList), j.workLists[n]? = some w → ∃ (v : WorkList) (o : Option OpD), k.workLists[n]? = some v ∧
        o = opNth j w.op ∧
        ((∃ q, o = some q ∧ ⟨q.layer, w.mb, flagBack q, w.round, e, m⟩ ∈ dueTiles s j e m) →
          v.items.length = w.items.length ∧ ∀ (l : Nat) (i : WorkItem), w.items[l]? = some i →
            v.items[l]? = some (if i.expert = e ∧ i.mTile = m then { i with released := true } else i)) ∧
        ((∀ q, o = some q → ⟨q.layer, w.mb, flagBack q, w.round, e, m⟩ ∉ dueTiles s j e m) → v = w)) ∧
  (∀ (s : State) (f core : Nat) (j : Job), s.fns.length = 4 → f < 4 → jobAt s f = some j →
    ((∀ w ∈ j.workLists, ∀ i ∈ w.items, ¬ (i.phase = 2 ∧ i.at_ = core)) → exec (.itemComplete f core) s = .next s) ∧
    (∀ w i, j.workLists = [w] → w.items = [i] → i.phase = 2 → i.at_ = core → i.check = false → (s.eng.phase ≠ .data ∨ j.running = []) →
      (itemResult s f j w i core).1.findSome? (fun r => badIn s r.1 r.2) = none → ∃ t k v, exec (.itemComplete f core) s = .next t ∧
      Frame [.fns, .stores, .mem] s t ∧ jobAt t f = some k ∧ k.workLists = [v] ∧ v.items = [{ i with phase := 3 }] ∧ v.op = w.op ∧
      k.committed = j.committed)) ∧
  ∀ (s : State) (f port : Nat) (seg : Bytes) (j : Job), s.fns.length = 4 → f < 4 → jobAt s f = some j → (rd seg 7 1).testBit 1 = false →
    (segCurrent j (rd seg 28 4) (rd seg 9 1) = none → exec (.collectiveSegment f port seg) s =
      .next (setPort s port fun p => { p with stale := min (2 ^ 32 - 1) (p.stale + 1) })) ∧
    (∀ step, segCurrent j (rd seg 28 4) (rd seg 9 1) = some step →
      (collOpOf j (rd seg 0 4) (rd seg 4 1 % 16) = none ∨ (rd seg 4 1 % 16 ≠ 1 ∧ rd seg 4 1 % 16 ≠ 3)) →
      ∃ t k, exec (.collectiveSegment f port seg) s = .next t ∧ Frame [.fns, .stores, .mem] s t ∧ jobAt t f = some k ∧
        k.arrivals = j.arrivals ++ [(segItem seg, step, s.eng.beat)] ∧ k.committed = j.committed)

/-- O35. R73 (and R67, R71): a value on a format's grid keeps its encoding under conversion, in every floating format, subnormal values and
the signs of zeros included, whatever `ovf_inf` says, and only a NaN becomes a NaN; a magnitude below half the smallest subnormal
rounds to zero, one of exactly half of it to the smallest subnormal. -/
def Obligations.SubnormalsAreKept : Prop :=
  (∀ (code w : Nat) (f : FloatFmt) (ovf : Bool), floatOf code = some f → w < 2 ^ fmtBits code →
    (f.decode w ≠ .nan → (convert code ovf (f.decode w).ex).1 = w) ∧
    (f.decode w = .nan → f.special ≠ 0 ∧ f.decode (convert code ovf (f.decode w).ex).1 = .nan)) ∧
  (∀ (f : FloatFmt) (neg : Bool) (n d k : Nat), 0 < n → 0 < d → n < d * 2 ^ k →
    f.round (.ratio neg n d (f.emin - f.mBits - 1 - k)) = .zero neg) ∧
  ∀ (f : FloatFmt) (neg : Bool), f.round (.ratio neg 1 1 (f.emin - f.mBits - 1)) = .fin neg 1 (f.emin - f.mBits)

/-- O36. R180, R190, R426 to R429, R46, R49: JOB.LOAD keeps the description, starts at step 0 without a plan and draws a fresh hash key;
JOB.PLAN and JOB.MAP begin a compilation of the next version, or refuse with the first failing check; JOB.VERIFY of a version that is
not there is FAILED with the absent record, and of a verified one is done; JOB.UNLOAD frees the function's far memory as zeros, and
the local SRAM of its cores that are switched off holds nothing (R450, Table 14.7; what it then reads as is the model's choice, log 179). -/
def Obligations.JobCommandsRun : Prop :=
  (∀ (s : State) (c : Cmd), MayStart s c → s.fns.length = 4 → fnState s (cIx c) = 1 → s.pow.state ≠ 2 →
    (∀ off, badDescription c.payload = some off → exec (.jobLoad c) s = .next (answer s c (replyRefused s c 0 off))) ∧
    (badDescription c.payload = none →
      ∃ u r j, exec (.jobLoad c) s = .next (answer u c r) ∧ Frame [.fns, .stores, .free] s u ∧ jobAt u (cIx c) = some j ∧
        j.desc = c.payload ∧ j.digest8 = (sha512 c.payload).take 8 ∧ j.plan = none ∧ j.verified = false ∧ j.run = none ∧
        j.committed.step = 0 ∧ j.attempt = 0 ∧ (fnAt u (cIx c)).hashKey = some (Config.hashKey s.free) ∧ u.free = s.free + 1 ∧
        (j.loading = none → r = replyOk j.digest8) ∧ (j.loading ≠ none → j.loading = some c.req ∧ r = replyAccepted j.digest8) ∧
        ∀ g, g ≠ cIx c → fnAt u g = fnAt s g)) ∧
  (∀ (s : State) (c : Cmd) (j : Job), MayStart s c → s.fns.length = 4 → (fnState s (cIx c) = 2 ∨ fnState s (cIx c) = 3) →
    jobAt s (cIx c) = some j → jobBusy j = false →
    (∀ r, planRefusal s (cIx c) (jobToCompile s j (planHdr j c)) = some r →
      exec (.jobPlan c) s = .next (answer s c (planReply r))) ∧
    (planRefusal s (cIx c) (jobToCompile s j (planHdr j c)) = none →
      ∃ u k, exec (.jobPlan c) s = .next (answer u c (replyAccepted (natLE 4 (nextVersion j)))) ∧ Frame [.fns] s u ∧
        jobAt u (cIx c) = some k ∧ k.compiling = some (some c.req, nextVersion j) ∧ k.next = none ∧ k.plan = j.plan ∧
        k.committed = j.committed ∧ ∀ g, g ≠ cIx c → fnAt u g = fnAt s g) ∧
    (∀ r, cArg c 32 1 < 2 →
      planRefusal s (cIx c) (jobToCompile s j { j.hdr with policy := mergePolicy j.policyWanted j.hdr.policy }) = some r →
      exec (.jobMap c) s = .next (answer s c (planReply r))) ∧
    (cArg c 32 1 < 2 → planRefusal s (cIx c) (jobToCompile s j { j.hdr with policy := mergePolicy j.policyWanted j.hdr.policy }) = none →
      ∃ u k, exec (.jobMap c) s = .next u ∧ Frame [.fns, .mbx] s u ∧ jobAt u (cIx c) = some k ∧
        k.compiling = some (some c.req, nextVersion j) ∧ k.ranked = some (decide (cArg c 32 1 = 0)) ∧ k.plan = j.plan ∧
        k.committed = j.committed) ∧
    (2 ≤ cArg c 32 1 → exec (.jobMap c) s = .next (answer s c (replyRefused s c 4 32)))) ∧
  (∀ (s : State) (c : Cmd) (j : Job), MayStart s c → s.fns.length = 4 →
    (fnState s (cIx c) = 2 ∨ fnState s (cIx c) = 3 ∨ fnState s (cIx c) = 4) → jobAt s (cIx c) = some j → j.verifying = none →
    cArg c 32 4 ≠ 0 →
    (ownDigest j (cArg c 32 4) = none → exec (.jobVerify c) s = .next (answer s c (replyAbsent 0 ⟨255, 255, 255, 255⟩ 255))) ∧
    (ownDigest j (cArg c 32 4) ≠ none → isRoot s j = false → versionVerified j (cArg c 32 4) = true →
      exec (.jobVerify c) s = .next (answer s c (replyOk (natLE 4 (cArg c 32 4))))) ∧
    (ownDigest j (cArg c 32 4) ≠ none → isRoot s j = false → versionVerified j (cArg c 32 4) = false →
      ∃ u k, exec (.jobVerify c) s = .next u ∧ Frame [.fns, .mbx] s u ∧ jobAt u (cIx c) = some k ∧ k.verifying = some c.req ∧
        k.plan = j.plan ∧ k.verified = j.verified)) ∧
  ∀ (s : State) (c : Cmd) (j : Job), MayStart s c → s.fns.length = 4 → (fnState s (cIx c) = 2 ∨ fnState s (cIx c) = 3) →
    jobAt s (cIx c) = some j → jobBusy j = false → s.env.func ≠ cIx c + 1 →
    ∃ u, exec (.jobUnload c) s = .next (answer u c (replyOk (natLE 8 (sumNat ((fnAt s (cIx c)).far.map (·.size)))))) ∧
      Frame [.fns, .stores, .mem, .pow] s u ∧ jobAt u (cIx c) = none ∧ (fnAt u (cIx c)).far = [] ∧
      (fnAt u (cIx c)).hashKey = none ∧ (fnAt u (cIx c)).near = (fnAt s (cIx c)).near ∧
      (∀ a, memGet u.st.mem a = if (fnFar s.flash.partMode (cIx c)).1 ≤ a ∧
        a < (fnFar s.flash.partMode (cIx c)).1 + (fnFar s.flash.partMode (cIx c)).2 then 0
        else if isDark u (cIx c) a then 0 else memGet s.st.mem a) ∧
      ∀ g, g ≠ cIx c → fnAt u g = fnAt s g

/-- O37. R278, R427: JOB.RESHARD refuses lengths outside R5 or that the live modules cannot fill, JOB.RESIZE a d above the map's axis; what the
plan's checks refuse is answered so. Where nothing runs they compile for the new lengths, where a step runs they are DEFERRED to the plan
switch and the plan in force goes on. R46, R49: a compilation that ends where none is under way, or with a plan that breaks what the
compiler guarantees (the model's reading, log 3), changes nothing; one whose plan a check refuses leaves the plan in force; while a verified plan runs
the new plan waits for its verification and a commit; with nothing running it comes into force, unverified. -/
def Obligations.ShapeAndPlanChange : Prop :=
  (∀ (s : State) (c : Cmd) (j k : Job) (h : JobHdr) (len : Coord), MayStart s c → s.fns.length = 4 →
    (fnState s (cIx c) = 2 ∨ fnState s (cIx c) = 3 ∨ fnState s (cIx c) = 4) →
    jobAt s (cIx c) = some j → jobBusy j = false → cPayLen c = 0 → len = coordOf c.desc 32 →
    h = { j.hdr with policy := mergePolicy j.policyWanted j.hdr.policy } → k = { j with newLengths := some len } →
    ((clampCuts len ≠ len ∨ coordSize len ≠ available s j) → exec (.jobReshard c) s = .next (answer s c (replyRefused s c 8 32))) ∧
    (∀ r, clampCuts len = len → coordSize len = available s j → planRefusal s (cIx c) (jobToCompile s k h) = some r →
      exec (.jobReshard c) s = .next (answer s c (planReply r))) ∧
    (clampCuts len = len → coordSize len = available s j → planRefusal s (cIx c) (jobToCompile s k h) = none →
      (j.run = none → ∃ u m, exec (.jobReshard c) s = .next u ∧ Frame [.fns, .mbx] s u ∧ jobAt u (cIx c) = some m ∧
        m.newLengths = some len ∧ m.compiling = some (some c.req, nextVersion j) ∧ m.lengths = j.lengths ∧ m.plan = j.plan ∧
        m.committed = j.committed) ∧
      (j.run ≠ none → cImmediate c = false → ∃ u m r, exec (.jobReshard c) s = .next (answer u c r) ∧ r.status = 3 ∧ Frame [.fns] s u ∧
        jobAt u (cIx c) = some m ∧ m.newLengths = some len ∧ m.atSwitch = j.atSwitch ++ [c.req] ∧ m.run = j.run ∧
        m.anchor = j.anchor ∧ m.lengths = j.lengths ∧ m.plan = j.plan ∧ m.committed = j.committed))) ∧
  (∀ (s : State) (c : Cmd) (j k : Job) (h : JobHdr) (d w dPhys n : Nat) (l : Coord), MayStart s c → s.fns.length = 4 →
    (fnState s (cIx c) = 2 ∨ fnState s (cIx c) = 3 ∨ fnState s (cIx c) = 4) →
    jobAt s (cIx c) = some j → jobBusy j = false → d = clamp 1 128 (cArg c 32 1) → dPhys = coordOn (mapLengths s) (j.axes.getD 3 3) →
    n = coordSize (mapLengths s) →
    w = (if clampWarm n dPhys (cArg c 33 1) = 0 then warmDefault n dPhys else clampWarm n dPhys (cArg c 33 1)) →
    l = { j.newLengths.getD j.lengths with d } → h = { j.hdr with policy := mergePolicy j.policyWanted j.hdr.policy } →
    k = { j with newLengths := some l, newWarm := some (min w (dPhys - d)) } →
    (dPhys < d → exec (.jobResize c) s = .next (answer s c (replyRefused s c 8 32))) ∧
    (∀ r, d ≤ dPhys → planRefusal s (cIx c) (jobToCompile s k h) = some r → exec (.jobResize c) s = .next (answer s c (planReply r))) ∧
    (d ≤ dPhys → planRefusal s (cIx c) (jobToCompile s k h) = none →
      (j.run = none → ∃ u m, exec (.jobResize c) s = .next u ∧ Frame [.fns, .mbx] s u ∧ jobAt u (cIx c) = some m ∧
        m.newLengths = some l ∧ m.newWarm = some (min w (dPhys - d)) ∧ m.compiling = some (some c.req, nextVersion j) ∧
        m.lengths = j.lengths ∧ m.plan = j.plan ∧ m.committed = j.committed) ∧
      (j.run ≠ none → cImmediate c = false → ∃ u m r, exec (.jobResize c) s = .next (answer u c r) ∧ r.status = 3 ∧ Frame [.fns] s u ∧
        jobAt u (cIx c) = some m ∧ m.newLengths = some l ∧ m.newWarm = some (min w (dPhys - d)) ∧ m.atSwitch = j.atSwitch ++ [c.req] ∧
        m.run = j.run ∧ m.anchor = j.anchor ∧ m.lengths = j.lengths ∧ m.plan = j.plan ∧ m.committed = j.committed))) ∧
  (∀ (s : State) (f : Nat) (p : Plan), (∀ j, jobAt s f = some j → j.compiling = none) → exec (.compilationComplete f p) s = .next s) ∧
  ∀ (s : State) (f v : Nat) (q : Option Nat) (p : Plan) (j k : Job), s.fns.length = 4 → f < 4 → jobAt s f = some j →
    j.compiling = some (q, v) → k = enterPlan s f { j with compiling := none } p v →
    (planSound s f j k p = false → exec (.compilationComplete f p) s = .next s) ∧
    (∀ r, planSound s f j k p = true → compiledRefusal s f k p = some r → ∃ t m, exec (.compilationComplete f p) s = .next t ∧
      jobAt t f = some m ∧ m.plan = j.plan ∧ m.next = j.next ∧ m.compiling = none ∧ m.lengths = j.lengths ∧ m.run = j.run ∧
      Frame [.fns, .mbx, .queue, .sent] s t) ∧
    (planSound s f j k p = true → compiledRefusal s f k p = none → j.refPlan = none → keepsPlan j = true → isRoot s j = false →
      ∃ t m, exec (.compilationComplete f p) s = .next t ∧ Frame [.fns, .mbx, .queue, .sent] s t ∧ jobAt t f = some m ∧ m.plan = j.plan ∧
        m.planVersion = j.planVersion ∧ m.next = some (p, v, false) ∧ m.compiling = none ∧ m.committed = j.committed) ∧
    (planSound s f j k p = true → compiledRefusal s f k p = none → j.refPlan = none → j.run = none → s.fab.drain = none →
      s.fab.drainWaits = none → ∃ t m, exec (.compilationComplete f p) s = .next t ∧ t.flash = s.flash ∧ jobAt t f = some m ∧
        m.plan = some p ∧ m.planVersion = v ∧ m.verified = false)

/-- O38. R48 (and R430): STEP.RUN of a plan that has not been verified is refused with reason 5; of a verified one it sets the first anchor
so that no slice lies nearer than A beats, and answers that beat with the step; while a restore runs it is BUSY. -/
def Obligations.StepRunNeedsVerifiedPlan : Prop :=
  (∀ (s : State) (c : Cmd), MayStart s c → fnState s (cIx c) = 2 → exec (.stepRun c) s = .next (answer s c (replyRefused s c 5 0xFFFF))) ∧
  (∀ (s : State) (c : Cmd) (j : Job) (p : Plan), MayStart s c → s.fns.length = 4 → fnState s (cIx c) = 3 → jobAt s (cIx c) = some j →
    j.plan = some p →
    (j.restoring ≠ none → exec (.stepRun c) s = .next (answer s c (replyBusy 1))) ∧
    (j.restoring = none →
      ∃ u k a r, exec (.stepRun c) s = .next (answer u c (replyAccepted (natLE 8 a.toNat ++ natLE 8 j.committed.step))) ∧
        Frame [.fns] s u ∧ jobAt u (cIx c) = some k ∧ k.anchor = some a ∧ k.run = some r ∧ r.req = c.req ∧
        (r.last = none ↔ cArg c 32 8 = 0) ∧ k.committed = j.committed ∧ k.plan = j.plan ∧ k.holding = [] ∧ k.accums = [] ∧
        k.stopped = false ∧ k.recovery = .none ∧ (∀ sl ∈ p.slices, (s.eng.beat : Int) + announceDist s ≤ a + sl.beat) ∧
        ∀ g, g ≠ cIx c → fnAt u g = fnAt s g))

/-- O39. R430, R431, R239, R281, R236: STEP.ABORT with `stop` floods an ABORT and ends the run; STEP.STATUS returns the figures of a
committed step, the absent record for another, and FAILED once the job has stopped; BATCH.CANCEL takes effect A beats after its
acceptance, refuses a micro-batch that the plan has not, and one of a training job whose backward pass is planned by then. -/
def Obligations.StepCommandsRun : Prop :=
  (∀ (s : State) (c : Cmd) (j : Job), MayStart s c → s.fns.length = 4 → fnState s (cIx c) = 4 → jobAt s (cIx c) = some j →
    (2 ≤ cArg c 32 1 → exec (.stepAbort c) s = .next (answer s c (replyRefused s c 4 32))) ∧
    (cArg c 32 1 = 1 → ∃ t k, exec (.stepAbort c) s = .next t ∧ jobAt t (cIx c) = some k ∧ k.run = none ∧ k.anchor = none ∧
      k.recovery = .none ∧ k.aborting = j.aborting ++ [(c.req, s.eng.beat, j.committed.step)] ∧ k.accums = [] ∧
      (j.commit = none → k.committed = j.committed) ∧ (originOf s (cIx c), s.eng.beat) ∈ t.eng.abortsSeen ∧
      t.eng.beat = s.eng.beat ∧ (∀ a, memGet t.st.mem a = memGet s.st.mem a) ∧ ∀ g, g ≠ cIx c → fnAt t g = fnAt s g) ∧
    (cArg c 32 1 = 0 → j.anchor = none → ∃ t k, exec (.stepAbort c) s = .next t ∧ Frame [.fns, .mbx, .eng, .queue, .sent] s t ∧
      jobAt t (cIx c) = some k ∧ k.run = j.run ∧ k.aborting = j.aborting ++ [(c.req, s.eng.beat, j.committed.step)] ∧
      k.attempt = j.attempt)) ∧
  (∀ (s : State) (c : Cmd) (j : Job), MayStart s c → (fnState s (cIx c) = 2 ∨ fnState s (cIx c) = 3 ∨ fnState s (cIx c) = 4) →
    jobAt s (cIx c) = some j →
    (j.stopped = true → exec (.stepStatus c) s = .next (answer s c (replyFailed 0 []))) ∧
    (∀ x, j.stopped = false → cArg c 32 8 = 2 ^ 64 - 1 → j.history.head? = some x →
      exec (.stepStatus c) s = .next (answer s c (replyRes (natLE 8 x.step) (statusBytes j x)))) ∧
    (∀ x, j.stopped = false → cArg c 32 8 ≠ 2 ^ 64 - 1 → (j.history.find? fun y => y.step = cArg c 32 8) = some x →
      exec (.stepStatus c) s = .next (answer s c (replyRes (natLE 8 (cArg c 32 8)) (statusBytes j x)))) ∧
    (j.stopped = false → cArg c 32 8 ≠ 2 ^ 64 - 1 → (∀ y ∈ j.history, y.step ≠ cArg c 32 8) →
      exec (.stepStatus c) s = .next (answer s c (replyAbsent 0 ⟨255, 255, 255, 255⟩ 255)))) ∧
  ∀ (s : State) (c : Cmd) (j : Job) (p : Plan) (fl : Flight), MayStart s c → s.fns.length = 4 → fnState s (cIx c) = 4 →
    jobAt s (cIx c) = some j → j.plan = some p → flightOf s c.req = some fl →
    (p.microBatches ≤ cArg c 32 2 → exec (.batchCancel c) s = .next (answer s c (replyRefused s c 4 32))) ∧
    (cArg c 32 2 < p.microBatches → j.hdr.kind = 0 → backwardBy j (cArg c 32 2) (fl.fetchBeat + announceDist s) = true →
      exec (.batchCancel c) s = .next (answer s c (replyRefused s c 2 0xFFFF))) ∧
    (cArg c 32 2 < p.microBatches → backwardBy j (cArg c 32 2) (fl.fetchBeat + announceDist s) = false →
      ∃ t k, exec (.batchCancel c) s = .next t ∧ Frame [.fns, .mbx] s t ∧ jobAt t (cIx c) = some k ∧
        k.cancels = j.cancels ++ [(cArg c 32 2, fl.fetchBeat + announceDist s, c.req)] ∧ k.cancelled = j.cancelled ∧
        ∀ g, g ≠ cIx c → fnAt t g = fnAt s g)

/-- O40. R361, R362, R367, R375 to R377, R432, R433: SNAP.TAKE on a job at rest announces a stop A beats ahead, and after an open commit
one Q + 1 beats behind it; SNAP.POLICY answers the clamped policy, at once when no step runs; SNAP.EXPORT needs an export mode and a
known format, and one at a time; SNAP.RESTORE needs a verified plan, a job at rest and a chrysalis that fits; SNAP.LIST lists what the
job, or without one the drives, hold; a level-2 copy counts for a restore only where its image opens and is complete (R481). -/
def Obligations.SnapCommandsRun : Prop :=
  (∀ (s : State) (c : Cmd) (j : Job), MayStart s c → s.fns.length = 4 → (fnState s (cIx c) = 3 ∨ fnState s (cIx c) = 4) →
    jobAt s (cIx c) = some j → j.restoring = none →
    (fnState s (cIx c) = 3 → (∀ q, j.stopWanted ≠ some (some q)) → j.stopFrom = none →
      ∃ u k, exec (.snapTake c) s = .next (answer u c (replyAccepted (natLE 8 j.committed.step ++ natLE 8 (s.eng.beat + announceDist s)))) ∧
        Frame [.fns] s u ∧ jobAt u (cIx c) = some k ∧ k.stopWanted = some (some c.req) ∧ k.stopFrom = some (s.eng.beat + announceDist s) ∧
        k.committed = j.committed ∧ ∀ g, g ≠ cIx c → fnAt u g = fnAt s g) ∧
    (∀ ci, fnState s (cIx c) = 4 → (∀ q, j.stopWanted ≠ some (some q)) → j.stopFrom = none → j.commit = some ci → ci.applied = false →
      ∃ u k, exec (.snapTake c) s = .next (answer u c (replyAccepted (natLE 8 (j.committed.step + 1) ++ natLE 8 (ci.beat + quietWindow s + 1)))) ∧
        Frame [.fns] s u ∧ jobAt u (cIx c) = some k ∧ k.stopWanted = some (some c.req) ∧ k.stopFrom = none ∧ k.commit = j.commit) ∧
    (∀ q, j.stopWanted = some (some q) → exec (.snapTake c) s = .next s)) ∧
  (∀ (s : State) (c : Cmd) (j : Job), MayStart s c → s.fns.length = 4 → jobAt s (cIx c) = some j → j.policyNext = none →
    ((fnState s (cIx c) = 2 ∨ fnState s (cIx c) = 3) → ∃ u k, exec (.snapPolicy c) s = .next (answer u c (policyReply k.hdr.policy)) ∧
      Frame [.fns] s u ∧ jobAt u (cIx c) = some k ∧ (j.plan = none → k.hdr.policy = k.policyWanted) ∧ k.plan = j.plan ∧
      k.policyWanted = policyOf (coordSize (mapLengths s)) (mapLengths s).d (fit 32 c.payload) ∧ k.committed = j.committed) ∧
    (fnState s (cIx c) = 4 → ∃ u k r, exec (.snapPolicy c) s = .next (answer u c r) ∧ Frame [.fns] s u ∧ jobAt u (cIx c) = some k ∧
      k.hdr.policy = j.hdr.policy ∧ k.run = j.run ∧
      (k.policyNext = some (k.policyWanted, some c.req) ∨ r = policyReply j.hdr.policy))) ∧
  (∀ (s : State) (c : Cmd) (j : Job), MayStart s c → s.fns.length = 4 → (fnState s (cIx c) = 3 ∨ fnState s (cIx c) = 4) →
    jobAt s (cIx c) = some j →
    ((j.hdr.exportMode = 0 ∨ 2 ≤ cArg c 48 1) → exec (.snapExport c) s = .next (answer s c (replyRefused s c 4 48))) ∧
    (j.hdr.exportMode ≠ 0 → cArg c 48 1 < 2 → j.exporting ≠ none → exec (.snapExport c) s = .next (answer s c (replyBusy 1))) ∧
    (j.hdr.exportMode ≠ 0 → cArg c 48 1 < 2 → j.exporting = none →
      ∃ u k x, exec (.snapExport c) s = .next (answer u c (replyAccepted (natLE 8 (j.lastEnd.getD (2 ^ 64 - 1)) ++ zeros 8))) ∧
        Frame [.fns] s u ∧ jobAt u (cIx c) = some k ∧ k.exporting = some x ∧ x.req = c.req ∧ k.committed = j.committed ∧
        ∀ g, g ≠ cIx c → fnAt u g = fnAt s g)) ∧
  (∀ (s : State) (c : Cmd), MayStart s c → fnState s (cIx c) = 2 → exec (.snapRestore c) s = .next (answer s c (replyRefused s c 5 0xFFFF))) ∧
  (∀ (s : State) (c : Cmd) (j : Job), MayStart s c → s.fns.length = 4 → fnState s (cIx c) = 3 → jobAt s (cIx c) = some j →
    ((j.restoring ≠ none ∨ j.stopEnd ≠ none) → exec (.snapRestore c) s = .next (answer s c (replyBusy 1))) ∧
    (j.restoring = none → j.stopEnd = none → chooseRestore s (cIx c) (testDrives (fnAt s (cIx c)) j) c = none →
      exec (.snapRestore c) s = .next (answer s c (replyFailed 0 []))) ∧
    (∀ k i lv x, j.restoring = none → j.stopEnd = none → chooseRestore s (cIx c) (testDrives (fnAt s (cIx c)) j) c = some (k, i, lv) → k.chrysalises[i]? = some x →
      ∃ u m, exec (.snapRestore c) s = .next (answer u c (replyAccepted (natLE 8 x.record.step ++ natLE 1 lv))) ∧
        Frame [.fns, .pow] s u ∧ jobAt u (cIx c) = some m ∧ m.restoring = some (some c.req, i, lv) ∧ m.committed = k.committed)) ∧
  ∀ (s : State) (c : Cmd), MayStart s c →
    (∀ j, (fnState s (cIx c) = 2 ∨ fnState s (cIx c) = 3 ∨ fnState s (cIx c) = 4) → jobAt s (cIx c) = some j →
      exec (.snapList c) s = .next (answer s c (replyRes (natLE 4 j.chrysalises.length) (j.chrysalises.map listEntry).flatten))) ∧
    (fnState s (cIx c) = 1 → exec (.snapList c) s =
      .next (answer s c (replyRes (natLE 4 (fnAt s (cIx c)).drives.length) ((fnAt s (cIx c)).drives.map (driveEntry (fnAt s (cIx c)))).flatten)))

/-- O41. R365, R366, R369, R370, R376 to R378, R381: a stop begins with a new chrysalis of the committed step and moves every later plan
beat by its length; at its end level 0 is sealed with the image of the banks; a level-1 or level-2 copy that completes marks that
chrysalis, and level 2 is stored sealed under the function's key; the copies of a restore put the record in force, level 2's as the drive
holds it (R481), and answer the command; after the transfers of a recovery the member waits
for the anchor, which the root announces. -/
def Obligations.ChrysalisLife : Prop :=
  (∀ (s : State) (f : Nat) (j : Job), s.fns.length = 4 → f < 4 → jobAt s f = some j →
    ∃ t k, exec (.snapshotStopBegin f) s = .next t ∧ jobAt t f = some k ∧ Frame [.fns] s t ∧ (∀ g, g ≠ f → fnAt t g = fnAt s g) ∧
      (stopBegins s j = false → k = j) ∧
      (stopBegins s j = true → k.stopEnd = some (s.eng.beat + stopBeats s j) ∧ k.committed = j.committed ∧
        k.anchor = j.anchor.map (· + (stopBeats s j : Int)) ∧
        ∃ x, k.chrysalises.head? = some x ∧ x.record = j.committed ∧ x.stopBeat = s.eng.beat ∧ x.level0 = false ∧
          x.planVersion = j.planVersion ∧ x.seed = j.hdr.seed ∧ ∀ y ∈ k.chrysalises, y.level0 = false)) ∧
  (∀ (s : State) (f e : Nat) (j : Job) (x : Chrysalis) (r : List Chrysalis), s.fns.length = 4 → f < 4 → jobAt s f = some j →
    j.stopEnd = some e → j.chrysalises = x :: r →
    (s.eng.beat < e → exec (.snapshotStopEnd f) s = .next s) ∧
    (e ≤ s.eng.beat → ∃ t k y, exec (.snapshotStopEnd f) s = .next t ∧ jobAt t f = some k ∧ k.stopEnd = none ∧ k.stopWanted = none ∧
      k.lastStop = s.eng.beat ∧ k.taken = j.taken + 1 ∧ k.chrysalises.head? = some y ∧ y.level0 = true ∧ y.record = x.record ∧
      y.image = captureImage s f j ∧ (∀ a, memGet t.st.mem a = memGet s.st.mem a) ∧ ∀ g, g ≠ f → fnAt t g = fnAt s g)) ∧
  (∀ (s : State) (f : Nat) (j : Job) (x : Chrysalis) (r : List Chrysalis), s.fns.length = 4 → f < 4 → jobAt s f = some j →
    j.chrysalises = x :: r →
    (j.l1Busy = true → ∃ t k, exec (.level1Complete f) s = .next t ∧ jobAt t f = some k ∧ Frame [.fns] s t ∧ k.l1Busy = false ∧
      k.chrysalises = { x with level1 := true } :: r ∧ k.committed = j.committed) ∧
    (∀ w, j.l2Busy = true → 0 < j.hdr.policy.l2Keep → (fnAt s f).l2Key = some w → ∃ t k y, exec (.level2Complete f) s = .next t ∧ jobAt t f = some k ∧ Frame [.fns] s t ∧
      k.l2Busy = false ∧ k.chrysalises.head? = some y ∧ y.level2 = true ∧ y.record = x.record ∧
      (fnAt t f).drives = (driveBytes w { j with chrysalises := { x with level2 := true } :: r } { x with level2 := true } ::
        (fnAt s f).drives).take j.hdr.policy.l2Keep) ∧
    (j.l2Busy = false → exec (.level2Complete f) s = .next s)) ∧
  (∀ (s : State) (f q i lv : Nat) (j : Job) (x : Chrysalis), s.fns.length = 4 → f < 4 → jobAt s f = some j →
    j.restoring = some (some q, i, lv) → j.chrysalises[i]? = some x → j.loss = none →
    ∃ t k y, exec (.restoreComplete f) s = .next t ∧ jobAt t f = some k ∧ y = restoredFrom s f lv j x ∧ (lv ≠ 4 → y = x) ∧
      k.committed = y.record ∧ k.restoring = none ∧ k.holding = [] ∧ k.attempt = 0 ∧ k.hdr.seed = y.seed ∧ k.sigma = y.record.lsExp ∧ k.exportGap = true ∧ t.flash = s.flash ∧
      ∀ g, g ≠ f → fnAt t g = fnAt s g) ∧
  ∀ (s : State) (f i lv : Nat) (j : Job) (x : Chrysalis), s.fns.length = 4 → f < 4 → jobAt s f = some j →
    j.recovery = .transfers → j.restoring = some (none, i, lv) → j.chrysalises[i]? = some x → j.loss = none → j.gone = false →
    ∃ t k y, exec (.recoveryTransfersComplete f) s = .next t ∧ jobAt t f = some k ∧ y = restoredFrom s f lv j x ∧ (lv ≠ 4 → y = x) ∧
      k.committed = y.record ∧ k.restoring = none ∧
      k.transfersDue = false ∧ (isRoot s j = false → k.recovery = .transfers ∧ k.replay = none) ∧
      (isRoot s j = true → y.record.step = x.record.step → x.record.step < 2 ^ 32 → x.record.lsExp < 256 → s.eng.beat + announceDist s < 2 ^ 64 →
        k.recovery = .none ∧ k.replay = some (2, s.eng.beat + announceDist s))

/-- O42. R501, R513, R514, R323, R331: presence of a cable or of power-good starts training of a port that is down, the cable read leads to
lane lock or to refusal with the cable's power off; a removed cable or an overcurrent takes the port out. Other ports keep their state.
R323, R324, R325, R44, R328, Table 10.7: lane lock needs eight good lanes of nine, keeps the best eight and the spare and names a missing
spare; FEC lock follows; 64 equal round trips give half of one as the latency, and at the base period its class; time lock ends training;
a stage after the cable read that is missed restarts training once, a second miss leaves the port down. -/
def Obligations.CablesAndTraining : Prop :=
  (∀ (s : State) (p : Nat), s.fab.ports.length = 9 → p < 8 →
    (p % 4 ≠ 0 → 8 ≤ s.pow.stage → s.pow.standby = none → s.pow.state ≠ 5 → s.fab.map = none → (portAt s p).pstate = 0 →
      ∃ t, exec (.cableInserted p) s = .next t ∧ Frame [.fab] s t ∧ (portAt t p).pstate = 1 ∧ (portAt t p).stage = 2 ∧
        (portAt t p).present = true ∧ (portAt t p).power = true ∧ (∀ q, q ≠ p → portAt t q = portAt s q)) ∧
    (p % 4 = 0 → 8 ≤ s.pow.stage → s.pow.standby = none → s.pow.state ≠ 5 → s.fab.map = none → (portAt s p).pstate = 0 →
      ∃ t, exec (.backplanePowerGood p) s = .next t ∧ Frame [.fab] s t ∧ (portAt t p).pstate = 1 ∧ (portAt t p).stage = 3 ∧
        (portAt t p).present = true ∧ (∀ q, q ≠ p → portAt t q = portAt s q)) ∧
    (∀ i : CableInfo, p % 4 ≠ 0 → (portAt s p).pstate = 1 → (portAt s p).stage = 2 →
      (i.readable = true → 9 ≤ i.lanes → i.deciwatts ≤ 120 → (i.optical = true ↔ p % 4 ≠ 1) →
        exec (.cableReadDone p i) s = .next (setPort s p fun x => { x with stage := 3 })) ∧
      ((i.readable = false ∨ i.lanes < 9 ∨ 120 < i.deciwatts ∨ ¬ (i.optical = true ↔ p % 4 ≠ 1)) →
        ∃ t, exec (.cableReadDone p i) s = .next t ∧ (portAt t p).pstate = 4 ∧ (portAt t p).power = false ∧
          (∀ q, q ≠ p → portAt t q = portAt s q) ∧ t.st = s.st ∧ t.fns = s.fns)) ∧
    (p % 4 ≠ 0 → ∃ t, exec (.cableRemoved p) s = .next t ∧ (portAt t p).pstate = 0 ∧ (portAt t p).present = false ∧
      (portAt t p).power = false ∧ t.flash = s.flash ∧ t.st.mem = s.st.mem) ∧
    (p % 4 ≠ 0 → (portAt s p).power = true → ∃ t, exec (.cableOvercurrent p) s = .next t ∧ (portAt t p).pstate = 4 ∧
      (portAt t p).power = false ∧ t.flash = s.flash ∧ t.st.mem = s.st.mem)) ∧
  (∀ (s : State) (p : Nat), s.fab.ports.length = 9 → p < 8 → (portAt s p).pstate = 1 →
    (∀ ms : List (Option Nat), (portAt s p).stage = 3 → 8 ≤ (ms.filter fun m => m.isSome).length →
      ∃ t, exec (.trainingStageDone p ms) s = .next t ∧ (portAt t p).stage = 4 ∧ (portAt t p).lanes = 8 ∧
        (portAt t p).dataLanes = (bestLanes ms).take 8 ∧ (portAt t p).spareLane = (bestLanes ms)[8]? ∧
        ((portAt t p).spare = true ↔ 9 ≤ (ms.filter fun m => m.isSome).length) ∧ (∀ q, q ≠ p → portAt t q = portAt s q) ∧
        t.st = s.st ∧ t.fns = s.fns ∧ t.flash = s.flash) ∧
    (∀ ms : List (Option Nat), (portAt s p).stage = 3 → (ms.filter fun m => m.isSome).length < 8 →
      ∃ t, exec (.trainingStageDone p ms) s = .next t ∧ (portAt t p).pstate = 0) ∧
    (∀ ms : List (Option Nat), (portAt s p).stage = 4 →
      exec (.trainingStageDone p ms) s = .next (setPort s p fun x => { x with stage := 5 })) ∧
    (∀ (rts : List Nat) (x : Nat), (portAt s p).stage = 5 → rts = List.replicate 64 x →
      ∃ t, exec (.latencyMeasured p rts) s = .next t ∧ Frame [.fab, .sent] s t ∧ (portAt t p).latencyPs = x / 2 ∧ (portAt t p).stage = 6 ∧
        (p % 4 = 0 → (portAt t p).lambda = 0) ∧
        (p % 4 ≠ 0 → s.eng.period = 8000 → (portAt t p).lambda = (x / 2 - 200000 + 7999999) / 8000000) ∧
        (∀ q, q ≠ p → portAt t q = portAt s q)) ∧
    ((portAt s p).stage = 8 → (portAt s p).admitted = false →
      exec (.portTimeLock p) s = .next (setPort s p fun x => { x with stage := 9, syncRun := 0 })) ∧
    ((portAt s p).stage = 8 → (portAt s p).admitted = true → (∀ x ∈ s.fns, x.job = none) →
      exec (.portTimeLock p) s = .next (setPort (setPort s p fun x => { x with stage := 9, syncRun := 0 }) p
        fun x => { x with serviceAt := some (s.eng.beat + 1) })) ∧
    ((portAt s p).stage ≠ 2 → (portAt s p).tries = 0 →
      ∃ t, exec (.trainingStageTimeout p) s = .next t ∧ Frame [.fab] s t ∧ (portAt t p).pstate = 1 ∧ (portAt t p).tries = 1 ∧
        (portAt t p).stage = (if p % 4 = 0 then 3 else 2) ∧ (∀ q, q ≠ p → portAt t q = portAt s q)) ∧
    ((portAt s p).stage ≠ 2 → (portAt s p).tries ≠ 0 →
      ∃ t, exec (.trainingStageTimeout p) s = .next t ∧ (portAt t p).pstate = 0))

/-- O43. R326, R327, R328: an identity record that meets the conditions of R327 admits the port, any other one is refused, with its
partner's serial kept; without a map nothing is admitted and training goes on. R32, log 154: a record of a system that this device joins
gives it the count and the master. R13: a record whose flag says that its cluster is short makes its sender absent for jobs. -/
def Obligations.IdentityAdmits : Prop :=
  ∀ (s : State) (p : Nat) (r : Bytes), s.fab.ports.length = 9 → p < 8 → (portAt s p).pstate = 1 → (portAt s p).stage = 6 →
    s.fab.admitting = none → ownConf s = false → bit (rd r 56 1) 4 = false →
    (joins s r = false → bit (rd r 56 1) 3 = false →
      (s.fab.map = none → ∃ t, exec (.identRecord p r) s = .next t ∧ Frame [.fab] s t ∧ (portAt t p).stage = 8 ∧
        (portAt t p).partner = rd r 0 8 ∧ (portAt t p).admitted = (portAt s p).admitted) ∧
      (s.fab.map ≠ none → s.fab.drain = none → s.fab.safe = false →
        (admissible s p r = true → ∃ t, exec (.identRecord p r) s = .next t ∧ Frame [.fab] s t ∧ (portAt t p).admitted = true ∧
          (portAt t p).pstate = 1 ∧ (portAt t p).stage = 8 ∧ (portAt t p).partner = rd r 0 8 ∧ (∀ q, q ≠ p → portAt t q = portAt s q)) ∧
        (admissible s p r = false → ∃ t, exec (.identRecord p r) s = .next t ∧ (portAt t p).admitted = false ∧
          (portAt t p).pstate = 3 ∧ (portAt t p).partner = rd r 0 8 ∧ (∀ q, q ≠ p → portAt t q = portAt s q) ∧ t.st = s.st ∧ t.fns = s.fns))) ∧
    (s.eng.master = none → s.eng.inLock = false → bit (rd r 56 1) 0 = true → bit (rd r 56 1) 3 = false → s.fab.map = none →
      ∃ t, exec (.identRecord p r) s = .next t ∧ Frame [.fab, .eng] s t ∧ t.eng.beat = rd r 40 8 ∧ t.eng.master = some (rd r 48 8) ∧
        t.eng.inLock = false ∧ t.eng.period = s.eng.period ∧ t.eng.level = s.eng.level) ∧
    (∀ m, s.fab.map = some m → bit (rd r 56 1) 3 = true → (∀ x ∈ s.fns, x.job = none) →
      ∃ t m', exec (.identRecord p r) s = .next t ∧ t.fab.map = some m' ∧ rd r 0 8 ∈ m'.absent ∧ m'.modules = m.modules ∧ m'.gone = m.gone ∧
        t.st = s.st ∧ t.fns = s.fns)

/-- O44. R338 to R341, R318, R320, R321: a verified key agreement encrypts the port under the keys of R339, a failed one takes it down; a
rekey replaces the transmit key at a multiple of 2^32 flits; a good flit in sequence advances the expected number and empties the retry
buffer up to its acknowledgement, and one that asks has the flits from that number on sent again, as far as the phase lets them go; a
failed check asks once more, by a flit at once; a ninth request, or 10 us without a good flit, takes the port down. R314, R315, R316: the
spare lane takes over the first failed lane of a direction and the port stays up; without a spare left the port goes down. -/
def Obligations.PortLife : Prop :=
  (∀ (s : State) (p : Nat), s.fab.ports.length = 9 → p < 8 → (portAt s p).pstate = 2 →
    (∀ b, (portAt s p).keying = true → ∃ t, exec (.keyx p b true) s = .next t ∧ Frame [.fab] s t ∧ (portAt t p).enc = true ∧
      (portAt t p).keying = false ∧ ((portAt t p).keyTx, (portAt t p).keyRx) = linkKeys s p (portAt s p).keyOwn b ∧
      (portAt t p).ctrTx = (portAt s p).seqTx ∧ (portAt t p).ctrRx = (portAt s p).seqRx ∧ (∀ q, q ≠ p → portAt t q = portAt s q)) ∧
    (∀ b, (portAt s p).keying = false → ∃ t, exec (.keyx p b true) s = .next t ∧ Frame [.fab, .sent, .free] s t ∧ (portAt t p).enc = true ∧
      (portAt t p).keying = false ∧ (portAt t p).keyOwn = Config.keyxFlit s.free p s.eng.beat deviceIdKey ∧ t.free = s.free + 1 ∧
      t.fab.sent = s.fab.sent ++ [.keyx p] ∧ (∀ q, q ≠ p → portAt t q = portAt s q)) ∧
    (∀ b, ∃ t, exec (.keyx p b false) s = .next t ∧ (portAt t p).pstate = 0) ∧
    ((portAt s p).enc = true → (portAt s p).ctrTx % 2 ^ 32 = 0 → (portAt s p).ctrRx % 2 ^ 32 ≠ 0 →
      ∃ t, exec (.linkRekey p) s = .next t ∧ Frame [.fab] s t ∧ (portAt t p).keyRx = (portAt s p).keyRx ∧
        (portAt t p).keyTx = hkdfExpand ((portAt s p).keyTx.take 32) (ascii "next") 36 ∧ (∀ q, q ≠ p → portAt t q = portAt s q)) ∧
    ((portAt s p).enc = false → exec (.linkRekey p) s = .next s) ∧
    (∀ (fl : Bytes) (clean : Bool), fl.length = 256 → flitGood s (portAt s p) fl = true → bit (rd fl 0 1) 5 = false →
      rd fl 0 1 % 16 ≠ 0 → rd fl 0 1 % 16 ≠ 1 → rd fl 2 2 = (portAt s p).seqRx →
      ∃ t, exec (.flitReceived p fl clean) s = .next t ∧ Frame [.fab] s t ∧ (portAt t p).seqRx = ((portAt s p).seqRx + 1) % 65536 ∧
        (portAt t p).ctrRx = (portAt s p).ctrRx + 1 ∧ (portAt t p).asked = none ∧ (portAt t p).partnerLstate = rd fl 1 1 % 8 ∧
        (∀ e, e ∈ (portAt t p).retry ↔ e ∈ (portAt s p).retry ∧ seqLe e.1 (rd fl 4 2) = false) ∧
        (portAt t p).seqTx = (portAt s p).seqTx ∧ (∀ q, q ≠ p → portAt t q = portAt s q)) ∧
    (∀ (fl : Bytes) (clean : Bool), fl.length = 256 → flitGood s (portAt s p) fl = true → bit (rd fl 0 1) 5 = true →
      ∃ t, exec (.flitReceived p fl clean) s = .next t ∧ Frame [.fab, .sent] s t ∧
        t.fab.sent = s.fab.sent ++ (((portAt s p).retry.filter fun e => seqLe (rd fl 4 2) e.1).takeWhile
          fun e => mayResend s.eng.phase (rd e.2 0 1 % 16)).map (fun e => Sent.resend p e.1 e.2) ∧
        (portAt t p).retry = (portAt s p).retry.filter (fun e => seqLe (rd fl 4 2) e.1) ∧ (∀ q, q ≠ p → portAt t q = portAt s q)) ∧
    (∀ (fl : Bytes) (n : Nat), fl.length = 256 → flitGood s (portAt s p) fl = false → rd fl 0 1 % 16 ≠ 1 →
      (portAt s p).asked = some ((portAt s p).seqRx, n) → n < 8 →
      ∃ t, exec (.flitReceived p fl false) s = .next t ∧ Frame [.fab, .sent] s t ∧
        (portAt t p).asked = some ((portAt s p).seqRx, n + 1) ∧ t.fab.sent = s.fab.sent ++ [.nak p (portAt s p).seqRx] ∧
        (portAt t p).seqRx = (portAt s p).seqRx ∧ (portAt t p).flits = sat (2 ^ 64 - 1) ((portAt s p).flits + 1) ∧
        (∀ q, q ≠ p → portAt t q = portAt s q)) ∧
    (∀ fl : Bytes, fl.length = 256 → flitGood s (portAt s p) fl = false → rd fl 0 1 % 16 ≠ 1 →
      (portAt s p).asked = some ((portAt s p).seqRx, 8) → ∃ t, exec (.flitReceived p fl false) s = .next t ∧ (portAt t p).pstate = 0) ∧
    ∃ t, exec (.checkTimeout p) s = .next t ∧ (portAt t p).pstate = 0 ∧ t.flash = s.flash ∧ t.st.mem = s.st.mem) ∧
  (∀ (s : State) (p lane : Nat), s.fab.ports.length = 9 → p < 8 → (portAt s p).pstate = 2 → (portAt s p).laneFails < 2 ^ 32 - 1 →
    ((portAt s p).spare = true → (portAt s p).failedRx = none →
      ∃ t, exec (.laneFailed p true lane) s = .next t ∧ (portAt t p).pstate = 2 ∧ (portAt t p).failedRx = some lane ∧
        (portAt t p).failedTx = (portAt s p).failedTx ∧ (portAt t p).laneFails = (portAt s p).laneFails + 1 ∧
        (∀ q, q ≠ p → portAt t q = portAt s q) ∧ t.st = s.st ∧ t.fns = s.fns ∧ t.flash = s.flash) ∧
    ((portAt s p).spare = true → (portAt s p).failedTx = none →
      ∃ t, exec (.laneFailed p false lane) s = .next t ∧ (portAt t p).pstate = 2 ∧ (portAt t p).failedTx = some lane ∧
        (portAt t p).failedRx = (portAt s p).failedRx) ∧
    ((portAt s p).spare = false ∨ (portAt s p).failedRx ≠ none → (portAt s p).failedRx ≠ some lane →
      ∃ t, exec (.laneFailed p true lane) s = .next t ∧ (portAt t p).pstate = 0))

/-- O45. R342, R343, R344: the device whose service lanes are enabled becomes the bridge, unless a lower slot trains too; a retrained
service port works at the widest healthy width; a device that takes the bridge over holds the results kept for the lost one. R434,
R334, Table 13.14: LINK.STATUS returns 64 bytes a port and LINK.MAPINFO the axes, lengths and plan version of the map in force. R435: a
map payload with a fault is refused at the offset of the fault, one whose lengths lie outside R5 at offset 8 (log 155); LINK.ADMIT takes
the map of its payload. -/
def Obligations.BridgeAndLinks : Prop :=
  (∀ (s : State), s.fab.ports.length = 9 →
    (∃ t, exec (.serviceLanesEnabled none) s = .next t ∧ t.fab.bridge = true ∧ (portAt t 8).pstate = 2 ∧ (portAt t 8).lanes = 4 ∧
      t.st = s.st ∧ t.fns = s.fns ∧ t.flash = s.flash ∧ t.mbx = s.mbx) ∧
    (∀ o, o < s.pow.slotId → ∃ t, exec (.serviceLanesEnabled (some o)) s = .next t ∧ t.fab.serviceIdle = true ∧
      t.fab.bridge = s.fab.bridge ∧ t.st = s.st ∧ t.fns = s.fns) ∧
    (∀ n, (portAt s 8).pstate = 1 → 0 < n → n ≤ 4 → ∃ t, exec (.servicePortRetrained n) s = .next t ∧ t.fab.bridge = true ∧
      (portAt t 8).pstate = 2 ∧ (portAt t 8).lanes = (if n = 3 then 2 else n) ∧ t.st = s.st ∧ t.fns = s.fns) ∧
    ((portAt s 8).pstate = 1 → ∃ t, exec (.servicePortRetrained 0) s = .next t ∧ t.fab.bridge = false ∧ (portAt t 8).pstate = 0) ∧
    (s.mbx.flights = [] → s.fab.drainWaits = none → ∃ t, exec (.bridgeLost true) s = .next t ∧ t.fab.bridge = true ∧ (portAt t 8).pstate = 2 ∧
      t.mbx.held = s.mbx.held ++ s.mbx.kept ∧ t.mbx.kept = [] ∧ t.st = s.st ∧ t.fns = s.fns) ∧
    (s.fab.bridge = true → s.fab.drainWaits = none → ∃ t, exec (.bridgeLost false) s = .next t ∧ t.fab.bridge = false ∧ (portAt t 8).pstate = 0 ∧
      t.mbx.rings = List.replicate 9 RingPair.off ∧ t.st = s.st ∧ t.fns = s.fns)) ∧
  (∀ (s : State) (c : Cmd), MayStart s c →
    (cArg c 32 1 = 0xFF → s.fab.ports.length = 9 → ∃ b, exec (.linkStatus c) s = .next (answer s c (replyRes [9] b)) ∧ b.length = 576) ∧
    (cArg c 32 1 < 8 → ∃ b, exec (.linkStatus c) s = .next (answer s c (replyRes [1] b)) ∧ b.length = 64 ∧
      rd b 0 1 = (portAt s (cArg c 32 1)).code % 256 ∧ rd b 1 1 = (portAt s (cArg c 32 1)).pstate % 256 ∧
      rd b 8 4 = (portAt s (cArg c 32 1)).latencyPs % 2 ^ 32 ∧ rd b 16 8 = (portAt s (cArg c 32 1)).partner % 2 ^ 64) ∧
    (8 ≤ cArg c 32 1 → cArg c 32 1 ≠ 0xFF → cArg c 32 1 ≠ 0x80 → exec (.linkStatus c) s = .next (answer s c (replyRefused s c 4 32))) ∧
    ((∀ x ∈ s.fns, x.job = none) → ∃ b, exec (.linkMapinfo c) s = .next (answer s c (replyRes [0, 1, 2, 3] b)) ∧
      slice b 0 4 = [0, 1, 2, 3] ∧ slice b 4 4 = coordBytes (mapLengths s) ∧ rd b 12 4 = 0) ∧
    (∀ j, mapJob s = some j → j.axes.length = 4 → ∃ b, exec (.linkMapinfo c) s = .next (answer s c (replyRes (b.take 4) b)) ∧
      (∀ i, i < 4 → rd b i 1 = j.axes.getD i 0 % 256) ∧ slice b 4 4 = coordBytes j.lengths ∧ rd b 12 4 = j.planVersion % 2 ^ 32) ∧
    (32 ≤ c.payload.length → lengthsLegal (coordOf c.payload 8) = false → exec (.linkAdmit c) s = .next (answer s c (replyRefused s c 0 8))) ∧
    (∀ off, mapError c.payload = some off → exec (.linkAdmit c) s = .next (answer s c (replyRefused s c 0 off))) ∧
    (mapError c.payload = none → s.fab.admitting = none → s.fab.ports.length = 9 →
      ∃ t m, exec (.linkAdmit c) s = .next t ∧ t.fab.map = some m ∧ m.systemId = rd c.payload 0 8 ∧ m.lengths = coordOf c.payload 8 ∧
        m.modules = mapModules c.payload ∧ m.gone = [] ∧ t.fab.safe = false ∧ t.flash = s.flash ∧ t.st = s.st))

/-- O46. R345, R346, R438, R512: a drain of the module is accepted, takes its ports out of service and, without a job, completes at once as
safe to remove; one that would leave an illegal shape is refused with reason 8; a second one with reason 2; one of a bridge waits for the
bridge role to move while the tray has another module (log 173), and starts when it has moved. -/
def Obligations.DrainToSafe : Prop :=
  ∀ (s : State) (c : Cmd), MayStart s c → cArg c 32 1 = 0 → s.fab.ports.length = 9 →
    (s.fab.drain ≠ none ∨ s.fab.safe = true → exec (.linkDrain c) s = .next (answer s c (replyRefused s c 2 0xFFFF))) ∧
    (s.fab.drain = none → s.fab.drainWaits = none → s.fab.safe = false →
      (drainLegal s = false → exec (.linkDrain c) s = .next (answer s c (replyRefused s c 8 0xFFFF))) ∧
      ((∀ x ∈ s.fns, x.job = none) → bridgeFirst s 0 = true → ∃ t, exec (.linkDrain c) s = .next t ∧ t.fab.drain = none ∧
        t.fab.drainWaits = some (0, cArg c 33 1, some c.req) ∧ t.fab.ports = s.fab.ports ∧ t.st = s.st ∧ t.fns = s.fns ∧ t.flash = s.flash) ∧
      ((∀ x ∈ s.fns, x.job = none ∧ x.molt = none) → bridgeFirst s 0 = false →
        ∃ t, exec (.linkDrain c) s = .next t ∧ t.fab.safe = true ∧ t.fab.safeBeat = s.eng.beat ∧ t.fab.drain = none ∧
          (∀ p, p < 8 → (portAt t p).pstate = (if (portAt s p).pstate = 2 then 5 else (portAt s p).pstate)) ∧
          t.st = s.st ∧ t.flash = s.flash)) ∧
    (∀ req, s.fab.drain = none → s.fab.drainWaits = some (0, 0, req) → s.fab.bridge = true → s.mbx.flights = [] →
      (∀ x ∈ s.fns, x.job = none ∧ x.molt = none) → ∃ t, exec (.bridgeLost false) s = .next t ∧ t.fab.safe = true ∧ t.fab.bridge = false)

/-- O47. R186, R187, R189, R196 to R198, R177, R179, R356, R357: scrubbing a clean granule (64 bytes of far memory, 256 of near memory)
moves the patrol on; a corrected error is counted for its store; an uncorrectable granule that no function holds is rewritten with zeros,
and the word of one that is held stays marked; an occupancy window leaves its counts and percentage; tracking and self refresh change
only the state of the far memory; a self-test in which both units pass marks both and ends the job's wait. -/
def Obligations.MemoryUpkeep : Prop :=
  (∀ (s : State) (a : Nat), exec (.patrolScrub a .clean) s =
    .next { s with st := { s.st with scrubNext := granuleOf a + (if regionOf a = .far then 64 else 256) } }) ∧
  (∀ (s : State) (a row : Nat), s.st.rowErrors.length < 15 → ∃ t, exec (.patrolScrub a (.corrected row)) s = .next t ∧
    Frame [.stores, .pow] s t ∧ t.st.scrubNext = granuleOf a + granuleLen a ∧ t.st.bad = s.st.bad ∧
    t.pow.corrected = updNth s.pow.corrected (if regionOf a = .far then 5 else 3) (fun n => sat (2 ^ 32 - 1) (n + 1))) ∧
  (∀ (s : State) (a : Nat), allocOwner s (granuleOf a) = none → ∃ t, exec (.patrolScrub a .uncorrectable) s = .next t ∧
    (∀ x, memGet t.st.mem x = if granuleOf a ≤ x ∧ x < granuleOf a + granuleLen a then 0 else memGet s.st.mem x) ∧
    (∀ w ∈ t.st.bad, ¬ (granuleOf a ≤ w.1 ∧ w.1 + w.2 ≤ granuleOf a + granuleLen a)) ∧ t.fns = s.fns ∧ t.flash = s.flash) ∧
  (∀ (s : State) (a f : Nat), allocOwner s (granuleOf a) = some f → jobAt s f = none → regionOf a ≠ .reserved →
    ∃ t, exec (.patrolScrub a .uncorrectable) s = .next t ∧ Frame [.stores, .pow] s t ∧
      (a / wordLen a * wordLen a, wordLen a) ∈ t.st.bad) ∧
  (∀ (s : State) (occ : List Nat) (moved : Nat), occ.length = 128 → ∃ t, exec (.occupancyWindowEnd occ moved) s = .next t ∧
    t.st.occupancy = occ ∧ t.st.windowEnd = s.eng.beat ∧ (∀ a, memGet t.st.mem a = memGet s.st.mem a) ∧ t.fns = s.fns ∧
    (0 < sumNat occ → maxNat occ * 128 * 100 / sumNat occ ≤ 65535 → t.st.imbalance = maxNat occ * 128 * 100 / sumNat occ) ∧
    ((maxNat occ * 128 * 100 ≤ imbalancePct s * sumNat occ ∨ sumNat occ / 128 < 64 ∨ confidentialAny s = true) → Frame [.stores] s t)) ∧
  (∀ s : State, exec .oscillatorTracking s =
    .next (if s.st.farState = 2 then { s with st := { s.st with trackings := s.st.trackings + 1 } } else s)) ∧
  (∀ s : State, ((∃ x ∈ s.fns, x.job ≠ none) → exec .selfRefreshEntry s = .next s) ∧
    (s.st.farState = 2 → (∀ x ∈ s.fns, x.job = none) →
      exec .selfRefreshEntry s = .next { s with st := { s.st with farState := 1 } })) ∧
  (∀ (s : State) (f a b : Nat) (j : Job), s.fns.length = 4 → f < 4 → jobAt s f = some j → j.recovery ≠ .voting → s.st.marks = [] →
    ∃ t k, exec (.coreSelftestDone f a b false false) s = .next t ∧ jobAt t f = some k ∧ k.testing = false ∧ k.committed = j.committed ∧
      (true, b, s.eng.beat) ∈ t.st.marks ∧ Frame [.stores, .pow, .fns] s t ∧ ∀ g, g ≠ f → fnAt t g = fnAt s g) ∧
  ∀ (s : State) (f e : Nat) (j : Job), s.fns.length = 4 → f < 4 → jobAt s f = some j → j.recovery ≠ .voting → s.st.marks = [] →
    (∃ t k, exec (.engineSelftestDone f e false false) s = .next t ∧ jobAt t f = some k ∧ k.testing = false ∧
      (false, e ^^^ 2, s.eng.beat) ∈ t.st.marks ∧ Frame [.stores, .pow, .fns] s t ∧ t.face.service = s.face.service) ∧
    ∃ t k, exec (.engineSelftestDone f e true false) s = .next t ∧ jobAt t f = some k ∧ k.testing = false ∧ t.face.service = true

/-- O48. R453 to R455, R55: while main logic is on and the clock is above its floor, a sample above 1,380 W (or a die above 95 °C) lowers
the clock by 25 MHz, not below the floor; one below 1,340 W with every die below 92 °C raises it by 25 MHz up to 1,900; one between
keeps it; without the limiter and a mean of 1,400 W no sample leaves it below the floor (log 150). Without the limiter and with enough far-memory bandwidth no stretch is asked for, and nothing but the power manager's own
values changes. At the floor the fourth sample in a row above 1,380 W asks for the next stretch level; a 1 ms mean of 1,400 W there
lets the limiter go below the floor. -/
def Obligations.PowerManagement : Prop :=
  (∀ (s : State) (r : PowerReading), (s.pow.input = false ∨ s.pow.standby ≠ none ∨ s.pow.stage < 4) → exec (.powerSample r) s = .next s) ∧
  (∀ (s : State) (r : PowerReading), s.pow.input = true → s.pow.standby = none → 4 ≤ s.pow.stage → s.pow.limiter = false →
    clockFloor s < s.pow.clock → r.farShort = false →
    ∃ t, exec (.powerSample r) s = .next t ∧ Frame [.pow, .eng] s t ∧ t.eng.level = s.eng.level ∧ t.eng.requested = s.eng.requested ∧
      t.pow.reading = r ∧ t.pow.hotSamples = 0 ∧ t.pow.peakW = max s.pow.peakW r.meanW ∧
      ((1380 < r.sampleW ∨ 95 < r.tMax) → t.pow.clock = max (clockFloor s) (s.pow.clock - 25)) ∧
      (r.sampleW < 1340 → r.tMax < 92 → t.pow.clock = max (clockFloor s) (min 1900 (s.pow.clock + 25))) ∧
      (1340 ≤ r.sampleW → r.sampleW ≤ 1380 → r.tMax ≤ 95 → t.pow.clock = s.pow.clock)) ∧
  (∀ (s : State) (r : PowerReading), s.pow.input = true → s.pow.standby = none → 4 ≤ s.pow.stage → s.pow.limiter = false →
    r.meanW < 1400 → ∃ t, exec (.powerSample r) s = .next t ∧ clockFloor s ≤ t.pow.clock ∧ t.st = s.st ∧ t.fns = s.fns ∧ t.flash = s.flash) ∧
  (∀ (s : State) (r : PowerReading), s.pow.input = true → s.pow.standby = none → 4 ≤ s.pow.stage → s.pow.limiter = false →
    s.pow.clock = clockFloor s → 1380 < r.sampleW → r.meanW < 1400 → s.pow.hotSamples = 3 →
    ∃ t, exec (.powerSample r) s = .next t ∧ Frame [.pow, .eng, .queue, .sent] s t ∧ t.pow.clock = clockFloor s ∧ t.pow.hotSamples = 4 ∧
      t.pow.stretchAsked = true ∧ t.eng.requested = max s.eng.requested (min 2 (s.eng.level + 1)) ∧ t.eng.level = s.eng.level) ∧
  ∀ (s : State) (r : PowerReading), s.pow.input = true → s.pow.standby = none → 4 ≤ s.pow.stage →
    s.pow.clock = clockFloor s → 25 ≤ s.pow.clock → 1400 ≤ r.meanW → (∀ f, f < 4 → jobAt s f = none) →
    ∃ t, exec (.powerSample r) s = .next t ∧ t.pow.clock = s.pow.clock - 25 ∧ t.eng.level = s.eng.level ∧
      (molting s = false → t.face.alerts.getLsbD 4 = true) ∧ t.st = s.st ∧ t.fns = s.fns ∧ t.flash = s.flash

/-- O49. R456, R494, R496, R502, R504: a critical temperature (cause 0), a leak on the module (cause 1) or on LEAK_N (cause 2) for 100 µs,
an input below 46.0 V for 1 ms or a hot-swap fault (cause 3) bring the module to standby: every switched domain off, every port
unpowered, no ring armed, no job left, and the cause latched in ALERT bits 9:8 with bit 2. -/
def Obligations.StandbyEntered : Prop :=
  (∀ (s : State) (i : Instr) (cause : Nat), s.pow.input = true → s.pow.standby = none →
    ((∃ n c, i = .thermalCritical n c ∧ criticalAt n ≤ c ∧ cause = 0) ∨ (∃ us, i = .leakNAsserted true us ∧ 100 ≤ us ∧ cause = 1) ∨
      (∃ us, i = .leakNAsserted false us ∧ 100 ≤ us ∧ cause = 2) ∨
      (∃ mv us, i = .inputUndervoltage mv us ∧ mv < 46000 ∧ 1000 ≤ us ∧ cause = 3) ∨ (i = .hotswapFault ∧ cause = 3)) →
    ∃ t, exec i s = .next t ∧ t.pow.standby = some cause ∧ t.pow.input = true ∧ t.pow.domains = [] ∧ t.mbx.armed = false ∧
      (∀ x ∈ t.fab.ports, x.power = false ∧ x.pstate = 0) ∧ (∀ f, f < 4 → jobAt t f = none) ∧ t.face.alerts.getLsbD 2 = true ∧
      (t.face.alerts.extractLsb' 8 2).toNat = cause ∧ t.flash.serial = s.flash.serial) ∧
  (∀ (s : State) (n : Nat) (c : Int), c < criticalAt n →
    exec (.thermalCritical n c) s = .next { s with pow := { s.pow with temps := insertK s.pow.temps n c } }) ∧
  (∀ (s : State) (mv us : Nat), (46000 ≤ mv ∨ us < 1000) → exec (.inputUndervoltage mv us) s = .next s) ∧
  (∀ (s : State) (us : Nat), us < 100 → exec (.leakNAsserted false us) s = .next s) ∧
  (∀ s : State, (s.pow.input = false ∨ s.pow.standby ≠ none) → exec .hotswapFault s = .next s) ∧
  ∀ s : State, exec .leakSenseDry s = .next { s with pow := { s.pow with leakDrive := false } }

/-- O50. R188, R446, R450, R451, R456, R488, Table 14.7, Table 14.8: a sensor past its regulation figure raises alert bit 3 and, on a
memory die, doubles the refresh until it is back; loss of the input keeps what flash holds and loses jobs and memory; power applied
starts stage 1 with the slot number sampled; wanted domains come on, and the flash controller goes off only while nothing writes or
restores level 2. -/
def Obligations.PowerAndTemperature : Prop :=
  (∀ (s : State) (n : Nat) (c : Int), s.pow.input = true → s.pow.standby = none → 4 ≤ s.pow.stage → s.fns.length = 4 →
    ∃ t, exec (.thermalWarning n c) s = .next t ∧ tempOf t n = c ∧ t.pow.standby = none ∧ t.pow.clock = s.pow.clock ∧
      t.fns = s.fns ∧ t.flash = s.flash ∧ (∀ a, memGet t.st.mem a = memGet s.st.mem a) ∧
      (regulationAt n < c → t.face.alerts.getLsbD 3 = true ∧ (5 ≤ n → n ≤ 20 → n ∈ t.st.doubled)) ∧
      (c ≤ regulationAt n → Frame [.pow, .stores] s t ∧ n ∉ t.st.doubled)) ∧
  (∀ s : State, ∃ t, exec .powerLoss s = .next t ∧ t.pow.input = false ∧ t.pow.stage = 1 ∧ t.pow.state = 0 ∧ t.mbx.armed = false ∧
    (∀ f, jobAt t f = none) ∧ (∀ a, memGet t.st.mem a = 0) ∧ t.pending = s.pending ∧ t.flash.slotA = s.flash.slotA ∧
    t.flash.slotB = s.flash.slotB ∧ t.flash.counter = s.flash.counter ∧ t.flash.ffl = s.flash.ffl ∧ t.flash.serial = s.flash.serial ∧
    t.flash.partMode = s.flash.partMode ∧ t.flash.staging = none) ∧
  (∀ (s : State) (n : Nat), s.pow.input = false →
    exec (.powerApplied n) s = .next { s with pow := { s.pow with input := true, slotId := n % 16 } }) ∧
  (∀ (s : State) (ds : List Nat), s.pow.input = true → s.pow.standby = none → 4 ≤ s.pow.stage → (∀ x ∈ s.fns, x.job = none) →
    ∃ t, exec (.domainSwitchedOn ds) s = .next t ∧ Frame [.pow] s t ∧ t.pow.clock = s.pow.clock ∧
      ∀ d, d ∈ t.pow.domains ↔ d ∈ s.pow.domains ∨ (d ∈ ds ∧ domainWanted s d = true)) ∧
  ∀ s : State, ((∃ x ∈ s.fns, ∃ j, x.job = some j ∧ j.l2Busy = true) → exec .flashIdleOff s = .next s) ∧
    ((∀ x ∈ s.fns, ∀ j, x.job = some j → j.l2Busy = false ∧ j.restoring = none) → ∃ t, exec .flashIdleOff s = .next t ∧
      Frame [.pow] s t ∧ ∀ d, d ∈ t.pow.domains ↔ d ∈ s.pow.domains ∧ d ≠ 95)

/-- O51. R457, R458, R466 to R468, R470, R32, R35, R446, R493, R495, Table 14.10: stages 1, 2, 4 and 8 complete one by one; stage 3 runs
slot A when it is valid and fails the boot when neither slot or no configuration record is; stage 5 zeroes every memory; stage 7 trains
the far memory, and in a cold boot repairs the listed far rows (R196); stage 9 adopts the system's beat or makes the module its own master; stage 10 makes it READY and raises the rollback
counter. A stage from 1 to 7 that misses its time fails the boot. MOD_RST_N low for 1 ms resets the device, and its release runs stages
4 to 10, or leads to standby while a cause still holds. -/
def Obligations.BootRuns : Prop :=
  (∀ (s : State) (b : BootFind), s.pow.input = true → s.pow.standby = none → (s.pow.state = 0 ∨ s.pow.state = 4) → s.pow.resetWaits = false →
    ∃ t, exec (.bootStageComplete b) s = .next t ∧
      (s.pow.stage ∈ [1, 2, 4, 8] → t = { s with pow := { s.pow with stage := s.pow.stage + 1 } }) ∧
      (s.pow.stage = 3 → s.pow.state = 0 → (b.configValid = false ∨ (b.slotAValid = false ∧ b.slotBValid = false)) →
        t.pow.state = 5 ∧ t.face.alerts.getLsbD 1 = true ∧ t.pow.stage = 3 ∧ t.flash = s.flash) ∧
      (s.pow.stage = 3 → s.pow.state = 0 → s.pow.rstHeld = false → b.configValid = true → b.slotAValid = true →
        (∃ i, s.flash.slotA = some i ∧ s.flash.counter ≤ i.svn) →
        t.flash.runB = false ∧ t.flash.counter = s.flash.counter ∧ t.pow.stage = 4 ∧ t.pow.domains = [93] ∧ Frame [.flash, .pow] s t) ∧
      (s.pow.stage = 5 → (∀ a, memGet t.st.mem a = 0) ∧ t.st.bad = [] ∧ t.pow.stage = 6 ∧ Frame [.stores, .mem, .pow] s t) ∧
      (s.pow.stage = 6 → t.st.spares = (List.range 16).map (spareOf s) ∧ t.pow.stage = 7 ∧ Frame [.stores, .pow] s t) ∧
      (s.pow.stage = 7 → t.st.farState = 1 ∧ t.pow.stage = 8 ∧ (∀ g, g < 8 → 72 + g ∈ t.pow.domains) ∧ Frame [.stores, .pow, .fab, .flash] s t ∧
        (s.pow.state = 4 → t.flash = s.flash) ∧ (s.pow.state = 0 → ∀ e ∈ s.flash.ffl, e.kind = 2 → e ∈ t.flash.repaired)) ∧
      (s.pow.stage = 9 → t.pow.stage = 10 ∧ t.eng.inLock = true ∧ Frame [.pow, .eng] s t ∧
        (∀ n m, b.adopted = some (n, m) → t.eng.beat = n ∧ t.eng.master = some m) ∧
        (b.adopted = none → s.eng.master = none → t.eng.master = some s.flash.serial ∧ (s.pow.state = 0 → t.eng.beat = 0))) ∧
      (s.pow.stage = 10 → t.pow.state = (if anyShort s || s.pow.unrepaired then 2 else 1) ∧ t.pow.standby = none ∧
        s.flash.counter ≤ t.flash.counter ∧
        (∀ i, (if s.flash.runB then s.flash.slotB else s.flash.slotA) = some i → t.flash.counter = max s.flash.counter i.svn))) ∧
  (∀ s : State, s.pow.input = true → s.pow.standby = none → (s.pow.state = 0 ∨ s.pow.state = 4) → s.pow.resetWaits = false →
    s.pow.rstHeld = false →
    (s.pow.stage ≤ 7 → ∃ t, exec .bootStageTimeout s = .next t ∧ t.pow.state = 5 ∧ t.face.alerts.getLsbD 1 = true ∧ Frame [.pow, .face] s t) ∧
    (s.pow.stage = 8 → exec .bootStageTimeout s = .next { s with pow := { s.pow with stage := 9 } })) ∧
  (∀ (s : State) (us : Nat), (us < 1000 ∨ s.pow.input = false) → exec (.modRstAssert us) s = .next s) ∧
  (∀ (s : State) (us : Nat), 1000 ≤ us → s.pow.input = true → s.pow.standby = none → 4 ≤ s.pow.stage →
    (∀ x ∈ s.fns, x.confidential = false ∧ x.failed = false ∧ x.molt = none) →
    ∃ t, exec (.modRstAssert us) s = .next t ∧ t.pow.rstHeld = true ∧ t.pow.state = 4 ∧ t.pow.stage = 3 ∧ t.pow.domains = [] ∧
      t.mbx.armed = false ∧ (∀ f, f < 4 → jobAt t f = none) ∧ t.mbx.flights = [] ∧ t.mbx.held = [] ∧ t.flash.serial = s.flash.serial) ∧
  (∀ (s : State) (k : Option Nat), s.pow.rstHeld = false → exec (.modRstRelease k) s = .next s) ∧
  (∀ s : State, s.pow.rstHeld = true → (s.pow.standby ≠ none ∨ (s.pow.stage = 3 ∧ s.pow.state = 4)) →
    ∃ t, exec (.modRstRelease none) s = .next t ∧ t.pow.rstHeld = false ∧ t.pow.stage = 4 ∧ t.pow.state = 4 ∧ t.pow.standby = none ∧
      t.pow.domains = [93] ∧ Frame [.pow] s t) ∧
  ∀ (s : State) (k : Nat), s.pow.rstHeld = true → s.pow.input = true → k < 4 →
    ∃ t, exec (.modRstRelease (some k)) s = .next t ∧ t.pow.rstHeld = false ∧ t.pow.standby = some k ∧ t.face.alerts.getLsbD 2 = true

/-- O52. R449, R22, R455, Table 14.6: the environment arms its watchdog for 10 ms to 10 s, and its expiry stops the environment and resets
F8; a control processor's watchdog puts it in reset and reports it, CP3's hands over to the hardware limiter, until its reset
completes; a processor that is in reset is not reset again, one that is not does not return; on CP0's return the events that the bridge
has held are delivered in order. -/
def Obligations.Watchdogs : Prop :=
  (∀ (s : State) (ms : Nat), s.env.running = true →
    exec (.envWatchdogArm ms) s = .next { s with env := { s.env with watchdogMs := if ms = 0 then 0 else max 10 (min 10000 ms) } }) ∧
  (∀ s : State, s.env.watchdogMs ≠ 0 → s.env.running = true →
    ∃ t, exec .envWatchdogExpiry s = .next t ∧ t.env.running = false ∧ t.env.watchdogMs = 0 ∧ t.flash = s.flash ∧ t.fns = s.fns ∧
      t.env.resets = s.env.resets ++ [(8, ⟨s.eng.beat + beatsOf s 100000000, none, false⟩)]) ∧
  (∀ (s : State) (cp : Nat), cpDown s cp = false →
    ∃ t, exec (.cpWatchdog cp) s = .next t ∧ t.pow.cpReset = cp :: s.pow.cpReset ∧ t.flash = s.flash ∧ t.st.mem = s.st.mem ∧
      (cp = 3 → t.pow.limiter = true) ∧ (cp ≠ 1 → cp ≠ 2 → t.fns = s.fns)) ∧
  (∀ (s : State) (cp : Nat), (cpDown s cp = true → exec (.cpWatchdog cp) s = .next s) ∧
    (cpDown s cp = false → exec (.cpResetComplete cp) s = .next s)) ∧
  (∀ (s : State) (cp : Nat), cpDown s cp = true → s.mbx.cpHeld = [] → s.mbx.evHeld = [] → s.mbx.flights = [] → (∀ x ∈ s.fns, x.job = none) →
    ∃ t, exec (.cpResetComplete cp) s = .next t ∧ Frame [.pow] s t ∧ cp ∉ t.pow.cpReset ∧
      (∀ k, k ≠ cp → (k ∈ t.pow.cpReset ↔ k ∈ s.pow.cpReset)) ∧ (cp = 3 → t.pow.limiter = false) ∧
      (cp ≠ 3 → t.pow.limiter = s.pow.limiter)) ∧
  ∀ s : State, cpDown s 0 = true → s.mbx.cpHeld = [] → s.mbx.flights = [] →
    exec (.cpResetComplete 0) s = .next (s.mbx.evHeld.foldl deliverEvent
      { s with pow := { s.pow with cpReset := s.pow.cpReset.filter fun x => !decide (x = 0) }, mbx := { s.mbx with evHeld := [] } })

/-- O53. R436, R437, R449, R62: HOST.ENV_START books the environment's cores and range and is accepted; a reserved address is ABSENT (R173),
SRAM, another function's memory and a range outside one near allocation are REFUSED with reason 0x0C (R174, R176); at ENV_BOOTED it runs
and the command completes; HOST.ENV_STOP stops it, at once or after its grace time, which counts from the beat of the descriptor's fetch;
its range is then zero. -/
def Obligations.EnvironmentLife : Prop :=
  (∀ (s : State) (c : Cmd) (a : Nat), MayStart s c → 1 ≤ cArg c 32 1 → cArg c 32 1 ≤ 4 → fnExists s (cArg c 32 1 - 1) = true →
    s.flash.envImage ≠ none → s.env.running = false → s.env.booting = false → a = cArg c 40 8 →
    (regionOf a = .reserved → exec (.hostEnvStart c) s = .next (answer s c (replyAbsent a ⟨255, 255, 255, 255⟩ 255))) ∧
    (regionOf a ≠ .reserved → regionOf a ∉ [.near, .far] ∨ ownsAddr s (cArg c 32 1 - 1) a = false ∨
      (∀ l ∈ (fnAt s (cArg c 32 1 - 1)).near, ¬ (l.addr ≤ a ∧ a + cArg c 48 8 ≤ l.addr + l.size ∧ 0 < cArg c 48 8)) →
      exec (.hostEnvStart c) s = .next (answer s c (replyRefused s c 0x0C 40)))) ∧
  (∀ (s : State) (c : Cmd) (l : Alloc), MayStart s c → 1 ≤ cArg c 32 1 → cArg c 32 1 ≤ 4 → fnExists s (cArg c 32 1 - 1) = true →
    s.flash.envImage ≠ none → s.env.running = false → s.env.booting = false → l ∈ (fnAt s (cArg c 32 1 - 1)).near →
    regionOf (cArg c 40 8) = .near → ownsAddr s (cArg c 32 1 - 1) (cArg c 40 8) = true →
    l.addr ≤ cArg c 40 8 → cArg c 40 8 + cArg c 48 8 ≤ l.addr + l.size → 0 < cArg c 48 8 →
    ∃ t e, exec (.hostEnvStart c) s = .next t ∧ Frame [.mbx, .queue, .sent, .env] s t ∧
      t = { answer s c (replyAccepted e) with env := t.env } ∧ t.env.booting = true ∧ t.env.running = false ∧
      t.env.func = cArg c 32 1 ∧ t.env.cores = max 1 (min 32 (cArg c 33 1)) ∧ t.env.addr = cArg c 40 8 ∧ t.env.size = cArg c 48 8 ∧
      t.env.req = some c.req) ∧
  (∀ (s : State), s.env.booting = true → ∃ u e, exec .envBooted s = .next (answerOpt u s.env.req (replyOk e)) ∧ Frame [.env, .flash] s u ∧
    u.env = { s.env with booting := false, running := true, req := none } ∧ s.flash.envCounter ≤ u.flash.envCounter ∧
    u.flash.counter = s.flash.counter) ∧
  (∀ (s : State) (c : Cmd), MayStart s c → s.env.running = true → s.env.booting = false → s.env.req = none →
    (cArg c 32 4 = 0 → ∃ u, exec (.hostEnvStop c) s = .next (answer u c (replyOk (natLE 8 s.eng.beat))) ∧ u.env.running = false ∧
      u.env.graceEnd = none ∧ (∀ a, s.env.addr ≤ a → a < s.env.addr + s.env.size → memGet u.st.mem a = 0) ∧
      (∀ a, a < s.env.addr ∨ s.env.addr + s.env.size ≤ a → memGet u.st.mem a = memGet s.st.mem a) ∧
      Frame [.stores, .mem, .env, .pow] s u) ∧
    (0 < cArg c 32 4 → ∃ t, exec (.hostEnvStop c) s = .next t ∧ t.env.running = true ∧ t.env.req = some c.req ∧
      (∀ g, flightOf s c.req = some g → t.env.graceEnd = some (g.fetchBeat + beatsOf s (min 60000 (cArg c 32 4) * 1000000))) ∧
      Frame [.mbx, .env] s t)) ∧
  ∀ (s : State) (e : Nat), s.env.running = true → s.env.booting = false → s.env.graceEnd = some e →
    ∃ t, exec .envGraceExpiry s = .next t ∧ t.env.running = false ∧ t.env.graceEnd = none ∧
      (∀ a, s.env.addr ≤ a → a < s.env.addr + s.env.size → memGet t.st.mem a = 0) ∧
      ∀ a, a < s.env.addr ∨ s.env.addr + s.env.size ≤ a → memGet t.st.mem a = memGet s.st.mem a

/-- O54. R404, R436, R459: TEL.READ returns the record of a group 0 to 6 and changes no memory; TEL.SUBSCRIBE gives the issuing ring pair
an event ring of 8 to 256 slots with empty counters, or removes it. R403, R404, R494: an event of a ring with room goes into its event
ring as a 64-byte record with a notice; a fault also latches bit 4 of the alert causes; a full ring counts it as dropped, and a bridge
without any event ring as lost; while CP0 is in reset the bridge holds it (R22). -/
def Obligations.TelemetryAndEvents : Prop :=
  ((∀ (s : State) (c : Cmd), MayStart s c →
    (cArg c 32 1 ≤ 6 → ∃ u, exec (.telRead c) s = .next (answer u c (replyRes (natLE 8 s.eng.beat) (telRecord s (cArg c 32 1) (cIx c)))) ∧
      Frame [.pow] s u ∧ (cArg c 32 1 ≠ 0 → u = s)) ∧
    (6 < cArg c 32 1 → exec (.telRead c) s = .next (answer s c (replyRefused s c 4 32)))) ∧
  ∀ (s : State) (c : Cmd), MayStart s c → s.mbx.rings.length = 9 → c.ring ≤ 8 →
    (cArg c 40 2 ≠ 0 → (ringAt s c.ring).evDropped = 0 →
      ∃ u slots, exec (.telSubscribe c) s = .next (answer u c (replyOk (natLE 2 slots ++ natLE 1 (cArg c 42 1 % 4)))) ∧
        Frame [.mbx] s u ∧ slots ∈ ([8, 16, 32, 64, 128, 256] : List Nat) ∧ (cArg c 40 2 ≤ slots ∨ slots = 256) ∧
        (ringAt u c.ring).evSlots = slots ∧ (ringAt u c.ring).evBase = cArg c 32 8 ∧ (ringAt u c.ring).evHead = 0 ∧
        (ringAt u c.ring).evTail = 0 ∧ (ringAt u c.ring).evInfo = (cArg c 42 1).testBit 0 ∧
        (ringAt u c.ring).evWarn = (cArg c 42 1).testBit 1 ∧ (∀ k, k ≠ c.ring → ringAt u k = ringAt s k)) ∧
    (cArg c 40 2 = 0 → ∃ u, exec (.telSubscribe c) s = .next (answer u c (replyOk [0, 0, 0])) ∧ Frame [.mbx] s u ∧
        (ringAt u c.ring).evSlots = 0 ∧ (∀ k, k ≠ c.ring → ringAt u k = ringAt s k))) ∧
  (∀ (s : State) (fn sev code : Nat) (body : Bytes), s.fab.bridge = true → fn ≤ 8 → sev ≤ 3 → code < 65536 →
    let t := raiseRecord s (eventRecord s fn sev code body)
    (cpDown s 0 = true → Frame [.mbx, .face] s t ∧ t.mbx.evHeld = s.mbx.evHeld ++ [eventRecord s fn sev code body] ∧
      t.mbx.hostOut = s.mbx.hostOut) ∧
    (cpDown s 0 = false → (ringAt s fn).evSlots = 0 → (ringAt s 0).evSlots = 0 → Frame [.mbx, .face] s t ∧
      t.mbx.hostOut = s.mbx.hostOut ∧ t.mbx.eventsLost = min 0xFFFF (s.mbx.eventsLost + 1))) ∧
  (∀ (s : State) (fn sev code : Nat) (body : Bytes), s.fab.bridge = true → s.mbx.rings.length = 9 → fn ≤ 8 → sev ≤ 3 → code < 65536 →
    cpDown s 0 = false → 0 < (ringAt s fn).evSlots →
    let t := raiseRecord s (eventRecord s fn sev code body)
    Frame [.mbx, .face] s t ∧ (∀ k, k ≠ fn → ringAt t k = ringAt s k) ∧
    (sev = 2 → molting s = false → t.face.alerts = s.face.alerts ||| 16) ∧ (sev ≠ 2 → t.face = s.face) ∧
    ((sev = 0 → (ringAt s fn).evInfo = true) → (sev = 1 → (ringAt s fn).evWarn = true) →
      (ringCount (ringAt s fn).evHead (ringAt s fn).evTail + 1 < (ringAt s fn).evSlots →
        (ringAt t fn).evTail = ((ringAt s fn).evTail + 1) % 65536 ∧ t.mbx.notices = s.mbx.notices + 1 ∧
        ∃ x, t.mbx.hostOut = s.mbx.hostOut ++ [x] ∧ x.bytes.length = 64 ∧ rd x.bytes 0 1 = 7 ∧ rd x.bytes 1 1 = fn + 16 * sev ∧
          rd x.bytes 2 2 = code ∧ rd x.bytes 4 8 = s.eng.beat % 2 ^ 64 ∧
          x.addr = (ringAt s fn).evBase + 64 * ((ringAt s fn).evTail % (ringAt s fn).evSlots)) ∧
      ((ringAt s fn).evSlots ≤ ringCount (ringAt s fn).evHead (ringAt s fn).evTail + 1 →
        t.mbx.hostOut = s.mbx.hostOut ∧ (ringAt t fn).evDropped = (ringAt s fn).evDropped + 1 ∧
        (s.mbx.eventsLost < 0xFFFF → t.mbx.eventsLost = s.mbx.eventsLost + 1))))

/-- O55. R436, R507, R509, R510, R494: locate is set, cleared or toggled by PANEL.LOCATE, the pad (50 ms to 2 s) and the button (50 ms up
to 3 s); each change latches bit 7 of the alert causes; touches within 500 ms of a toggle are ignored; the timeout clears it; pattern 5
ends. Nothing but the face changes. R436, R510, R512: PANEL.SERVICE sets or clears the service indication; the long press requests
removal, which PANEL.SERVICE with op 2 does too: refused, it shows pattern 5 and the module stays in service; granted, the drain waits for a
restore or for the bridge role to move (log 173), or begins, and without a job the module is safe to remove at once. -/
def Obligations.FaceCommands : Prop :=
  ((∀ (s : State) (c : Cmd), MayStart s c → cArg c 32 1 ≤ 2 → molting s = false →
    ∃ u on, exec (.panelLocate c) s = .next (answer u c (replyOk (natLE 1 (if on then 1 else 0)))) ∧ Frame [.face] s u ∧
      u.face.locate = on ∧ (on = true ↔ cArg c 32 1 = 1 ∨ (cArg c 32 1 = 2 ∧ s.face.locate = false)) ∧
      u.face.locateTimeout = (if on = true ∧ cArg c 34 2 ≠ 0 then some (max 1 (min 3600 (cArg c 34 2))) else none) ∧
      (on ≠ s.face.locate → u.face.alerts = s.face.alerts ||| 128) ∧ (on = s.face.locate → u.face.alerts = s.face.alerts)) ∧
  (∀ (s : State) (ms now : Nat), (∀ l, s.face.lastToggle = some l → l + 500 ≤ now) →
    (50 ≤ ms → ms ≤ 2000 → ∃ t, exec (.locatePadTouch ms now) s = .next t ∧ Frame [.face] s t ∧ t.face.locate = !s.face.locate ∧
      t.face.locateTimeout = none ∧ t.face.lastToggle = some now ∧ t.face.service = s.face.service) ∧
    (50 ≤ ms → ms < 3000 → ∃ t, exec (.attentionButtonRelease ms now) s = .next t ∧ Frame [.face] s t ∧ t.face.locate = !s.face.locate ∧
      t.face.locateTimeout = none ∧ t.face.lastToggle = some now ∧ t.face.service = s.face.service)) ∧
  (∀ (s : State) (ms now : Nat), (ms < 50 ∨ 2000 < ms ∨ ∃ l, s.face.lastToggle = some l ∧ now < l + 500) →
    exec (.locatePadTouch ms now) s = .next s) ∧
  (∀ (s : State) (ms now : Nat), (ms < 50 ∨ 3000 ≤ ms ∨ ∃ l, s.face.lastToggle = some l ∧ now < l + 500) →
    exec (.attentionButtonRelease ms now) s = .next s) ∧
  (∀ s : State, s.face.locateTimeout ≠ none → ∃ t, exec .locateTimeout s = .next t ∧ Frame [.face] s t ∧ t.face.locate = false ∧
    t.face.locateTimeout = none) ∧
  ∀ s : State, exec .refusalPatternEnd s = .next { s with face := { s.face with refusal := false } }) ∧
  ((∀ (s : State) (c : Cmd), MayStart s c → cArg c 32 1 ≤ 1 →
    exec (.panelService c) s = .next (answer { s with face := { s.face with service := decide (cArg c 32 1 = 1) } } c
      (replyOk (natLE 1 (cArg c 32 1))))) ∧
  (∀ s : State, s.fab.safe = true ∨ s.fab.drain ≠ none → exec .attentionLongPress s = .next s) ∧
  ∀ s : State, s.fab.safe = false → s.fab.drain = none → s.fab.drainWaits = none →
    (drainLegal s = false → ∃ t, exec .attentionLongPress s = .next t ∧ t.face.refusal = true ∧ t.fab.drain = none ∧
      t.fab.safe = false ∧ t.fab.ports = s.fab.ports ∧ t.st = s.st ∧ t.fns = s.fns ∧ t.flash = s.flash) ∧
    (drainLegal s = true → ∃ t, exec .attentionLongPress s = .next t ∧ t.st = s.st ∧ t.flash = s.flash ∧
      (restoringAny s = true ∨ bridgeFirst s 0 = true → t.fab.drain = none ∧ t.fab.drainWaits = some (0, 0, none) ∧ t.fab.ports = s.fab.ports) ∧
      (restoringAny s = false → bridgeFirst s 0 = false →
        ((∃ x ∈ s.fns, x.job ≠ none) → t.fab.drain = some (0, 0, none) ∧ t.fab.drainWaits = none) ∧
        ((∀ x ∈ s.fns, x.job = none ∧ x.molt = none) → t.fab.safe = true ∧ t.fab.drain = none))) ∧
    ∀ c : Cmd, MayStart s c → cArg c 32 1 = 2 → ∃ t, exec .attentionLongPress s = .next t ∧
      exec (.panelService c) s = .next (answer t c (replyOk (natLE 1 (if t.face.service then 1 else 0)))))

/-- O56. R498, R499, R477, R486: SETDASA and ENTDAA assign the dynamic address; the selector names the record that a private read answers,
status byte first; reading the alert causes clears them, DEV_STATUS and the serial number read as they stand. -/
def Obligations.I3cTarget : Prop :=
  (∀ (s : State) (a : Nat), s.pow.input = true → a < 128 →
    exec (.setdasa a) s = .next { s with face := { s.face with i3cAddr := some a } } ∧
    exec (.entdaa a) s = .next { s with face := { s.face with i3cAddr := some a } }) ∧
  (∀ (s : State) (a : Nat), s.pow.input = true → a < 256 →
    exec (.i3cSelectorWrite a) s = .next { s with face := { s.face with selector := a } }) ∧
  ∀ s : State, s.pow.input = true →
    ∃ t b, exec .i3cPrivateRead s = .next t ∧ t.face.i3cOut = s.face.i3cOut ++ [b] ∧ Frame [.face, .pow] s t ∧
      (s.face.selector = 0xF1 → b = natLE 1 0 ++ natLE 4 s.face.alerts.toNat ∧ t.face.alerts = 0 ∧ t.pow = s.pow) ∧
      (s.face.selector ≠ 0xF1 → t.face.alerts = s.face.alerts) ∧
      (s.face.selector = 0xF0 → b = natLE 1 0 ++ natLE 8 (devStatus s)) ∧
      (s.face.selector = 0xF2 → slice b 0 9 = natLE 1 0 ++ natLE 8 s.flash.serial) ∧
      (s.face.selector = 0x77 → b = [3])

/-- O57. R471, R473, Table 15.3: every SPDM request gets one response on its connection, whose code answers the request, or an ERROR; an
unsupported request gets ERROR UnsupportedRequest; a challenge is signed with the Alias key (R464); inside an activation window each gets ResponseNotReady. Memory, functions and flash
do not change. R436, R474, R475, R480, R482: SEC.ATTEST carries one SPDM request of its ring pair; SEC.KEYS reports, installs a key that
the device draws (a payload has 64 bytes) or destroys the key and frees the images under it; a signed token of this serial and counter unlocks the test port
unless a function is confidential. -/
def Obligations.SecureSessions : Prop :=
  (∀ (s : State) (q : SpdmReq), s.pow.input = true →
    (s.flash.activation = none → ∀ i : Instr,
      (i = .getVersion q ∨ i = .getCapabilities q ∨ i = .negotiateAlgorithms q ∨ i = .getDigests q ∨ i = .getCertificate q ∨
        i = .challenge q ∨ i = .getMeasurements q ∨ i = .keyExchange q ∨ i = .finish q ∨ i = .spdmUnsupportedRequest q) →
      ∃ t b, exec i s = .next t ∧ t.sec.spdmOut = s.sec.spdmOut ++ [(q.conn, b)] ∧ Frame [.sec, .free] s t ∧
        (i = .getVersion q → b = [0x10, 4, 0, 0, 0, 1, 0, 0x13]) ∧
        (i = .getCapabilities q → slice b 0 2 = [0x13, 0x61]) ∧
        (i = .negotiateAlgorithms q → offersAny q.msg = true → slice b 0 2 = [0x13, 0x63]) ∧
        (i = .negotiateAlgorithms q → offersAny q.msg = false → b = [0x13, 0x7F, 1, 0]) ∧
        (i = .getDigests q → b = [0x13, 1, 0, 1] ++ sha512 (slotChain s)) ∧
        (i = .getCertificate q → rd q.msg 2 1 % 16 = 0 → slice b 0 4 = [0x13, 2, 0, 0] ∧
          b.drop 8 = ((slotChain s).drop (rd q.msg 4 2)).take (rd q.msg 6 2)) ∧
        (i = .challenge q → rd q.msg 2 1 = 0 → slice b 0 2 = [0x13, 3] ∧
          ∃ n body, b = body ++ fit 132 (Config.ecdsa (aliasKey s) n (q.msg ++ body))) ∧
        (i = .getMeasurements q → rd q.msg 3 1 = 0 → slice b 0 5 = [0x13, 0x60, 12, 0, 0]) ∧
        (i = .keyExchange q → slice b 0 2 = [0x13, 0x64] ∧
          (connOf t q.conn).session = some (rd q.msg 4 2 + 65536 * (s.sec.nextSession % 65536), false)) ∧
        (i = .finish q → ∀ id e, (connOf s q.conn).session = some (id, e) →
          slice b 0 2 = [0x13, 0x65] ∧ (connOf t q.conn).session = some (id, true)) ∧
        (i = .spdmUnsupportedRequest q → b = [0x13, 0x7F, 7] ++ slice q.msg 1 1)) ∧
    (s.flash.activation ≠ none → ∃ t b, exec (.getDigests q) s = .next t ∧ Frame [.sec] s t ∧
      t.sec.spdmOut = s.sec.spdmOut ++ [(q.conn, b)] ∧ slice b 0 3 = [0x13, 0x7F, 0x42] ∧
      (rd q.msg 1 1 ≠ 0xFF → (connOf t q.conn).deferred = some q.msg)) ∧
    (s.flash.activation = none → ∀ m, (connOf s q.conn).deferred = some m → rd m 1 1 = 0x81 →
      ∃ t, exec (.respondIfReady q) s = .next t ∧ (connOf t q.conn).deferred = none ∧ Frame [.sec] s t ∧
        t.sec.spdmOut = s.sec.spdmOut ++ [(q.conn, [0x13, 1, 0, 1] ++ sha512 (slotChain s))])) ∧
  ((∀ (s : State) (c : Cmd), MayStart s c → s.flash.activation = none → rd c.payload 1 1 = 0x81 →
    exec (.secAttest c) s = .next (answer s c (replyRes []
      ([0x13, 1, 0, 1] ++ sha512 (slotChain s))))) ∧
  (∀ (s : State) (c : Cmd) (f : Nat), MayStart s c → s.fns.length = 4 → f < 4 → cFunction c = f + 1 → (c.ring = 6 → cCat c ≠ 6) →
    (cArg c 32 1 = 0 → ∃ e, exec (.secKeys c) s = .next (answer s c (replyOk e))) ∧
    (cArg c 32 1 = 3 → fnState s f = 1 → ∃ u e, exec (.secKeys c) s = .next (answer u c (replyOk e)) ∧ Frame [.fns] s u ∧
      (fnAt u f).l2Key = none ∧ (fnAt u f).drives = [] ∧ (∀ k, k ≠ f → fnAt u k = fnAt s k)) ∧
    (cArg c 32 1 = 1 → fnState s f = 1 → c.payload = [] → ∃ u e, exec (.secKeys c) s = .next (answer u c (replyOk e)) ∧
      Frame [.fns, .sec] s u ∧ (fnAt u f).l2Key = some (drawnKey s.sec.nextKey) ∧ u.sec.nextKey = s.sec.nextKey + 1 ∧
      (fnAt u f).drives = [] ∧ (∀ k, k ≠ f → fnAt u k = fnAt s k)) ∧
    (cArg c 32 1 = 1 → fnState s f = 1 → c.payload ≠ [] → c.payload.length ≠ 64 →
      exec (.secKeys c) s = .next (answer s c (replyRefused s c 4 24)))) ∧
  ∀ (s : State) (serial counter : Nat) (signed : Bool), s.pow.input = true →
    (signed = true → serial = s.flash.serial → counter = s.flash.counter → (∀ x ∈ s.fns, x.confidential = false) →
      exec (.unlockToken serial counter signed) s = .next { s with flash := { s.flash with unlocked := true, unlockedOnce := true } }) ∧
    ((signed = false ∨ serial ≠ s.flash.serial ∨ counter ≠ s.flash.counter ∨ ∃ x ∈ s.fns, x.confidential = true) →
      exec (.unlockToken serial counter signed) s = .next s))

/-- O58. R30, R385, R457 (values the spec gives; the model's choices are log entries 7 and 10): after power-on the queue is empty, no ring
is armed, the window holds zeros, the beat count is 0 in stage 1 of the cold boot with the default period of 8,000 ns and no stretch,
memory is canonical and reads zero, and no function has a job. -/
def Obligations.ResetState : Prop :=
  State.reset.pending = [] ∧ State.reset.mbx.armed = false ∧ (∀ n, (ringAt State.reset n).configured = false) ∧
  State.reset.mbx.cmdBase = 0 ∧ State.reset.mbx.cplBase = 0 ∧ State.reset.mbx.cmdSize = 0 ∧ State.reset.mbx.flights = [] ∧
  State.reset.pow.state = 0 ∧ State.reset.pow.stage = 1 ∧ State.reset.pow.standby = none ∧ State.reset.eng.beat = 0 ∧
  State.reset.eng.period = 8000 ∧ State.reset.eng.level = 0 ∧ State.reset.eng.suspended = false ∧ State.reset.memSafe ∧
  (∀ a, memGet State.reset.st.mem a = 0) ∧ (∀ f, jobAt State.reset f = none) ∧ State.reset.fns.length = 4 ∧
  State.reset.mbx.rings.length = 9 ∧ State.reset.fab.ports.length = 9 ∧ State.reset.face.alerts = 0 ∧
  (∀ p, p < 9 → (portAt State.reset p).pstate = 0 ∧ (portAt State.reset p).enc = false) ∧ State.reset.beatSafe

/-- O59. The model's memory rule (log entry 10): every step keeps the memory in its canonical form, whatever command runs. -/
def Obligations.MemoryStaysCanonical : Prop :=
 ∀ s t : State, s.memSafe → step s = .next t → t.memSafe

/-- O60. Tables 10.1, 12.3 and 14.2: four compute functions, nine ring pairs and nine ports are in every state that a step leads to from
one that has them. -/
def Obligations.ShapeStays : Prop :=
  ∀ s t : State, s.fns.length = 4 → s.mbx.rings.length = 9 → s.fab.ports.length = 9 → step s = .next t →
    t.fns.length = 4 ∧ t.mbx.rings.length = 9 ∧ t.fab.ports.length = 9
end

