-- ==== Sys2Proof/Laws/State.lean ====
section
/-! SUPPORT. What the shared updates leave alone, field by field, and what they set. -/
namespace Sys2Proof.Machine
open Sys2Proof

/-- A fold keeps what each of its steps keeps. -/
theorem foldl_keeps {α β σ : Type} (p : σ → α) (g : σ → β → σ) (h : ∀ s i, p (g s i) = p s) :
    ∀ (l : List β) (s : σ), p (l.foldl g s) = p s
  | [], _ => rfl
  | i :: l, s => (foldl_keeps p g h l (g s i)).trans (h s i)

@[simp] theorem setFn_pending (s : State) (f : Nat) (g : FnSt → FnSt) : (setFn s f g).pending = s.pending := rfl
@[simp] theorem setFn_mbx (s : State) (f : Nat) (g : FnSt → FnSt) : (setFn s f g).mbx = s.mbx := rfl
@[simp] theorem setFn_flash (s : State) (f : Nat) (g : FnSt → FnSt) : (setFn s f g).flash = s.flash := rfl
@[simp] theorem setFn_eng (s : State) (f : Nat) (g : FnSt → FnSt) : (setFn s f g).eng = s.eng := rfl
@[simp] theorem setFn_fab (s : State) (f : Nat) (g : FnSt → FnSt) : (setFn s f g).fab = s.fab := rfl
@[simp] theorem setFn_st (s : State) (f : Nat) (g : FnSt → FnSt) : (setFn s f g).st = s.st := rfl
@[simp] theorem setFn_env (s : State) (f : Nat) (g : FnSt → FnSt) : (setFn s f g).env = s.env := rfl
@[simp] theorem setFn_pow (s : State) (f : Nat) (g : FnSt → FnSt) : (setFn s f g).pow = s.pow := rfl
@[simp] theorem setFn_face (s : State) (f : Nat) (g : FnSt → FnSt) : (setFn s f g).face = s.face := rfl
@[simp] theorem setFn_sec (s : State) (f : Nat) (g : FnSt → FnSt) : (setFn s f g).sec = s.sec := rfl
@[simp] theorem setFn_free (s : State) (f : Nat) (g : FnSt → FnSt) : (setFn s f g).free = s.free := rfl

@[simp] theorem setJob_pending (s : State) (f : Nat) (g : Job → Job) : (setJob s f g).pending = s.pending := rfl
@[simp] theorem setJob_mbx (s : State) (f : Nat) (g : Job → Job) : (setJob s f g).mbx = s.mbx := rfl
@[simp] theorem setJob_flash (s : State) (f : Nat) (g : Job → Job) : (setJob s f g).flash = s.flash := rfl
@[simp] theorem setJob_eng (s : State) (f : Nat) (g : Job → Job) : (setJob s f g).eng = s.eng := rfl
@[simp] theorem setJob_fab (s : State) (f : Nat) (g : Job → Job) : (setJob s f g).fab = s.fab := rfl
@[simp] theorem setJob_st (s : State) (f : Nat) (g : Job → Job) : (setJob s f g).st = s.st := rfl
@[simp] theorem setJob_env (s : State) (f : Nat) (g : Job → Job) : (setJob s f g).env = s.env := rfl
@[simp] theorem setJob_pow (s : State) (f : Nat) (g : Job → Job) : (setJob s f g).pow = s.pow := rfl
@[simp] theorem setJob_face (s : State) (f : Nat) (g : Job → Job) : (setJob s f g).face = s.face := rfl
@[simp] theorem setJob_sec (s : State) (f : Nat) (g : Job → Job) : (setJob s f g).sec = s.sec := rfl
@[simp] theorem setJob_free (s : State) (f : Nat) (g : Job → Job) : (setJob s f g).free = s.free := rfl

@[simp] theorem setPort_pending (s : State) (p : Nat) (g : PortSt → PortSt) : (setPort s p g).pending = s.pending := rfl
@[simp] theorem setPort_mbx (s : State) (p : Nat) (g : PortSt → PortSt) : (setPort s p g).mbx = s.mbx := rfl
@[simp] theorem setPort_flash (s : State) (p : Nat) (g : PortSt → PortSt) : (setPort s p g).flash = s.flash := rfl
@[simp] theorem setPort_eng (s : State) (p : Nat) (g : PortSt → PortSt) : (setPort s p g).eng = s.eng := rfl
@[simp] theorem setPort_st (s : State) (p : Nat) (g : PortSt → PortSt) : (setPort s p g).st = s.st := rfl
@[simp] theorem setPort_fns (s : State) (p : Nat) (g : PortSt → PortSt) : (setPort s p g).fns = s.fns := rfl
@[simp] theorem setPort_env (s : State) (p : Nat) (g : PortSt → PortSt) : (setPort s p g).env = s.env := rfl
@[simp] theorem setPort_pow (s : State) (p : Nat) (g : PortSt → PortSt) : (setPort s p g).pow = s.pow := rfl
@[simp] theorem setPort_face (s : State) (p : Nat) (g : PortSt → PortSt) : (setPort s p g).face = s.face := rfl
@[simp] theorem setPort_sec (s : State) (p : Nat) (g : PortSt → PortSt) : (setPort s p g).sec = s.sec := rfl
@[simp] theorem setPort_free (s : State) (p : Nat) (g : PortSt → PortSt) : (setPort s p g).free = s.free := rfl

@[simp] theorem setRing_pending (s : State) (n : Nat) (g : RingPair → RingPair) : (setRing s n g).pending = s.pending := rfl
@[simp] theorem setRing_flash (s : State) (n : Nat) (g : RingPair → RingPair) : (setRing s n g).flash = s.flash := rfl
@[simp] theorem setRing_eng (s : State) (n : Nat) (g : RingPair → RingPair) : (setRing s n g).eng = s.eng := rfl
@[simp] theorem setRing_fab (s : State) (n : Nat) (g : RingPair → RingPair) : (setRing s n g).fab = s.fab := rfl
@[simp] theorem setRing_st (s : State) (n : Nat) (g : RingPair → RingPair) : (setRing s n g).st = s.st := rfl
@[simp] theorem setRing_fns (s : State) (n : Nat) (g : RingPair → RingPair) : (setRing s n g).fns = s.fns := rfl
@[simp] theorem setRing_env (s : State) (n : Nat) (g : RingPair → RingPair) : (setRing s n g).env = s.env := rfl
@[simp] theorem setRing_pow (s : State) (n : Nat) (g : RingPair → RingPair) : (setRing s n g).pow = s.pow := rfl
@[simp] theorem setRing_face (s : State) (n : Nat) (g : RingPair → RingPair) : (setRing s n g).face = s.face := rfl
@[simp] theorem setRing_sec (s : State) (n : Nat) (g : RingPair → RingPair) : (setRing s n g).sec = s.sec := rfl
@[simp] theorem setRing_free (s : State) (n : Nat) (g : RingPair → RingPair) : (setRing s n g).free = s.free := rfl

@[simp] theorem hostWrite_pending (s : State) (a : Nat) (b : Bytes) : (hostWrite s a b).pending = s.pending := rfl
@[simp] theorem hostWrite_flash (s : State) (a : Nat) (b : Bytes) : (hostWrite s a b).flash = s.flash := rfl
@[simp] theorem hostWrite_eng (s : State) (a : Nat) (b : Bytes) : (hostWrite s a b).eng = s.eng := rfl
@[simp] theorem hostWrite_fab (s : State) (a : Nat) (b : Bytes) : (hostWrite s a b).fab = s.fab := rfl
@[simp] theorem hostWrite_st (s : State) (a : Nat) (b : Bytes) : (hostWrite s a b).st = s.st := rfl
@[simp] theorem hostWrite_fns (s : State) (a : Nat) (b : Bytes) : (hostWrite s a b).fns = s.fns := rfl
@[simp] theorem hostWrite_env (s : State) (a : Nat) (b : Bytes) : (hostWrite s a b).env = s.env := rfl
@[simp] theorem hostWrite_pow (s : State) (a : Nat) (b : Bytes) : (hostWrite s a b).pow = s.pow := rfl
@[simp] theorem hostWrite_face (s : State) (a : Nat) (b : Bytes) : (hostWrite s a b).face = s.face := rfl
@[simp] theorem hostWrite_sec (s : State) (a : Nat) (b : Bytes) : (hostWrite s a b).sec = s.sec := rfl
@[simp] theorem hostWrite_free (s : State) (a : Nat) (b : Bytes) : (hostWrite s a b).free = s.free := rfl

@[simp] theorem hostNotice_pending (s : State) : (hostNotice s).pending = s.pending := rfl
@[simp] theorem hostNotice_flash (s : State) : (hostNotice s).flash = s.flash := rfl
@[simp] theorem hostNotice_eng (s : State) : (hostNotice s).eng = s.eng := rfl
@[simp] theorem hostNotice_fab (s : State) : (hostNotice s).fab = s.fab := rfl
@[simp] theorem hostNotice_st (s : State) : (hostNotice s).st = s.st := rfl
@[simp] theorem hostNotice_fns (s : State) : (hostNotice s).fns = s.fns := rfl
@[simp] theorem hostNotice_env (s : State) : (hostNotice s).env = s.env := rfl
@[simp] theorem hostNotice_pow (s : State) : (hostNotice s).pow = s.pow := rfl
@[simp] theorem hostNotice_face (s : State) : (hostNotice s).face = s.face := rfl
@[simp] theorem hostNotice_sec (s : State) : (hostNotice s).sec = s.sec := rfl
@[simp] theorem hostNotice_free (s : State) : (hostNotice s).free = s.free := rfl

@[simp] theorem countLost_pending (s : State) : (countLost s).pending = s.pending := rfl
@[simp] theorem countLost_flash (s : State) : (countLost s).flash = s.flash := rfl
@[simp] theorem countLost_eng (s : State) : (countLost s).eng = s.eng := rfl
@[simp] theorem countLost_fab (s : State) : (countLost s).fab = s.fab := rfl
@[simp] theorem countLost_st (s : State) : (countLost s).st = s.st := rfl
@[simp] theorem countLost_fns (s : State) : (countLost s).fns = s.fns := rfl
@[simp] theorem countLost_env (s : State) : (countLost s).env = s.env := rfl
@[simp] theorem countLost_pow (s : State) : (countLost s).pow = s.pow := rfl
@[simp] theorem countLost_face (s : State) : (countLost s).face = s.face := rfl
@[simp] theorem countLost_sec (s : State) : (countLost s).sec = s.sec := rfl
@[simp] theorem countLost_free (s : State) : (countLost s).free = s.free := rfl

@[simp] theorem setFlight_pending (s : State) (q : Nat) (g : Flight → Flight) : (setFlight s q g).pending = s.pending := rfl
@[simp] theorem setFlight_flash (s : State) (q : Nat) (g : Flight → Flight) : (setFlight s q g).flash = s.flash := rfl
@[simp] theorem setFlight_eng (s : State) (q : Nat) (g : Flight → Flight) : (setFlight s q g).eng = s.eng := rfl
@[simp] theorem setFlight_fab (s : State) (q : Nat) (g : Flight → Flight) : (setFlight s q g).fab = s.fab := rfl
@[simp] theorem setFlight_st (s : State) (q : Nat) (g : Flight → Flight) : (setFlight s q g).st = s.st := rfl
@[simp] theorem setFlight_fns (s : State) (q : Nat) (g : Flight → Flight) : (setFlight s q g).fns = s.fns := rfl
@[simp] theorem setFlight_env (s : State) (q : Nat) (g : Flight → Flight) : (setFlight s q g).env = s.env := rfl
@[simp] theorem setFlight_pow (s : State) (q : Nat) (g : Flight → Flight) : (setFlight s q g).pow = s.pow := rfl
@[simp] theorem setFlight_face (s : State) (q : Nat) (g : Flight → Flight) : (setFlight s q g).face = s.face := rfl
@[simp] theorem setFlight_sec (s : State) (q : Nat) (g : Flight → Flight) : (setFlight s q g).sec = s.sec := rfl
@[simp] theorem setFlight_free (s : State) (q : Nat) (g : Flight → Flight) : (setFlight s q g).free = s.free := rfl

@[simp] theorem dropFlight_pending (s : State) (q : Nat) : (dropFlight s q).pending = s.pending := rfl
@[simp] theorem dropFlight_flash (s : State) (q : Nat) : (dropFlight s q).flash = s.flash := rfl
@[simp] theorem dropFlight_eng (s : State) (q : Nat) : (dropFlight s q).eng = s.eng := rfl
@[simp] theorem dropFlight_fab (s : State) (q : Nat) : (dropFlight s q).fab = s.fab := rfl
@[simp] theorem dropFlight_st (s : State) (q : Nat) : (dropFlight s q).st = s.st := rfl
@[simp] theorem dropFlight_fns (s : State) (q : Nat) : (dropFlight s q).fns = s.fns := rfl
@[simp] theorem dropFlight_env (s : State) (q : Nat) : (dropFlight s q).env = s.env := rfl
@[simp] theorem dropFlight_pow (s : State) (q : Nat) : (dropFlight s q).pow = s.pow := rfl
@[simp] theorem dropFlight_face (s : State) (q : Nat) : (dropFlight s q).face = s.face := rfl
@[simp] theorem dropFlight_sec (s : State) (q : Nat) : (dropFlight s q).sec = s.sec := rfl
@[simp] theorem dropFlight_free (s : State) (q : Nat) : (dropFlight s q).free = s.free := rfl

@[simp] theorem holdCpl_pending (s : State) (x : Cpl) : (holdCpl s x).pending = s.pending := rfl
@[simp] theorem holdCpl_flash (s : State) (x : Cpl) : (holdCpl s x).flash = s.flash := rfl
@[simp] theorem holdCpl_eng (s : State) (x : Cpl) : (holdCpl s x).eng = s.eng := rfl
@[simp] theorem holdCpl_fab (s : State) (x : Cpl) : (holdCpl s x).fab = s.fab := rfl
@[simp] theorem holdCpl_st (s : State) (x : Cpl) : (holdCpl s x).st = s.st := rfl
@[simp] theorem holdCpl_fns (s : State) (x : Cpl) : (holdCpl s x).fns = s.fns := rfl
@[simp] theorem holdCpl_env (s : State) (x : Cpl) : (holdCpl s x).env = s.env := rfl
@[simp] theorem holdCpl_pow (s : State) (x : Cpl) : (holdCpl s x).pow = s.pow := rfl
@[simp] theorem holdCpl_face (s : State) (x : Cpl) : (holdCpl s x).face = s.face := rfl
@[simp] theorem holdCpl_sec (s : State) (x : Cpl) : (holdCpl s x).sec = s.sec := rfl
@[simp] theorem holdCpl_free (s : State) (x : Cpl) : (holdCpl s x).free = s.free := rfl

@[simp] theorem sendItem_pending (s : State) (p : Nat) (d b : Bytes) : (sendItem s p d b).pending = s.pending := rfl
@[simp] theorem sendItem_mbx (s : State) (p : Nat) (d b : Bytes) : (sendItem s p d b).mbx = s.mbx := rfl
@[simp] theorem sendItem_flash (s : State) (p : Nat) (d b : Bytes) : (sendItem s p d b).flash = s.flash := rfl
@[simp] theorem sendItem_eng (s : State) (p : Nat) (d b : Bytes) : (sendItem s p d b).eng = s.eng := rfl
@[simp] theorem sendItem_st (s : State) (p : Nat) (d b : Bytes) : (sendItem s p d b).st = s.st := rfl
@[simp] theorem sendItem_fns (s : State) (p : Nat) (d b : Bytes) : (sendItem s p d b).fns = s.fns := rfl
@[simp] theorem sendItem_env (s : State) (p : Nat) (d b : Bytes) : (sendItem s p d b).env = s.env := rfl
@[simp] theorem sendItem_pow (s : State) (p : Nat) (d b : Bytes) : (sendItem s p d b).pow = s.pow := rfl
@[simp] theorem sendItem_face (s : State) (p : Nat) (d b : Bytes) : (sendItem s p d b).face = s.face := rfl
@[simp] theorem sendItem_sec (s : State) (p : Nat) (d b : Bytes) : (sendItem s p d b).sec = s.sec := rfl
@[simp] theorem sendItem_free (s : State) (p : Nat) (d b : Bytes) : (sendItem s p d b).free = s.free := rfl

@[simp] theorem countError_pending (s : State) (i : Nat) : (countError s i).pending = s.pending := rfl
@[simp] theorem countError_mbx (s : State) (i : Nat) : (countError s i).mbx = s.mbx := rfl
@[simp] theorem countError_flash (s : State) (i : Nat) : (countError s i).flash = s.flash := rfl
@[simp] theorem countError_eng (s : State) (i : Nat) : (countError s i).eng = s.eng := rfl
@[simp] theorem countError_fab (s : State) (i : Nat) : (countError s i).fab = s.fab := rfl
@[simp] theorem countError_st (s : State) (i : Nat) : (countError s i).st = s.st := rfl
@[simp] theorem countError_fns (s : State) (i : Nat) : (countError s i).fns = s.fns := rfl
@[simp] theorem countError_env (s : State) (i : Nat) : (countError s i).env = s.env := rfl
@[simp] theorem countError_face (s : State) (i : Nat) : (countError s i).face = s.face := rfl
@[simp] theorem countError_sec (s : State) (i : Nat) : (countError s i).sec = s.sec := rfl
@[simp] theorem countError_free (s : State) (i : Nat) : (countError s i).free = s.free := rfl

@[simp] theorem clearAlert_pending (s : State) (i : Nat) : (clearAlert s i).pending = s.pending := rfl
@[simp] theorem clearAlert_mbx (s : State) (i : Nat) : (clearAlert s i).mbx = s.mbx := rfl
@[simp] theorem clearAlert_flash (s : State) (i : Nat) : (clearAlert s i).flash = s.flash := rfl
@[simp] theorem clearAlert_eng (s : State) (i : Nat) : (clearAlert s i).eng = s.eng := rfl
@[simp] theorem clearAlert_fab (s : State) (i : Nat) : (clearAlert s i).fab = s.fab := rfl
@[simp] theorem clearAlert_st (s : State) (i : Nat) : (clearAlert s i).st = s.st := rfl
@[simp] theorem clearAlert_fns (s : State) (i : Nat) : (clearAlert s i).fns = s.fns := rfl
@[simp] theorem clearAlert_env (s : State) (i : Nat) : (clearAlert s i).env = s.env := rfl
@[simp] theorem clearAlert_pow (s : State) (i : Nat) : (clearAlert s i).pow = s.pow := rfl
@[simp] theorem clearAlert_sec (s : State) (i : Nat) : (clearAlert s i).sec = s.sec := rfl
@[simp] theorem clearAlert_free (s : State) (i : Nat) : (clearAlert s i).free = s.free := rfl

@[simp] theorem storeBytes_pending (s : State) (a : Nat) (b : Bytes) : (storeBytes s a b).pending = s.pending := rfl
@[simp] theorem storeBytes_mbx (s : State) (a : Nat) (b : Bytes) : (storeBytes s a b).mbx = s.mbx := rfl
@[simp] theorem storeBytes_flash (s : State) (a : Nat) (b : Bytes) : (storeBytes s a b).flash = s.flash := rfl
@[simp] theorem storeBytes_eng (s : State) (a : Nat) (b : Bytes) : (storeBytes s a b).eng = s.eng := rfl
@[simp] theorem storeBytes_fab (s : State) (a : Nat) (b : Bytes) : (storeBytes s a b).fab = s.fab := rfl
@[simp] theorem storeBytes_fns (s : State) (a : Nat) (b : Bytes) : (storeBytes s a b).fns = s.fns := rfl
@[simp] theorem storeBytes_env (s : State) (a : Nat) (b : Bytes) : (storeBytes s a b).env = s.env := rfl
@[simp] theorem storeBytes_pow (s : State) (a : Nat) (b : Bytes) : (storeBytes s a b).pow = s.pow := rfl
@[simp] theorem storeBytes_face (s : State) (a : Nat) (b : Bytes) : (storeBytes s a b).face = s.face := rfl
@[simp] theorem storeBytes_sec (s : State) (a : Nat) (b : Bytes) : (storeBytes s a b).sec = s.sec := rfl
@[simp] theorem storeBytes_free (s : State) (a : Nat) (b : Bytes) : (storeBytes s a b).free = s.free := rfl

@[simp] theorem zeroRange_pending (s : State) (a n : Nat) : (zeroRange s a n).pending = s.pending := rfl
@[simp] theorem zeroRange_mbx (s : State) (a n : Nat) : (zeroRange s a n).mbx = s.mbx := rfl
@[simp] theorem zeroRange_flash (s : State) (a n : Nat) : (zeroRange s a n).flash = s.flash := rfl
@[simp] theorem zeroRange_eng (s : State) (a n : Nat) : (zeroRange s a n).eng = s.eng := rfl
@[simp] theorem zeroRange_fab (s : State) (a n : Nat) : (zeroRange s a n).fab = s.fab := rfl
@[simp] theorem zeroRange_fns (s : State) (a n : Nat) : (zeroRange s a n).fns = s.fns := rfl
@[simp] theorem zeroRange_env (s : State) (a n : Nat) : (zeroRange s a n).env = s.env := rfl
@[simp] theorem zeroRange_pow (s : State) (a n : Nat) : (zeroRange s a n).pow = s.pow := rfl
@[simp] theorem zeroRange_face (s : State) (a n : Nat) : (zeroRange s a n).face = s.face := rfl
@[simp] theorem zeroRange_sec (s : State) (a n : Nat) : (zeroRange s a n).sec = s.sec := rfl
@[simp] theorem zeroRange_free (s : State) (a n : Nat) : (zeroRange s a n).free = s.free := rfl

@[simp] theorem writeEvent_pending (s : State) (n : Nat) (r : Bytes) : (writeEvent s n r).pending = s.pending := rfl
@[simp] theorem writeEvent_flash (s : State) (n : Nat) (r : Bytes) : (writeEvent s n r).flash = s.flash := rfl
@[simp] theorem writeEvent_eng (s : State) (n : Nat) (r : Bytes) : (writeEvent s n r).eng = s.eng := rfl
@[simp] theorem writeEvent_fab (s : State) (n : Nat) (r : Bytes) : (writeEvent s n r).fab = s.fab := rfl
@[simp] theorem writeEvent_st (s : State) (n : Nat) (r : Bytes) : (writeEvent s n r).st = s.st := rfl
@[simp] theorem writeEvent_fns (s : State) (n : Nat) (r : Bytes) : (writeEvent s n r).fns = s.fns := rfl
@[simp] theorem writeEvent_env (s : State) (n : Nat) (r : Bytes) : (writeEvent s n r).env = s.env := rfl
@[simp] theorem writeEvent_pow (s : State) (n : Nat) (r : Bytes) : (writeEvent s n r).pow = s.pow := rfl
@[simp] theorem writeEvent_face (s : State) (n : Nat) (r : Bytes) : (writeEvent s n r).face = s.face := rfl
@[simp] theorem writeEvent_sec (s : State) (n : Nat) (r : Bytes) : (writeEvent s n r).sec = s.sec := rfl
@[simp] theorem writeEvent_free (s : State) (n : Nat) (r : Bytes) : (writeEvent s n r).free = s.free := rfl

@[simp] theorem latchAlerts_pending (s : State) (c : BitVec 32) : (latchAlerts s c).pending = s.pending := by unfold latchAlerts; split <;> rfl
@[simp] theorem latchAlerts_mbx (s : State) (c : BitVec 32) : (latchAlerts s c).mbx = s.mbx := by unfold latchAlerts; split <;> rfl
@[simp] theorem latchAlerts_flash (s : State) (c : BitVec 32) : (latchAlerts s c).flash = s.flash := by unfold latchAlerts; split <;> rfl
@[simp] theorem latchAlerts_eng (s : State) (c : BitVec 32) : (latchAlerts s c).eng = s.eng := by unfold latchAlerts; split <;> rfl
@[simp] theorem latchAlerts_fab (s : State) (c : BitVec 32) : (latchAlerts s c).fab = s.fab := by unfold latchAlerts; split <;> rfl
@[simp] theorem latchAlerts_st (s : State) (c : BitVec 32) : (latchAlerts s c).st = s.st := by unfold latchAlerts; split <;> rfl
@[simp] theorem latchAlerts_fns (s : State) (c : BitVec 32) : (latchAlerts s c).fns = s.fns := by unfold latchAlerts; split <;> rfl
@[simp] theorem latchAlerts_env (s : State) (c : BitVec 32) : (latchAlerts s c).env = s.env := by unfold latchAlerts; split <;> rfl
@[simp] theorem latchAlerts_pow (s : State) (c : BitVec 32) : (latchAlerts s c).pow = s.pow := by unfold latchAlerts; split <;> rfl
@[simp] theorem latchAlerts_sec (s : State) (c : BitVec 32) : (latchAlerts s c).sec = s.sec := by unfold latchAlerts; split <;> rfl
@[simp] theorem latchAlerts_free (s : State) (c : BitVec 32) : (latchAlerts s c).free = s.free := by unfold latchAlerts; split <;> rfl

@[simp] theorem setAlert_pending (s : State) (i : Nat) : (setAlert s i).pending = s.pending := by unfold setAlert; split <;> simp
@[simp] theorem setAlert_mbx (s : State) (i : Nat) : (setAlert s i).mbx = s.mbx := by unfold setAlert; split <;> simp
@[simp] theorem setAlert_flash (s : State) (i : Nat) : (setAlert s i).flash = s.flash := by unfold setAlert; split <;> simp
@[simp] theorem setAlert_eng (s : State) (i : Nat) : (setAlert s i).eng = s.eng := by unfold setAlert; split <;> simp
@[simp] theorem setAlert_fab (s : State) (i : Nat) : (setAlert s i).fab = s.fab := by unfold setAlert; split <;> simp
@[simp] theorem setAlert_st (s : State) (i : Nat) : (setAlert s i).st = s.st := by unfold setAlert; split <;> simp
@[simp] theorem setAlert_fns (s : State) (i : Nat) : (setAlert s i).fns = s.fns := by unfold setAlert; split <;> simp
@[simp] theorem setAlert_env (s : State) (i : Nat) : (setAlert s i).env = s.env := by unfold setAlert; split <;> simp
@[simp] theorem setAlert_pow (s : State) (i : Nat) : (setAlert s i).pow = s.pow := by unfold setAlert; split <;> simp
@[simp] theorem setAlert_sec (s : State) (i : Nat) : (setAlert s i).sec = s.sec := by unfold setAlert; split <;> simp
@[simp] theorem setAlert_free (s : State) (i : Nat) : (setAlert s i).free = s.free := by unfold setAlert; split <;> simp

@[simp] theorem releaseAlerts_pending (s : State) : (releaseAlerts s).pending = s.pending := by simp [releaseAlerts]
@[simp] theorem releaseAlerts_mbx (s : State) : (releaseAlerts s).mbx = s.mbx := by simp [releaseAlerts]
@[simp] theorem releaseAlerts_flash (s : State) : (releaseAlerts s).flash = s.flash := by simp [releaseAlerts]
@[simp] theorem releaseAlerts_eng (s : State) : (releaseAlerts s).eng = s.eng := by simp [releaseAlerts]
@[simp] theorem releaseAlerts_fab (s : State) : (releaseAlerts s).fab = s.fab := by simp [releaseAlerts]
@[simp] theorem releaseAlerts_st (s : State) : (releaseAlerts s).st = s.st := by simp [releaseAlerts]
@[simp] theorem releaseAlerts_fns (s : State) : (releaseAlerts s).fns = s.fns := by simp [releaseAlerts]
@[simp] theorem releaseAlerts_env (s : State) : (releaseAlerts s).env = s.env := by simp [releaseAlerts]
@[simp] theorem releaseAlerts_pow (s : State) : (releaseAlerts s).pow = s.pow := by simp [releaseAlerts]
@[simp] theorem releaseAlerts_sec (s : State) : (releaseAlerts s).sec = s.sec := by simp [releaseAlerts]
@[simp] theorem releaseAlerts_free (s : State) : (releaseAlerts s).free = s.free := by simp [releaseAlerts]

@[simp] theorem deliverEvent_pending (s : State) (r : Bytes) : (deliverEvent s r).pending = s.pending := by unfold deliverEvent; simp only; (repeat' split) <;> simp
@[simp] theorem deliverEvent_flash (s : State) (r : Bytes) : (deliverEvent s r).flash = s.flash := by unfold deliverEvent; simp only; (repeat' split) <;> simp
@[simp] theorem deliverEvent_eng (s : State) (r : Bytes) : (deliverEvent s r).eng = s.eng := by unfold deliverEvent; simp only; (repeat' split) <;> simp
@[simp] theorem deliverEvent_fab (s : State) (r : Bytes) : (deliverEvent s r).fab = s.fab := by unfold deliverEvent; simp only; (repeat' split) <;> simp
@[simp] theorem deliverEvent_st (s : State) (r : Bytes) : (deliverEvent s r).st = s.st := by unfold deliverEvent; simp only; (repeat' split) <;> simp
@[simp] theorem deliverEvent_fns (s : State) (r : Bytes) : (deliverEvent s r).fns = s.fns := by unfold deliverEvent; simp only; (repeat' split) <;> simp
@[simp] theorem deliverEvent_env (s : State) (r : Bytes) : (deliverEvent s r).env = s.env := by unfold deliverEvent; simp only; (repeat' split) <;> simp
@[simp] theorem deliverEvent_pow (s : State) (r : Bytes) : (deliverEvent s r).pow = s.pow := by unfold deliverEvent; simp only; (repeat' split) <;> simp
@[simp] theorem deliverEvent_face (s : State) (r : Bytes) : (deliverEvent s r).face = s.face := by unfold deliverEvent; simp only; (repeat' split) <;> simp
@[simp] theorem deliverEvent_sec (s : State) (r : Bytes) : (deliverEvent s r).sec = s.sec := by unfold deliverEvent; simp only; (repeat' split) <;> simp
@[simp] theorem deliverEvent_free (s : State) (r : Bytes) : (deliverEvent s r).free = s.free := by unfold deliverEvent; simp only; (repeat' split) <;> simp

@[simp] theorem expressOut_pending (m : Msg) (s : State) (p : Nat) : (expressOut m s p).pending = s.pending := by unfold expressOut; simp only; split <;> rfl
@[simp] theorem expressOut_mbx (m : Msg) (s : State) (p : Nat) : (expressOut m s p).mbx = s.mbx := by unfold expressOut; simp only; split <;> rfl
@[simp] theorem expressOut_flash (m : Msg) (s : State) (p : Nat) : (expressOut m s p).flash = s.flash := by unfold expressOut; simp only; split <;> rfl
@[simp] theorem expressOut_st (m : Msg) (s : State) (p : Nat) : (expressOut m s p).st = s.st := by unfold expressOut; simp only; split <;> rfl
@[simp] theorem expressOut_fns (m : Msg) (s : State) (p : Nat) : (expressOut m s p).fns = s.fns := by unfold expressOut; simp only; split <;> rfl
@[simp] theorem expressOut_env (m : Msg) (s : State) (p : Nat) : (expressOut m s p).env = s.env := by unfold expressOut; simp only; split <;> rfl
@[simp] theorem expressOut_pow (m : Msg) (s : State) (p : Nat) : (expressOut m s p).pow = s.pow := by unfold expressOut; simp only; split <;> rfl
@[simp] theorem expressOut_face (m : Msg) (s : State) (p : Nat) : (expressOut m s p).face = s.face := by unfold expressOut; simp only; split <;> rfl
@[simp] theorem expressOut_sec (m : Msg) (s : State) (p : Nat) : (expressOut m s p).sec = s.sec := by unfold expressOut; simp only; split <;> rfl
@[simp] theorem expressOut_free (m : Msg) (s : State) (p : Nat) : (expressOut m s p).free = s.free := by unfold expressOut; simp only; split <;> rfl

@[simp] theorem emitMsg_pending (s : State) (p : List Nat) (m : Msg) : (emitMsg s p m).pending = s.pending := by
  unfold emitMsg; split; rfl; split; exact foldl_keeps (fun s : State => s.pending) _ (fun s i => expressOut_pending m s i) _ _; rfl
@[simp] theorem emitMsg_mbx (s : State) (p : List Nat) (m : Msg) : (emitMsg s p m).mbx = s.mbx := by
  unfold emitMsg; split; rfl; split; exact foldl_keeps (fun s : State => s.mbx) _ (fun s i => expressOut_mbx m s i) _ _; rfl
@[simp] theorem emitMsg_flash (s : State) (p : List Nat) (m : Msg) : (emitMsg s p m).flash = s.flash := by
  unfold emitMsg; split; rfl; split; exact foldl_keeps (fun s : State => s.flash) _ (fun s i => expressOut_flash m s i) _ _; rfl
@[simp] theorem emitMsg_st (s : State) (p : List Nat) (m : Msg) : (emitMsg s p m).st = s.st := by
  unfold emitMsg; split; rfl; split; exact foldl_keeps (fun s : State => s.st) _ (fun s i => expressOut_st m s i) _ _; rfl
@[simp] theorem emitMsg_fns (s : State) (p : List Nat) (m : Msg) : (emitMsg s p m).fns = s.fns := by
  unfold emitMsg; split; rfl; split; exact foldl_keeps (fun s : State => s.fns) _ (fun s i => expressOut_fns m s i) _ _; rfl
@[simp] theorem emitMsg_env (s : State) (p : List Nat) (m : Msg) : (emitMsg s p m).env = s.env := by
  unfold emitMsg; split; rfl; split; exact foldl_keeps (fun s : State => s.env) _ (fun s i => expressOut_env m s i) _ _; rfl
@[simp] theorem emitMsg_pow (s : State) (p : List Nat) (m : Msg) : (emitMsg s p m).pow = s.pow := by
  unfold emitMsg; split; rfl; split; exact foldl_keeps (fun s : State => s.pow) _ (fun s i => expressOut_pow m s i) _ _; rfl
@[simp] theorem emitMsg_face (s : State) (p : List Nat) (m : Msg) : (emitMsg s p m).face = s.face := by
  unfold emitMsg; split; rfl; split; exact foldl_keeps (fun s : State => s.face) _ (fun s i => expressOut_face m s i) _ _; rfl
@[simp] theorem emitMsg_sec (s : State) (p : List Nat) (m : Msg) : (emitMsg s p m).sec = s.sec := by
  unfold emitMsg; split; rfl; split; exact foldl_keeps (fun s : State => s.sec) _ (fun s i => expressOut_sec m s i) _ _; rfl
@[simp] theorem emitMsg_free (s : State) (p : List Nat) (m : Msg) : (emitMsg s p m).free = s.free := by
  unfold emitMsg; split; rfl; split; exact foldl_keeps (fun s : State => s.free) _ (fun s i => expressOut_free m s i) _ _; rfl

@[simp] theorem sendMsg_pending (s : State) (p : List Nat) (c f : Nat) (b : Bytes) : (sendMsg s p c f b).pending = s.pending := by simp [sendMsg]
@[simp] theorem sendMsg_mbx (s : State) (p : List Nat) (c f : Nat) (b : Bytes) : (sendMsg s p c f b).mbx = s.mbx := by simp [sendMsg]
@[simp] theorem sendMsg_flash (s : State) (p : List Nat) (c f : Nat) (b : Bytes) : (sendMsg s p c f b).flash = s.flash := by simp [sendMsg]
@[simp] theorem sendMsg_st (s : State) (p : List Nat) (c f : Nat) (b : Bytes) : (sendMsg s p c f b).st = s.st := by simp [sendMsg]
@[simp] theorem sendMsg_fns (s : State) (p : List Nat) (c f : Nat) (b : Bytes) : (sendMsg s p c f b).fns = s.fns := by simp [sendMsg]
@[simp] theorem sendMsg_env (s : State) (p : List Nat) (c f : Nat) (b : Bytes) : (sendMsg s p c f b).env = s.env := by simp [sendMsg]
@[simp] theorem sendMsg_pow (s : State) (p : List Nat) (c f : Nat) (b : Bytes) : (sendMsg s p c f b).pow = s.pow := by simp [sendMsg]
@[simp] theorem sendMsg_face (s : State) (p : List Nat) (c f : Nat) (b : Bytes) : (sendMsg s p c f b).face = s.face := by simp [sendMsg]
@[simp] theorem sendMsg_sec (s : State) (p : List Nat) (c f : Nat) (b : Bytes) : (sendMsg s p c f b).sec = s.sec := by simp [sendMsg]
@[simp] theorem sendMsg_free (s : State) (p : List Nat) (c f : Nat) (b : Bytes) : (sendMsg s p c f b).free = s.free := by simp [sendMsg]

@[simp] theorem eventAtBridge_pending (s : State) (r : Bytes) : (eventAtBridge s r).pending = s.pending := by unfold eventAtBridge; split <;> simp
@[simp] theorem eventAtBridge_flash (s : State) (r : Bytes) : (eventAtBridge s r).flash = s.flash := by unfold eventAtBridge; split <;> simp
@[simp] theorem eventAtBridge_eng (s : State) (r : Bytes) : (eventAtBridge s r).eng = s.eng := by unfold eventAtBridge; split <;> simp
@[simp] theorem eventAtBridge_fab (s : State) (r : Bytes) : (eventAtBridge s r).fab = s.fab := by unfold eventAtBridge; split <;> simp
@[simp] theorem eventAtBridge_st (s : State) (r : Bytes) : (eventAtBridge s r).st = s.st := by unfold eventAtBridge; split <;> simp
@[simp] theorem eventAtBridge_fns (s : State) (r : Bytes) : (eventAtBridge s r).fns = s.fns := by unfold eventAtBridge; split <;> simp
@[simp] theorem eventAtBridge_env (s : State) (r : Bytes) : (eventAtBridge s r).env = s.env := by unfold eventAtBridge; split <;> simp
@[simp] theorem eventAtBridge_pow (s : State) (r : Bytes) : (eventAtBridge s r).pow = s.pow := by unfold eventAtBridge; split <;> simp
@[simp] theorem eventAtBridge_face (s : State) (r : Bytes) : (eventAtBridge s r).face = s.face := by unfold eventAtBridge; split <;> simp
@[simp] theorem eventAtBridge_sec (s : State) (r : Bytes) : (eventAtBridge s r).sec = s.sec := by unfold eventAtBridge; split <;> simp
@[simp] theorem eventAtBridge_free (s : State) (r : Bytes) : (eventAtBridge s r).free = s.free := by unfold eventAtBridge; split <;> simp

@[simp] theorem raiseRecord_pending (s : State) (r : Bytes) : (raiseRecord s r).pending = s.pending := by unfold raiseRecord; simp only; (repeat' split) <;> simp
@[simp] theorem raiseRecord_flash (s : State) (r : Bytes) : (raiseRecord s r).flash = s.flash := by unfold raiseRecord; simp only; (repeat' split) <;> simp
@[simp] theorem raiseRecord_st (s : State) (r : Bytes) : (raiseRecord s r).st = s.st := by unfold raiseRecord; simp only; (repeat' split) <;> simp
@[simp] theorem raiseRecord_fns (s : State) (r : Bytes) : (raiseRecord s r).fns = s.fns := by unfold raiseRecord; simp only; (repeat' split) <;> simp
@[simp] theorem raiseRecord_env (s : State) (r : Bytes) : (raiseRecord s r).env = s.env := by unfold raiseRecord; simp only; (repeat' split) <;> simp
@[simp] theorem raiseRecord_pow (s : State) (r : Bytes) : (raiseRecord s r).pow = s.pow := by unfold raiseRecord; simp only; (repeat' split) <;> simp
@[simp] theorem raiseRecord_sec (s : State) (r : Bytes) : (raiseRecord s r).sec = s.sec := by unfold raiseRecord; simp only; (repeat' split) <;> simp
@[simp] theorem raiseRecord_free (s : State) (r : Bytes) : (raiseRecord s r).free = s.free := by unfold raiseRecord; simp only; (repeat' split) <;> simp

@[simp] theorem raiseFn_pending (s : State) (f a b c d e : Nat) : (raiseFn s f a b c d e).pending = s.pending := by simp [raiseFn]
@[simp] theorem raiseFn_flash (s : State) (f a b c d e : Nat) : (raiseFn s f a b c d e).flash = s.flash := by simp [raiseFn]
@[simp] theorem raiseFn_st (s : State) (f a b c d e : Nat) : (raiseFn s f a b c d e).st = s.st := by simp [raiseFn]
@[simp] theorem raiseFn_fns (s : State) (f a b c d e : Nat) : (raiseFn s f a b c d e).fns = s.fns := by simp [raiseFn]
@[simp] theorem raiseFn_env (s : State) (f a b c d e : Nat) : (raiseFn s f a b c d e).env = s.env := by simp [raiseFn]
@[simp] theorem raiseFn_pow (s : State) (f a b c d e : Nat) : (raiseFn s f a b c d e).pow = s.pow := by simp [raiseFn]
@[simp] theorem raiseFn_sec (s : State) (f a b c d e : Nat) : (raiseFn s f a b c d e).sec = s.sec := by simp [raiseFn]
@[simp] theorem raiseFn_free (s : State) (f a b c d e : Nat) : (raiseFn s f a b c d e).free = s.free := by simp [raiseFn]

@[simp] theorem raiseDev_pending (s : State) (f a b c d e : Nat) : (raiseDev s f a b c d e).pending = s.pending := by simp [raiseDev]
@[simp] theorem raiseDev_flash (s : State) (f a b c d e : Nat) : (raiseDev s f a b c d e).flash = s.flash := by simp [raiseDev]
@[simp] theorem raiseDev_st (s : State) (f a b c d e : Nat) : (raiseDev s f a b c d e).st = s.st := by simp [raiseDev]
@[simp] theorem raiseDev_fns (s : State) (f a b c d e : Nat) : (raiseDev s f a b c d e).fns = s.fns := by simp [raiseDev]
@[simp] theorem raiseDev_env (s : State) (f a b c d e : Nat) : (raiseDev s f a b c d e).env = s.env := by simp [raiseDev]
@[simp] theorem raiseDev_pow (s : State) (f a b c d e : Nat) : (raiseDev s f a b c d e).pow = s.pow := by simp [raiseDev]
@[simp] theorem raiseDev_sec (s : State) (f a b c d e : Nat) : (raiseDev s f a b c d e).sec = s.sec := by simp [raiseDev]
@[simp] theorem raiseDev_free (s : State) (f a b c d e : Nat) : (raiseDev s f a b c d e).free = s.free := by simp [raiseDev]

@[simp] theorem forwardTo_pending (s : State) (d : Coord) (q k r p : Nat) (b : Coord) (x : Bytes) : (forwardTo s d q k r p b x).pending = s.pending := by simp [forwardTo]
@[simp] theorem forwardTo_mbx (s : State) (d : Coord) (q k r p : Nat) (b : Coord) (x : Bytes) : (forwardTo s d q k r p b x).mbx = s.mbx := by simp [forwardTo]
@[simp] theorem forwardTo_flash (s : State) (d : Coord) (q k r p : Nat) (b : Coord) (x : Bytes) : (forwardTo s d q k r p b x).flash = s.flash := by simp [forwardTo]
@[simp] theorem forwardTo_st (s : State) (d : Coord) (q k r p : Nat) (b : Coord) (x : Bytes) : (forwardTo s d q k r p b x).st = s.st := by simp [forwardTo]
@[simp] theorem forwardTo_fns (s : State) (d : Coord) (q k r p : Nat) (b : Coord) (x : Bytes) : (forwardTo s d q k r p b x).fns = s.fns := by simp [forwardTo]
@[simp] theorem forwardTo_env (s : State) (d : Coord) (q k r p : Nat) (b : Coord) (x : Bytes) : (forwardTo s d q k r p b x).env = s.env := by simp [forwardTo]
@[simp] theorem forwardTo_pow (s : State) (d : Coord) (q k r p : Nat) (b : Coord) (x : Bytes) : (forwardTo s d q k r p b x).pow = s.pow := by simp [forwardTo]
@[simp] theorem forwardTo_face (s : State) (d : Coord) (q k r p : Nat) (b : Coord) (x : Bytes) : (forwardTo s d q k r p b x).face = s.face := by simp [forwardTo]
@[simp] theorem forwardTo_sec (s : State) (d : Coord) (q k r p : Nat) (b : Coord) (x : Bytes) : (forwardTo s d q k r p b x).sec = s.sec := by simp [forwardTo]
@[simp] theorem forwardTo_free (s : State) (d : Coord) (q k r p : Nat) (b : Coord) (x : Bytes) : (forwardTo s d q k r p b x).free = s.free := by simp [forwardTo]

@[simp] theorem forwardPiece_pending (s : State) (d : Coord) (q k r p : Nat) (b : Coord) (x : Bytes) : (forwardPiece s d q k r p b x).pending = s.pending := by
  unfold forwardPiece; split
  · simp only; split
    · rfl
    · simp
  · simp
@[simp] theorem forwardPiece_mbx (s : State) (d : Coord) (q k r p : Nat) (b : Coord) (x : Bytes) : (forwardPiece s d q k r p b x).mbx = s.mbx := by
  unfold forwardPiece; split
  · simp only; split
    · rfl
    · simp
  · simp
@[simp] theorem forwardPiece_flash (s : State) (d : Coord) (q k r p : Nat) (b : Coord) (x : Bytes) : (forwardPiece s d q k r p b x).flash = s.flash := by
  unfold forwardPiece; split
  · simp only; split
    · rfl
    · simp
  · simp
@[simp] theorem forwardPiece_st (s : State) (d : Coord) (q k r p : Nat) (b : Coord) (x : Bytes) : (forwardPiece s d q k r p b x).st = s.st := by
  unfold forwardPiece; split
  · simp only; split
    · rfl
    · simp
  · simp
@[simp] theorem forwardPiece_fns (s : State) (d : Coord) (q k r p : Nat) (b : Coord) (x : Bytes) : (forwardPiece s d q k r p b x).fns = s.fns := by
  unfold forwardPiece; split
  · simp only; split
    · rfl
    · simp
  · simp
@[simp] theorem forwardPiece_env (s : State) (d : Coord) (q k r p : Nat) (b : Coord) (x : Bytes) : (forwardPiece s d q k r p b x).env = s.env := by
  unfold forwardPiece; split
  · simp only; split
    · rfl
    · simp
  · simp
@[simp] theorem forwardPiece_pow (s : State) (d : Coord) (q k r p : Nat) (b : Coord) (x : Bytes) : (forwardPiece s d q k r p b x).pow = s.pow := by
  unfold forwardPiece; split
  · simp only; split
    · rfl
    · simp
  · simp
@[simp] theorem forwardPiece_face (s : State) (d : Coord) (q k r p : Nat) (b : Coord) (x : Bytes) : (forwardPiece s d q k r p b x).face = s.face := by
  unfold forwardPiece; split
  · simp only; split
    · rfl
    · simp
  · simp
@[simp] theorem forwardPiece_sec (s : State) (d : Coord) (q k r p : Nat) (b : Coord) (x : Bytes) : (forwardPiece s d q k r p b x).sec = s.sec := by
  unfold forwardPiece; split
  · simp only; split
    · rfl
    · simp
  · simp
@[simp] theorem forwardPiece_free (s : State) (d : Coord) (q k r p : Nat) (b : Coord) (x : Bytes) : (forwardPiece s d q k r p b x).free = s.free := by
  unfold forwardPiece; split
  · simp only; split
    · rfl
    · simp
  · simp

@[simp] theorem forwardPieces_pending (s : State) (d : Coord) (q k r p : Nat) (b : Coord) (x : Bytes) : (forwardPieces s d q k r p b x).pending = s.pending := by
  unfold forwardPieces; exact foldl_keeps (fun s : State => s.pending) _ (by intro s i; simp) _ _
@[simp] theorem forwardPieces_mbx (s : State) (d : Coord) (q k r p : Nat) (b : Coord) (x : Bytes) : (forwardPieces s d q k r p b x).mbx = s.mbx := by
  unfold forwardPieces; exact foldl_keeps (fun s : State => s.mbx) _ (by intro s i; simp) _ _
@[simp] theorem forwardPieces_flash (s : State) (d : Coord) (q k r p : Nat) (b : Coord) (x : Bytes) : (forwardPieces s d q k r p b x).flash = s.flash := by
  unfold forwardPieces; exact foldl_keeps (fun s : State => s.flash) _ (by intro s i; simp) _ _
@[simp] theorem forwardPieces_st (s : State) (d : Coord) (q k r p : Nat) (b : Coord) (x : Bytes) : (forwardPieces s d q k r p b x).st = s.st := by
  unfold forwardPieces; exact foldl_keeps (fun s : State => s.st) _ (by intro s i; simp) _ _
@[simp] theorem forwardPieces_fns (s : State) (d : Coord) (q k r p : Nat) (b : Coord) (x : Bytes) : (forwardPieces s d q k r p b x).fns = s.fns := by
  unfold forwardPieces; exact foldl_keeps (fun s : State => s.fns) _ (by intro s i; simp) _ _
@[simp] theorem forwardPieces_env (s : State) (d : Coord) (q k r p : Nat) (b : Coord) (x : Bytes) : (forwardPieces s d q k r p b x).env = s.env := by
  unfold forwardPieces; exact foldl_keeps (fun s : State => s.env) _ (by intro s i; simp) _ _
@[simp] theorem forwardPieces_pow (s : State) (d : Coord) (q k r p : Nat) (b : Coord) (x : Bytes) : (forwardPieces s d q k r p b x).pow = s.pow := by
  unfold forwardPieces; exact foldl_keeps (fun s : State => s.pow) _ (by intro s i; simp) _ _
@[simp] theorem forwardPieces_face (s : State) (d : Coord) (q k r p : Nat) (b : Coord) (x : Bytes) : (forwardPieces s d q k r p b x).face = s.face := by
  unfold forwardPieces; exact foldl_keeps (fun s : State => s.face) _ (by intro s i; simp) _ _
@[simp] theorem forwardPieces_sec (s : State) (d : Coord) (q k r p : Nat) (b : Coord) (x : Bytes) : (forwardPieces s d q k r p b x).sec = s.sec := by
  unfold forwardPieces; exact foldl_keeps (fun s : State => s.sec) _ (by intro s i; simp) _ _
@[simp] theorem forwardPieces_free (s : State) (d : Coord) (q k r p : Nat) (b : Coord) (x : Bytes) : (forwardPieces s d q k r p b x).free = s.free := by
  unfold forwardPieces; exact foldl_keeps (fun s : State => s.free) _ (by intro s i; simp) _ _

@[simp] theorem settle_pending (s : State) (q : Nat) : (settle s q).pending = s.pending := by unfold settle; simp only; (repeat' split) <;> simp
@[simp] theorem settle_flash (s : State) (q : Nat) : (settle s q).flash = s.flash := by unfold settle; simp only; (repeat' split) <;> simp
@[simp] theorem settle_eng (s : State) (q : Nat) : (settle s q).eng = s.eng := by unfold settle; simp only; (repeat' split) <;> simp
@[simp] theorem settle_fab (s : State) (q : Nat) : (settle s q).fab = s.fab := by unfold settle; simp only; (repeat' split) <;> simp
@[simp] theorem settle_st (s : State) (q : Nat) : (settle s q).st = s.st := by unfold settle; simp only; (repeat' split) <;> simp
@[simp] theorem settle_fns (s : State) (q : Nat) : (settle s q).fns = s.fns := by unfold settle; simp only; (repeat' split) <;> simp
@[simp] theorem settle_env (s : State) (q : Nat) : (settle s q).env = s.env := by unfold settle; simp only; (repeat' split) <;> simp
@[simp] theorem settle_pow (s : State) (q : Nat) : (settle s q).pow = s.pow := by unfold settle; simp only; (repeat' split) <;> simp
@[simp] theorem settle_face (s : State) (q : Nat) : (settle s q).face = s.face := by unfold settle; simp only; (repeat' split) <;> simp
@[simp] theorem settle_sec (s : State) (q : Nat) : (settle s q).sec = s.sec := by unfold settle; simp only; (repeat' split) <;> simp
@[simp] theorem settle_free (s : State) (q : Nat) : (settle s q).free = s.free := by unfold settle; simp only; (repeat' split) <;> simp

@[simp] theorem recordTarget_pending (s : State) (q : Nat) (c : Coord) (a b r : Nat) (e x : Bytes) : (recordTarget s q c a b r e x).pending = s.pending := by simp [recordTarget]
@[simp] theorem recordTarget_flash (s : State) (q : Nat) (c : Coord) (a b r : Nat) (e x : Bytes) : (recordTarget s q c a b r e x).flash = s.flash := by simp [recordTarget]
@[simp] theorem recordTarget_eng (s : State) (q : Nat) (c : Coord) (a b r : Nat) (e x : Bytes) : (recordTarget s q c a b r e x).eng = s.eng := by simp [recordTarget]
@[simp] theorem recordTarget_fab (s : State) (q : Nat) (c : Coord) (a b r : Nat) (e x : Bytes) : (recordTarget s q c a b r e x).fab = s.fab := by simp [recordTarget]
@[simp] theorem recordTarget_st (s : State) (q : Nat) (c : Coord) (a b r : Nat) (e x : Bytes) : (recordTarget s q c a b r e x).st = s.st := by simp [recordTarget]
@[simp] theorem recordTarget_fns (s : State) (q : Nat) (c : Coord) (a b r : Nat) (e x : Bytes) : (recordTarget s q c a b r e x).fns = s.fns := by simp [recordTarget]
@[simp] theorem recordTarget_env (s : State) (q : Nat) (c : Coord) (a b r : Nat) (e x : Bytes) : (recordTarget s q c a b r e x).env = s.env := by simp [recordTarget]
@[simp] theorem recordTarget_pow (s : State) (q : Nat) (c : Coord) (a b r : Nat) (e x : Bytes) : (recordTarget s q c a b r e x).pow = s.pow := by simp [recordTarget]
@[simp] theorem recordTarget_face (s : State) (q : Nat) (c : Coord) (a b r : Nat) (e x : Bytes) : (recordTarget s q c a b r e x).face = s.face := by simp [recordTarget]
@[simp] theorem recordTarget_sec (s : State) (q : Nat) (c : Coord) (a b r : Nat) (e x : Bytes) : (recordTarget s q c a b r e x).sec = s.sec := by simp [recordTarget]
@[simp] theorem recordTarget_free (s : State) (q : Nat) (c : Coord) (a b r : Nat) (e x : Bytes) : (recordTarget s q c a b r e x).free = s.free := by simp [recordTarget]

@[simp] theorem answer_pending (s : State) (c : Cmd) (r : Reply) : (answer s c r).pending = s.pending := by unfold answer; simp only; (repeat' split) <;> simp
@[simp] theorem answer_flash (s : State) (c : Cmd) (r : Reply) : (answer s c r).flash = s.flash := by unfold answer; simp only; (repeat' split) <;> simp
@[simp] theorem answer_st (s : State) (c : Cmd) (r : Reply) : (answer s c r).st = s.st := by unfold answer; simp only; (repeat' split) <;> simp
@[simp] theorem answer_fns (s : State) (c : Cmd) (r : Reply) : (answer s c r).fns = s.fns := by unfold answer; simp only; (repeat' split) <;> simp
@[simp] theorem answer_env (s : State) (c : Cmd) (r : Reply) : (answer s c r).env = s.env := by unfold answer; simp only; (repeat' split) <;> simp
@[simp] theorem answer_pow (s : State) (c : Cmd) (r : Reply) : (answer s c r).pow = s.pow := by unfold answer; simp only; (repeat' split) <;> simp
@[simp] theorem answer_face (s : State) (c : Cmd) (r : Reply) : (answer s c r).face = s.face := by unfold answer; simp only; (repeat' split) <;> simp
@[simp] theorem answer_sec (s : State) (c : Cmd) (r : Reply) : (answer s c r).sec = s.sec := by unfold answer; simp only; (repeat' split) <;> simp
@[simp] theorem answer_free (s : State) (c : Cmd) (r : Reply) : (answer s c r).free = s.free := by unfold answer; simp only; (repeat' split) <;> simp

@[simp] theorem answerReq_pending (s : State) (q : Nat) (r : Reply) : (answerReq s q r).pending = s.pending := by unfold answerReq; split <;> simp
@[simp] theorem answerReq_flash (s : State) (q : Nat) (r : Reply) : (answerReq s q r).flash = s.flash := by unfold answerReq; split <;> simp
@[simp] theorem answerReq_st (s : State) (q : Nat) (r : Reply) : (answerReq s q r).st = s.st := by unfold answerReq; split <;> simp
@[simp] theorem answerReq_fns (s : State) (q : Nat) (r : Reply) : (answerReq s q r).fns = s.fns := by unfold answerReq; split <;> simp
@[simp] theorem answerReq_env (s : State) (q : Nat) (r : Reply) : (answerReq s q r).env = s.env := by unfold answerReq; split <;> simp
@[simp] theorem answerReq_pow (s : State) (q : Nat) (r : Reply) : (answerReq s q r).pow = s.pow := by unfold answerReq; split <;> simp
@[simp] theorem answerReq_face (s : State) (q : Nat) (r : Reply) : (answerReq s q r).face = s.face := by unfold answerReq; split <;> simp
@[simp] theorem answerReq_sec (s : State) (q : Nat) (r : Reply) : (answerReq s q r).sec = s.sec := by unfold answerReq; split <;> simp
@[simp] theorem answerReq_free (s : State) (q : Nat) (r : Reply) : (answerReq s q r).free = s.free := by unfold answerReq; split <;> simp

@[simp] theorem answerOpt_pending (s : State) (q : Option Nat) (r : Reply) : (answerOpt s q r).pending = s.pending := by unfold answerOpt; split <;> simp
@[simp] theorem answerOpt_flash (s : State) (q : Option Nat) (r : Reply) : (answerOpt s q r).flash = s.flash := by unfold answerOpt; split <;> simp
@[simp] theorem answerOpt_st (s : State) (q : Option Nat) (r : Reply) : (answerOpt s q r).st = s.st := by unfold answerOpt; split <;> simp
@[simp] theorem answerOpt_fns (s : State) (q : Option Nat) (r : Reply) : (answerOpt s q r).fns = s.fns := by unfold answerOpt; split <;> simp
@[simp] theorem answerOpt_env (s : State) (q : Option Nat) (r : Reply) : (answerOpt s q r).env = s.env := by unfold answerOpt; split <;> simp
@[simp] theorem answerOpt_pow (s : State) (q : Option Nat) (r : Reply) : (answerOpt s q r).pow = s.pow := by unfold answerOpt; split <;> simp
@[simp] theorem answerOpt_face (s : State) (q : Option Nat) (r : Reply) : (answerOpt s q r).face = s.face := by unfold answerOpt; split <;> simp
@[simp] theorem answerOpt_sec (s : State) (q : Option Nat) (r : Reply) : (answerOpt s q r).sec = s.sec := by unfold answerOpt; split <;> simp
@[simp] theorem answerOpt_free (s : State) (q : Option Nat) (r : Reply) : (answerOpt s q r).free = s.free := by unfold answerOpt; split <;> simp

@[simp] theorem answerAll_pending (s : State) (q : List Nat) (r : Reply) : (answerAll s q r).pending = s.pending := by
  unfold answerAll; exact foldl_keeps (fun s : State => s.pending) _ (by intro s i; simp) _ _
@[simp] theorem answerAll_flash (s : State) (q : List Nat) (r : Reply) : (answerAll s q r).flash = s.flash := by
  unfold answerAll; exact foldl_keeps (fun s : State => s.flash) _ (by intro s i; simp) _ _
@[simp] theorem answerAll_st (s : State) (q : List Nat) (r : Reply) : (answerAll s q r).st = s.st := by
  unfold answerAll; exact foldl_keeps (fun s : State => s.st) _ (by intro s i; simp) _ _
@[simp] theorem answerAll_fns (s : State) (q : List Nat) (r : Reply) : (answerAll s q r).fns = s.fns := by
  unfold answerAll; exact foldl_keeps (fun s : State => s.fns) _ (by intro s i; simp) _ _
@[simp] theorem answerAll_env (s : State) (q : List Nat) (r : Reply) : (answerAll s q r).env = s.env := by
  unfold answerAll; exact foldl_keeps (fun s : State => s.env) _ (by intro s i; simp) _ _
@[simp] theorem answerAll_pow (s : State) (q : List Nat) (r : Reply) : (answerAll s q r).pow = s.pow := by
  unfold answerAll; exact foldl_keeps (fun s : State => s.pow) _ (by intro s i; simp) _ _
@[simp] theorem answerAll_face (s : State) (q : List Nat) (r : Reply) : (answerAll s q r).face = s.face := by
  unfold answerAll; exact foldl_keeps (fun s : State => s.face) _ (by intro s i; simp) _ _
@[simp] theorem answerAll_sec (s : State) (q : List Nat) (r : Reply) : (answerAll s q r).sec = s.sec := by
  unfold answerAll; exact foldl_keeps (fun s : State => s.sec) _ (by intro s i; simp) _ _
@[simp] theorem answerAll_free (s : State) (q : List Nat) (r : Reply) : (answerAll s q r).free = s.free := by
  unfold answerAll; exact foldl_keeps (fun s : State => s.free) _ (by intro s i; simp) _ _

@[simp] theorem expressOut_sansQueue (m : Msg) (s : State) (p : Nat) : (expressOut m s p).eng.sansQueue = s.eng.sansQueue := by
  unfold expressOut; simp only; split <;> rfl
@[simp] theorem emitMsg_sansQueue (s : State) (p : List Nat) (m : Msg) : (emitMsg s p m).eng.sansQueue = s.eng.sansQueue := by
  unfold emitMsg; split; rfl; split; exact foldl_keeps (fun s : State => s.eng.sansQueue) _ (fun s i => expressOut_sansQueue m s i) _ _; rfl
@[simp] theorem expressOut_sansSent (m : Msg) (s : State) (p : Nat) : (expressOut m s p).fab.sansSent = s.fab.sansSent := by
  unfold expressOut; simp only; split <;> rfl
@[simp] theorem emitMsg_sansSent (s : State) (p : List Nat) (m : Msg) : (emitMsg s p m).fab.sansSent = s.fab.sansSent := by
  unfold emitMsg; split; rfl; split; exact foldl_keeps (fun s : State => s.fab.sansSent) _ (fun s i => expressOut_sansSent m s i) _ _; rfl

@[simp] theorem sendMsg_sansQueue (s : State) (p : List Nat) (c f : Nat) (b : Bytes) : (sendMsg s p c f b).eng.sansQueue = s.eng.sansQueue := by simp [sendMsg]
@[simp] theorem sendMsg_sansSent (s : State) (p : List Nat) (c f : Nat) (b : Bytes) : (sendMsg s p c f b).fab.sansSent = s.fab.sansSent := by simp [sendMsg]
@[simp] theorem raiseRecord_sansQueue (s : State) (r : Bytes) : (raiseRecord s r).eng.sansQueue = s.eng.sansQueue := by unfold raiseRecord; simp only; (repeat' split) <;> simp
@[simp] theorem raiseRecord_sansSent (s : State) (r : Bytes) : (raiseRecord s r).fab.sansSent = s.fab.sansSent := by unfold raiseRecord; simp only; (repeat' split) <;> simp
@[simp] theorem raiseFn_sansQueue (s : State) (f a b c d e : Nat) : (raiseFn s f a b c d e).eng.sansQueue = s.eng.sansQueue := by simp [raiseFn]
@[simp] theorem raiseFn_sansSent (s : State) (f a b c d e : Nat) : (raiseFn s f a b c d e).fab.sansSent = s.fab.sansSent := by simp [raiseFn]
@[simp] theorem raiseDev_sansQueue (s : State) (f a b c d e : Nat) : (raiseDev s f a b c d e).eng.sansQueue = s.eng.sansQueue := by simp [raiseDev]
@[simp] theorem raiseDev_sansSent (s : State) (f a b c d e : Nat) : (raiseDev s f a b c d e).fab.sansSent = s.fab.sansSent := by simp [raiseDev]
@[simp] theorem forwardTo_sansQueue (s : State) (d : Coord) (q k r p : Nat) (b : Coord) (x : Bytes) : (forwardTo s d q k r p b x).eng.sansQueue = s.eng.sansQueue := by simp [forwardTo]
@[simp] theorem forwardTo_sansSent (s : State) (d : Coord) (q k r p : Nat) (b : Coord) (x : Bytes) : (forwardTo s d q k r p b x).fab.sansSent = s.fab.sansSent := by simp [forwardTo]
@[simp] theorem forwardPiece_sansQueue (s : State) (d : Coord) (q k r p : Nat) (b : Coord) (x : Bytes) : (forwardPiece s d q k r p b x).eng.sansQueue = s.eng.sansQueue := by
  unfold forwardPiece; split
  · simp only; split
    · rfl
    · simp
  · simp
@[simp] theorem forwardPiece_sansSent (s : State) (d : Coord) (q k r p : Nat) (b : Coord) (x : Bytes) : (forwardPiece s d q k r p b x).fab.sansSent = s.fab.sansSent := by
  unfold forwardPiece; split
  · simp only; split
    · rfl
    · simp
  · simp
@[simp] theorem forwardPieces_sansQueue (s : State) (d : Coord) (q k r p : Nat) (b : Coord) (x : Bytes) : (forwardPieces s d q k r p b x).eng.sansQueue = s.eng.sansQueue := by
  unfold forwardPieces; exact foldl_keeps (fun s : State => s.eng.sansQueue) _ (by intro s i; simp) _ _
@[simp] theorem forwardPieces_sansSent (s : State) (d : Coord) (q k r p : Nat) (b : Coord) (x : Bytes) : (forwardPieces s d q k r p b x).fab.sansSent = s.fab.sansSent := by
  unfold forwardPieces; exact foldl_keeps (fun s : State => s.fab.sansSent) _ (by intro s i; simp) _ _
@[simp] theorem answer_sansQueue (s : State) (c : Cmd) (r : Reply) : (answer s c r).eng.sansQueue = s.eng.sansQueue := by unfold answer; simp only; (repeat' split) <;> simp
@[simp] theorem answer_sansSent (s : State) (c : Cmd) (r : Reply) : (answer s c r).fab.sansSent = s.fab.sansSent := by unfold answer; simp only; (repeat' split) <;> simp
@[simp] theorem answerReq_sansQueue (s : State) (q : Nat) (r : Reply) : (answerReq s q r).eng.sansQueue = s.eng.sansQueue := by unfold answerReq; split <;> simp
@[simp] theorem answerReq_sansSent (s : State) (q : Nat) (r : Reply) : (answerReq s q r).fab.sansSent = s.fab.sansSent := by unfold answerReq; split <;> simp
@[simp] theorem answerOpt_sansQueue (s : State) (q : Option Nat) (r : Reply) : (answerOpt s q r).eng.sansQueue = s.eng.sansQueue := by unfold answerOpt; split <;> simp
@[simp] theorem answerOpt_sansSent (s : State) (q : Option Nat) (r : Reply) : (answerOpt s q r).fab.sansSent = s.fab.sansSent := by unfold answerOpt; split <;> simp
@[simp] theorem answerAll_sansQueue (s : State) (q : List Nat) (r : Reply) : (answerAll s q r).eng.sansQueue = s.eng.sansQueue := by
  unfold answerAll; exact foldl_keeps (fun s : State => s.eng.sansQueue) _ (by intro s i; simp) _ _
@[simp] theorem answerAll_sansSent (s : State) (q : List Nat) (r : Reply) : (answerAll s q r).fab.sansSent = s.fab.sansSent := by
  unfold answerAll; exact foldl_keeps (fun s : State => s.fab.sansSent) _ (by intro s i; simp) _ _

@[simp] theorem setPort_sansSent (s : State) (p : Nat) (g : PortSt → PortSt) : (setPort s p g).fab.sent = s.fab.sent := rfl
@[simp] theorem sendItem_sansSent (s : State) (p : Nat) (d b : Bytes) : (sendItem s p d b).fab.sansSent = s.fab.sansSent := rfl
@[simp] theorem storeBytes_sansMem (s : State) (a : Nat) (b : Bytes) :
    ({ (storeBytes s a b).st with mem := [], bad := [] } : Stores) = { s.st with mem := [], bad := [] } := rfl

@[simp] theorem emitMsg_beat (s : State) (p : List Nat) (m : Msg) : (emitMsg s p m).eng.beat = s.eng.beat := by
  have h := congrArg BeatEngine.beat (emitMsg_sansQueue s p m); exact h
@[simp] theorem emitMsg_phase (s : State) (p : List Nat) (m : Msg) : (emitMsg s p m).eng.phase = s.eng.phase := by
  have h := congrArg BeatEngine.phase (emitMsg_sansQueue s p m); exact h
@[simp] theorem emitMsg_period (s : State) (p : List Nat) (m : Msg) : (emitMsg s p m).eng.period = s.eng.period := by
  have h := congrArg BeatEngine.period (emitMsg_sansQueue s p m); exact h
@[simp] theorem emitMsg_level (s : State) (p : List Nat) (m : Msg) : (emitMsg s p m).eng.level = s.eng.level := by
  have h := congrArg BeatEngine.level (emitMsg_sansQueue s p m); exact h
@[simp] theorem emitMsg_tauAbort (s : State) (p : List Nat) (m : Msg) : (emitMsg s p m).eng.tauAbort = s.eng.tauAbort := by
  have h := congrArg BeatEngine.tauAbort (emitMsg_sansQueue s p m); exact h
@[simp] theorem emitMsg_ports (s : State) (p : List Nat) (m : Msg) : (emitMsg s p m).fab.ports = s.fab.ports := by
  have h := congrArg Fabric.ports (emitMsg_sansSent s p m); exact h
@[simp] theorem emitMsg_map (s : State) (p : List Nat) (m : Msg) : (emitMsg s p m).fab.map = s.fab.map := by
  have h := congrArg Fabric.map (emitMsg_sansSent s p m); exact h
@[simp] theorem emitMsg_bridge (s : State) (p : List Nat) (m : Msg) : (emitMsg s p m).fab.bridge = s.fab.bridge := by
  have h := congrArg Fabric.bridge (emitMsg_sansSent s p m); exact h
@[simp] theorem sendMsg_beat (s : State) (p : List Nat) (c f : Nat) (b : Bytes) : (sendMsg s p c f b).eng.beat = s.eng.beat := by
  have h := congrArg BeatEngine.beat (sendMsg_sansQueue s p c f b); exact h
@[simp] theorem sendMsg_phase (s : State) (p : List Nat) (c f : Nat) (b : Bytes) : (sendMsg s p c f b).eng.phase = s.eng.phase := by
  have h := congrArg BeatEngine.phase (sendMsg_sansQueue s p c f b); exact h
@[simp] theorem sendMsg_period (s : State) (p : List Nat) (c f : Nat) (b : Bytes) : (sendMsg s p c f b).eng.period = s.eng.period := by
  have h := congrArg BeatEngine.period (sendMsg_sansQueue s p c f b); exact h
@[simp] theorem sendMsg_level (s : State) (p : List Nat) (c f : Nat) (b : Bytes) : (sendMsg s p c f b).eng.level = s.eng.level := by
  have h := congrArg BeatEngine.level (sendMsg_sansQueue s p c f b); exact h
@[simp] theorem sendMsg_tauAbort (s : State) (p : List Nat) (c f : Nat) (b : Bytes) : (sendMsg s p c f b).eng.tauAbort = s.eng.tauAbort := by
  have h := congrArg BeatEngine.tauAbort (sendMsg_sansQueue s p c f b); exact h
@[simp] theorem sendMsg_ports (s : State) (p : List Nat) (c f : Nat) (b : Bytes) : (sendMsg s p c f b).fab.ports = s.fab.ports := by
  have h := congrArg Fabric.ports (sendMsg_sansSent s p c f b); exact h
@[simp] theorem sendMsg_map (s : State) (p : List Nat) (c f : Nat) (b : Bytes) : (sendMsg s p c f b).fab.map = s.fab.map := by
  have h := congrArg Fabric.map (sendMsg_sansSent s p c f b); exact h
@[simp] theorem sendMsg_bridge (s : State) (p : List Nat) (c f : Nat) (b : Bytes) : (sendMsg s p c f b).fab.bridge = s.fab.bridge := by
  have h := congrArg Fabric.bridge (sendMsg_sansSent s p c f b); exact h
@[simp] theorem raiseRecord_beat (s : State) (r : Bytes) : (raiseRecord s r).eng.beat = s.eng.beat := by
  have h := congrArg BeatEngine.beat (raiseRecord_sansQueue s r); exact h
@[simp] theorem raiseRecord_phase (s : State) (r : Bytes) : (raiseRecord s r).eng.phase = s.eng.phase := by
  have h := congrArg BeatEngine.phase (raiseRecord_sansQueue s r); exact h
@[simp] theorem raiseRecord_period (s : State) (r : Bytes) : (raiseRecord s r).eng.period = s.eng.period := by
  have h := congrArg BeatEngine.period (raiseRecord_sansQueue s r); exact h
@[simp] theorem raiseRecord_level (s : State) (r : Bytes) : (raiseRecord s r).eng.level = s.eng.level := by
  have h := congrArg BeatEngine.level (raiseRecord_sansQueue s r); exact h
@[simp] theorem raiseRecord_tauAbort (s : State) (r : Bytes) : (raiseRecord s r).eng.tauAbort = s.eng.tauAbort := by
  have h := congrArg BeatEngine.tauAbort (raiseRecord_sansQueue s r); exact h
@[simp] theorem raiseRecord_ports (s : State) (r : Bytes) : (raiseRecord s r).fab.ports = s.fab.ports := by
  have h := congrArg Fabric.ports (raiseRecord_sansSent s r); exact h
@[simp] theorem raiseRecord_map (s : State) (r : Bytes) : (raiseRecord s r).fab.map = s.fab.map := by
  have h := congrArg Fabric.map (raiseRecord_sansSent s r); exact h
@[simp] theorem raiseRecord_bridge (s : State) (r : Bytes) : (raiseRecord s r).fab.bridge = s.fab.bridge := by
  have h := congrArg Fabric.bridge (raiseRecord_sansSent s r); exact h
@[simp] theorem raiseFn_beat (s : State) (f a b c d e : Nat) : (raiseFn s f a b c d e).eng.beat = s.eng.beat := by
  have h := congrArg BeatEngine.beat (raiseFn_sansQueue s f a b c d e); exact h
@[simp] theorem raiseFn_phase (s : State) (f a b c d e : Nat) : (raiseFn s f a b c d e).eng.phase = s.eng.phase := by
  have h := congrArg BeatEngine.phase (raiseFn_sansQueue s f a b c d e); exact h
@[simp] theorem raiseFn_period (s : State) (f a b c d e : Nat) : (raiseFn s f a b c d e).eng.period = s.eng.period := by
  have h := congrArg BeatEngine.period (raiseFn_sansQueue s f a b c d e); exact h
@[simp] theorem raiseFn_level (s : State) (f a b c d e : Nat) : (raiseFn s f a b c d e).eng.level = s.eng.level := by
  have h := congrArg BeatEngine.level (raiseFn_sansQueue s f a b c d e); exact h
@[simp] theorem raiseFn_tauAbort (s : State) (f a b c d e : Nat) : (raiseFn s f a b c d e).eng.tauAbort = s.eng.tauAbort := by
  have h := congrArg BeatEngine.tauAbort (raiseFn_sansQueue s f a b c d e); exact h
@[simp] theorem raiseFn_ports (s : State) (f a b c d e : Nat) : (raiseFn s f a b c d e).fab.ports = s.fab.ports := by
  have h := congrArg Fabric.ports (raiseFn_sansSent s f a b c d e); exact h
@[simp] theorem raiseFn_map (s : State) (f a b c d e : Nat) : (raiseFn s f a b c d e).fab.map = s.fab.map := by
  have h := congrArg Fabric.map (raiseFn_sansSent s f a b c d e); exact h
@[simp] theorem raiseFn_bridge (s : State) (f a b c d e : Nat) : (raiseFn s f a b c d e).fab.bridge = s.fab.bridge := by
  have h := congrArg Fabric.bridge (raiseFn_sansSent s f a b c d e); exact h
@[simp] theorem raiseDev_beat (s : State) (f a b c d e : Nat) : (raiseDev s f a b c d e).eng.beat = s.eng.beat := by
  have h := congrArg BeatEngine.beat (raiseDev_sansQueue s f a b c d e); exact h
@[simp] theorem raiseDev_phase (s : State) (f a b c d e : Nat) : (raiseDev s f a b c d e).eng.phase = s.eng.phase := by
  have h := congrArg BeatEngine.phase (raiseDev_sansQueue s f a b c d e); exact h
@[simp] theorem raiseDev_period (s : State) (f a b c d e : Nat) : (raiseDev s f a b c d e).eng.period = s.eng.period := by
  have h := congrArg BeatEngine.period (raiseDev_sansQueue s f a b c d e); exact h
@[simp] theorem raiseDev_level (s : State) (f a b c d e : Nat) : (raiseDev s f a b c d e).eng.level = s.eng.level := by
  have h := congrArg BeatEngine.level (raiseDev_sansQueue s f a b c d e); exact h
@[simp] theorem raiseDev_tauAbort (s : State) (f a b c d e : Nat) : (raiseDev s f a b c d e).eng.tauAbort = s.eng.tauAbort := by
  have h := congrArg BeatEngine.tauAbort (raiseDev_sansQueue s f a b c d e); exact h
@[simp] theorem raiseDev_ports (s : State) (f a b c d e : Nat) : (raiseDev s f a b c d e).fab.ports = s.fab.ports := by
  have h := congrArg Fabric.ports (raiseDev_sansSent s f a b c d e); exact h
@[simp] theorem raiseDev_map (s : State) (f a b c d e : Nat) : (raiseDev s f a b c d e).fab.map = s.fab.map := by
  have h := congrArg Fabric.map (raiseDev_sansSent s f a b c d e); exact h
@[simp] theorem raiseDev_bridge (s : State) (f a b c d e : Nat) : (raiseDev s f a b c d e).fab.bridge = s.fab.bridge := by
  have h := congrArg Fabric.bridge (raiseDev_sansSent s f a b c d e); exact h
@[simp] theorem forwardTo_beat (s : State) (d : Coord) (q k r p : Nat) (b : Coord) (x : Bytes) : (forwardTo s d q k r p b x).eng.beat = s.eng.beat := by
  have h := congrArg BeatEngine.beat (forwardTo_sansQueue s d q k r p b x); exact h
@[simp] theorem forwardTo_phase (s : State) (d : Coord) (q k r p : Nat) (b : Coord) (x : Bytes) : (forwardTo s d q k r p b x).eng.phase = s.eng.phase := by
  have h := congrArg BeatEngine.phase (forwardTo_sansQueue s d q k r p b x); exact h
@[simp] theorem forwardTo_period (s : State) (d : Coord) (q k r p : Nat) (b : Coord) (x : Bytes) : (forwardTo s d q k r p b x).eng.period = s.eng.period := by
  have h := congrArg BeatEngine.period (forwardTo_sansQueue s d q k r p b x); exact h
@[simp] theorem forwardTo_level (s : State) (d : Coord) (q k r p : Nat) (b : Coord) (x : Bytes) : (forwardTo s d q k r p b x).eng.level = s.eng.level := by
  have h := congrArg BeatEngine.level (forwardTo_sansQueue s d q k r p b x); exact h
@[simp] theorem forwardTo_tauAbort (s : State) (d : Coord) (q k r p : Nat) (b : Coord) (x : Bytes) : (forwardTo s d q k r p b x).eng.tauAbort = s.eng.tauAbort := by
  have h := congrArg BeatEngine.tauAbort (forwardTo_sansQueue s d q k r p b x); exact h
@[simp] theorem forwardTo_ports (s : State) (d : Coord) (q k r p : Nat) (b : Coord) (x : Bytes) : (forwardTo s d q k r p b x).fab.ports = s.fab.ports := by
  have h := congrArg Fabric.ports (forwardTo_sansSent s d q k r p b x); exact h
@[simp] theorem forwardTo_map (s : State) (d : Coord) (q k r p : Nat) (b : Coord) (x : Bytes) : (forwardTo s d q k r p b x).fab.map = s.fab.map := by
  have h := congrArg Fabric.map (forwardTo_sansSent s d q k r p b x); exact h
@[simp] theorem forwardTo_bridge (s : State) (d : Coord) (q k r p : Nat) (b : Coord) (x : Bytes) : (forwardTo s d q k r p b x).fab.bridge = s.fab.bridge := by
  have h := congrArg Fabric.bridge (forwardTo_sansSent s d q k r p b x); exact h
@[simp] theorem forwardPieces_beat (s : State) (d : Coord) (q k r p : Nat) (b : Coord) (x : Bytes) : (forwardPieces s d q k r p b x).eng.beat = s.eng.beat := by
  have h := congrArg BeatEngine.beat (forwardPieces_sansQueue s d q k r p b x); exact h
@[simp] theorem forwardPieces_phase (s : State) (d : Coord) (q k r p : Nat) (b : Coord) (x : Bytes) : (forwardPieces s d q k r p b x).eng.phase = s.eng.phase := by
  have h := congrArg BeatEngine.phase (forwardPieces_sansQueue s d q k r p b x); exact h
@[simp] theorem forwardPieces_period (s : State) (d : Coord) (q k r p : Nat) (b : Coord) (x : Bytes) : (forwardPieces s d q k r p b x).eng.period = s.eng.period := by
  have h := congrArg BeatEngine.period (forwardPieces_sansQueue s d q k r p b x); exact h
@[simp] theorem forwardPieces_level (s : State) (d : Coord) (q k r p : Nat) (b : Coord) (x : Bytes) : (forwardPieces s d q k r p b x).eng.level = s.eng.level := by
  have h := congrArg BeatEngine.level (forwardPieces_sansQueue s d q k r p b x); exact h
@[simp] theorem forwardPieces_tauAbort (s : State) (d : Coord) (q k r p : Nat) (b : Coord) (x : Bytes) : (forwardPieces s d q k r p b x).eng.tauAbort = s.eng.tauAbort := by
  have h := congrArg BeatEngine.tauAbort (forwardPieces_sansQueue s d q k r p b x); exact h
@[simp] theorem forwardPieces_ports (s : State) (d : Coord) (q k r p : Nat) (b : Coord) (x : Bytes) : (forwardPieces s d q k r p b x).fab.ports = s.fab.ports := by
  have h := congrArg Fabric.ports (forwardPieces_sansSent s d q k r p b x); exact h
@[simp] theorem forwardPieces_map (s : State) (d : Coord) (q k r p : Nat) (b : Coord) (x : Bytes) : (forwardPieces s d q k r p b x).fab.map = s.fab.map := by
  have h := congrArg Fabric.map (forwardPieces_sansSent s d q k r p b x); exact h
@[simp] theorem forwardPieces_bridge (s : State) (d : Coord) (q k r p : Nat) (b : Coord) (x : Bytes) : (forwardPieces s d q k r p b x).fab.bridge = s.fab.bridge := by
  have h := congrArg Fabric.bridge (forwardPieces_sansSent s d q k r p b x); exact h
@[simp] theorem answer_beat (s : State) (c : Cmd) (r : Reply) : (answer s c r).eng.beat = s.eng.beat := by
  have h := congrArg BeatEngine.beat (answer_sansQueue s c r); exact h
@[simp] theorem answer_phase (s : State) (c : Cmd) (r : Reply) : (answer s c r).eng.phase = s.eng.phase := by
  have h := congrArg BeatEngine.phase (answer_sansQueue s c r); exact h
@[simp] theorem answer_period (s : State) (c : Cmd) (r : Reply) : (answer s c r).eng.period = s.eng.period := by
  have h := congrArg BeatEngine.period (answer_sansQueue s c r); exact h
@[simp] theorem answer_level (s : State) (c : Cmd) (r : Reply) : (answer s c r).eng.level = s.eng.level := by
  have h := congrArg BeatEngine.level (answer_sansQueue s c r); exact h
@[simp] theorem answer_tauAbort (s : State) (c : Cmd) (r : Reply) : (answer s c r).eng.tauAbort = s.eng.tauAbort := by
  have h := congrArg BeatEngine.tauAbort (answer_sansQueue s c r); exact h
@[simp] theorem answer_ports (s : State) (c : Cmd) (r : Reply) : (answer s c r).fab.ports = s.fab.ports := by
  have h := congrArg Fabric.ports (answer_sansSent s c r); exact h
@[simp] theorem answer_map (s : State) (c : Cmd) (r : Reply) : (answer s c r).fab.map = s.fab.map := by
  have h := congrArg Fabric.map (answer_sansSent s c r); exact h
@[simp] theorem answer_bridge (s : State) (c : Cmd) (r : Reply) : (answer s c r).fab.bridge = s.fab.bridge := by
  have h := congrArg Fabric.bridge (answer_sansSent s c r); exact h
@[simp] theorem answerReq_beat (s : State) (q : Nat) (r : Reply) : (answerReq s q r).eng.beat = s.eng.beat := by
  have h := congrArg BeatEngine.beat (answerReq_sansQueue s q r); exact h
@[simp] theorem answerReq_phase (s : State) (q : Nat) (r : Reply) : (answerReq s q r).eng.phase = s.eng.phase := by
  have h := congrArg BeatEngine.phase (answerReq_sansQueue s q r); exact h
@[simp] theorem answerReq_period (s : State) (q : Nat) (r : Reply) : (answerReq s q r).eng.period = s.eng.period := by
  have h := congrArg BeatEngine.period (answerReq_sansQueue s q r); exact h
@[simp] theorem answerReq_level (s : State) (q : Nat) (r : Reply) : (answerReq s q r).eng.level = s.eng.level := by
  have h := congrArg BeatEngine.level (answerReq_sansQueue s q r); exact h
@[simp] theorem answerReq_tauAbort (s : State) (q : Nat) (r : Reply) : (answerReq s q r).eng.tauAbort = s.eng.tauAbort := by
  have h := congrArg BeatEngine.tauAbort (answerReq_sansQueue s q r); exact h
@[simp] theorem answerReq_ports (s : State) (q : Nat) (r : Reply) : (answerReq s q r).fab.ports = s.fab.ports := by
  have h := congrArg Fabric.ports (answerReq_sansSent s q r); exact h
@[simp] theorem answerReq_map (s : State) (q : Nat) (r : Reply) : (answerReq s q r).fab.map = s.fab.map := by
  have h := congrArg Fabric.map (answerReq_sansSent s q r); exact h
@[simp] theorem answerReq_bridge (s : State) (q : Nat) (r : Reply) : (answerReq s q r).fab.bridge = s.fab.bridge := by
  have h := congrArg Fabric.bridge (answerReq_sansSent s q r); exact h
@[simp] theorem answerOpt_beat (s : State) (q : Option Nat) (r : Reply) : (answerOpt s q r).eng.beat = s.eng.beat := by
  have h := congrArg BeatEngine.beat (answerOpt_sansQueue s q r); exact h
@[simp] theorem answerOpt_phase (s : State) (q : Option Nat) (r : Reply) : (answerOpt s q r).eng.phase = s.eng.phase := by
  have h := congrArg BeatEngine.phase (answerOpt_sansQueue s q r); exact h
@[simp] theorem answerOpt_period (s : State) (q : Option Nat) (r : Reply) : (answerOpt s q r).eng.period = s.eng.period := by
  have h := congrArg BeatEngine.period (answerOpt_sansQueue s q r); exact h
@[simp] theorem answerOpt_level (s : State) (q : Option Nat) (r : Reply) : (answerOpt s q r).eng.level = s.eng.level := by
  have h := congrArg BeatEngine.level (answerOpt_sansQueue s q r); exact h
@[simp] theorem answerOpt_tauAbort (s : State) (q : Option Nat) (r : Reply) : (answerOpt s q r).eng.tauAbort = s.eng.tauAbort := by
  have h := congrArg BeatEngine.tauAbort (answerOpt_sansQueue s q r); exact h
@[simp] theorem answerOpt_ports (s : State) (q : Option Nat) (r : Reply) : (answerOpt s q r).fab.ports = s.fab.ports := by
  have h := congrArg Fabric.ports (answerOpt_sansSent s q r); exact h
@[simp] theorem answerOpt_map (s : State) (q : Option Nat) (r : Reply) : (answerOpt s q r).fab.map = s.fab.map := by
  have h := congrArg Fabric.map (answerOpt_sansSent s q r); exact h
@[simp] theorem answerOpt_bridge (s : State) (q : Option Nat) (r : Reply) : (answerOpt s q r).fab.bridge = s.fab.bridge := by
  have h := congrArg Fabric.bridge (answerOpt_sansSent s q r); exact h
@[simp] theorem answerAll_beat (s : State) (q : List Nat) (r : Reply) : (answerAll s q r).eng.beat = s.eng.beat := by
  have h := congrArg BeatEngine.beat (answerAll_sansQueue s q r); exact h
@[simp] theorem answerAll_phase (s : State) (q : List Nat) (r : Reply) : (answerAll s q r).eng.phase = s.eng.phase := by
  have h := congrArg BeatEngine.phase (answerAll_sansQueue s q r); exact h
@[simp] theorem answerAll_period (s : State) (q : List Nat) (r : Reply) : (answerAll s q r).eng.period = s.eng.period := by
  have h := congrArg BeatEngine.period (answerAll_sansQueue s q r); exact h
@[simp] theorem answerAll_level (s : State) (q : List Nat) (r : Reply) : (answerAll s q r).eng.level = s.eng.level := by
  have h := congrArg BeatEngine.level (answerAll_sansQueue s q r); exact h
@[simp] theorem answerAll_tauAbort (s : State) (q : List Nat) (r : Reply) : (answerAll s q r).eng.tauAbort = s.eng.tauAbort := by
  have h := congrArg BeatEngine.tauAbort (answerAll_sansQueue s q r); exact h
@[simp] theorem answerAll_ports (s : State) (q : List Nat) (r : Reply) : (answerAll s q r).fab.ports = s.fab.ports := by
  have h := congrArg Fabric.ports (answerAll_sansSent s q r); exact h
@[simp] theorem answerAll_map (s : State) (q : List Nat) (r : Reply) : (answerAll s q r).fab.map = s.fab.map := by
  have h := congrArg Fabric.map (answerAll_sansSent s q r); exact h
@[simp] theorem answerAll_bridge (s : State) (q : List Nat) (r : Reply) : (answerAll s q r).fab.bridge = s.fab.bridge := by
  have h := congrArg Fabric.bridge (answerAll_sansSent s q r); exact h

end Sys2Proof.Machine
end

