-- ==== Sys2Proof/Laws/Memory.lean ====
section
/-! SUPPORT. The memory operations keep the canonical form; a read after a write. -/
namespace Sys2Proof.Machine
open Sys2Proof

/-- The canonical form as a property of the list. -/
theorem memory_wf_iff (m : Memory) :
    Memory.wf m = true ↔ m.Pairwise (fun x y => x.1 < y.1) ∧ ∀ c ∈ m, c.2 ≠ 0 := by
  fun_induction Memory.wf m with
  | case1 => simp
  | case2 x v => simp
  | case3 x v y w r ih =>
    simp only [Bool.and_eq_true, bne_iff_ne, ne_eq, decide_eq_true_eq, ih, List.pairwise_cons, List.mem_cons,
      forall_eq_or_imp]
    constructor
    · rintro ⟨⟨hv, hxy⟩, ⟨hy, hr⟩, hw, hn⟩
      exact ⟨⟨⟨hxy, fun a ha => Nat.lt_trans hxy (hy a ha)⟩, hy, hr⟩, hv, hw, hn⟩
    · rintro ⟨⟨⟨hxy, _⟩, hy, hr⟩, hv, hw, hn⟩
      exact ⟨⟨hv, hxy⟩, ⟨hy, hr⟩, hw, hn⟩

/-- The addresses that a write lists were listed before, or are the one written. -/
theorem memPut_mem {m : Memory} {a : Nat} {b : Byte} {c : Host.Cell} (h : c ∈ memPut m a b) :
    c ∈ m ∨ (c = (a, b) ∧ b ≠ 0) := by
  induction m with
  | nil => unfold memPut at h; split at h <;> simp_all
  | cons x r ih =>
    obtain ⟨x, v⟩ := x
    unfold memPut at h
    split at h
    · split at h <;> grind
    · split at h
      · split at h <;> grind
      · rcases List.mem_cons.1 h with h | h
        · exact .inl (by simp [h])
        · rcases ih h with h | h
          · exact .inl (by simp [h])
          · exact .inr h

theorem memPut_wf {m : Memory} (h : Memory.wf m = true) (a : Nat) (b : Byte) : Memory.wf (memPut m a b) = true := by
  rw [memory_wf_iff] at *
  refine ⟨?_, fun c hc => ?_⟩
  · obtain ⟨hp, -⟩ := h
    induction m with
    | nil => unfold memPut; split <;> simp
    | cons x r ih =>
      obtain ⟨x, v⟩ := x
      rw [List.pairwise_cons] at hp
      unfold memPut
      split
      · split
        · exact List.pairwise_cons.2 hp
        · refine List.pairwise_cons.2 ⟨fun y hy => ?_, List.pairwise_cons.2 hp⟩
          rcases List.mem_cons.1 hy with rfl | hy
          · assumption
          · exact Nat.lt_trans ‹a < x› (hp.1 y hy)
      · split
        · subst_vars
          split
          · exact hp.2
          · exact List.pairwise_cons.2 hp
        · refine List.pairwise_cons.2 ⟨fun y hy => ?_, ih hp.2⟩
          rcases memPut_mem hy with hy | ⟨rfl, -⟩
          · exact hp.1 y hy
          · simp only; omega
  · rcases memPut_mem hc with hc | ⟨rfl, hb⟩
    · exact h.2 c hc
    · exact hb

theorem memWrite_wf {m : Memory} (h : Memory.wf m = true) (a : Nat) (b : Bytes) : Memory.wf (memWrite m a b) = true := by
  induction b generalizing m a with
  | nil => exact h
  | cons x r ih => exact ih (memPut_wf h a x) (a + 1)

theorem memClear_wf {m : Memory} (h : Memory.wf m = true) (a n : Nat) : Memory.wf (memClear m a n) = true := by
  rw [memory_wf_iff] at *
  exact ⟨h.1.sublist List.filter_sublist, fun c hc => h.2 c (List.mem_filter.1 hc).1⟩

theorem storeBytes_memSafe {s : State} (h : s.memSafe) (a : Nat) (b : Bytes) : (storeBytes s a b).memSafe :=
  memWrite_wf h a b

theorem zeroRange_memSafe {s : State} (h : s.memSafe) (a n : Nat) : (zeroRange s a n).memSafe := memClear_wf h a n

/-- An address below every listed one reads 0. -/
theorem memGet_below {m : Memory} {a : Nat} (h : ∀ c ∈ m, a < c.1) : memGet m a = 0 := by
  induction m with
  | nil => rfl
  | cons x r ih =>
    obtain ⟨x, v⟩ := x
    have hx := h (x, v) (by simp)
    have : x ≠ a := by simp only at hx; omega
    simp only [memGet, this, if_false]
    exact ih fun c hc => h c (by simp [hc])

/-- A byte written reads back, and every other address reads as before. -/
theorem memGet_memPut {m : Memory} (h : Memory.wf m = true) (a : Nat) (b : Byte) (x : Nat) :
    memGet (memPut m a b) x = if x = a then b else memGet m x := by
  obtain ⟨hp, -⟩ := (memory_wf_iff m).1 h
  clear h
  induction m with
  | nil => unfold memPut; split <;> simp_all [memGet]; grind
  | cons y r ih =>
    obtain ⟨y, v⟩ := y
    rw [List.pairwise_cons] at hp
    unfold memPut
    split
    · rename_i hay
      split
      · rename_i hb
        split
        · subst_vars
          exact memGet_below fun c hc => by
            rcases List.mem_cons.1 hc with rfl | hc
            · exact hay
            · exact Nat.lt_trans hay (hp.1 c hc)
        · rfl
      · rw [memGet]; grind
    · split
      · subst_vars
        split
        · split
          · subst_vars
            exact memGet_below fun c hc => hp.1 c hc
          · simp only [memGet]; grind
        · simp only [memGet]; grind
      · simp only [memGet, ih hp.2]; grind

/-- A run of bytes written reads back byte by byte, and every address outside it reads as before. -/
theorem memGet_memWrite {m : Memory} (h : Memory.wf m = true) (a : Nat) (b : Bytes) (x : Nat) :
    memGet (memWrite m a b) x = if a ≤ x ∧ x < a + b.length then b.getD (x - a) 0 else memGet m x := by
  induction b generalizing m a with
  | nil => simp only [memWrite, List.length_nil]; grind
  | cons v r ih =>
    simp only [memWrite, List.length_cons]
    rw [ih (memPut_wf h a v) (a + 1), memGet_memPut h]
    by_cases hx : x = a
    · subst hx; simp <;> omega
    · have hs : x - a = (x - (a + 1)) + 1 ∨ x < a := by omega
      rcases hs with hs | hs
      · simp only [hx, if_false, hs, List.getD_cons_succ]
        have e : (a ≤ x ∧ x < a + (r.length + 1)) ↔ (a + 1 ≤ x ∧ x < a + 1 + r.length) := by omega
        simp only [e]
      · grind

/-- A cleared range reads 0, and every address outside it reads as before. -/
theorem memGet_memClear (m : Memory) (a n x : Nat) :
    memGet (memClear m a n) x = if a ≤ x ∧ x < a + n then 0 else memGet m x := by
  induction m with
  | nil => simp [memClear, memGet]
  | cons y r ih =>
    obtain ⟨y, v⟩ := y
    unfold memClear at *
    rw [List.filter_cons]
    split <;> simp only [memGet, ih] <;> grind

/-- The slot of an address in an array of slots of which the first m places exist. -/
theorem slot_iff {b k m n x : Nat} (hb : b ≤ x) (hm : (x - b) % k < m) (hk : m ≤ k) :
    (b + n * k ≤ x ∧ x < b + n * k + m) ↔ (x - b) / k = n := by
  have hp : 0 < k := by omega
  have hd := Nat.div_add_mod (x - b) k
  constructor
  · intro h
    exact Nat.div_eq_of_lt_le (by omega) (by rw [Nat.succ_mul]; omega)
  · rintro rfl
    rw [Nat.mul_comm] at hd
    omega

/-- The addresses of local SRAM: those of the slots of the core window that exist. -/
theorem regionOf_core_iff {x : Nat} :
    regionOf x = .core ↔ coreBase ≤ x ∧ x < 0x70000000 ∧ (x - coreBase) % 0x800000 < 6 * 2 ^ 20 := by
  unfold regionOf
  split
  next h => split <;> simp_all
  next h =>
    have h' : ¬ (coreBase ≤ x ∧ x < 0x70000000 ∧ (x - coreBase) % 0x800000 < 6 * 2 ^ 20) := fun g => h ⟨g.1, g.2.1⟩
    simp only [h', iff_false]
    repeat' split
    all_goals exact Region.noConfusion

/-- Cores that lose their contents read zero in their local SRAM; every other core's reads as before. -/
theorem memGet_loseCore_foldl (ns : List Nat) (s : State) (x : Nat) (hb : coreBase ≤ x) (hm : (x - coreBase) % 0x800000 < 6 * 2 ^ 20) :
    memGet (ns.foldl loseCore s).st.mem x = if ((x - coreBase) / 0x800000) ∈ ns then 0 else memGet s.st.mem x := by
  induction ns generalizing s with
  | nil => rfl
  | cons n r ih =>
    rw [List.foldl_cons, ih]
    simp only [loseCore, zeroRange, memGet_memClear, slot_iff hb hm (by decide), List.mem_cons]
    split <;> split <;> simp_all

end Sys2Proof.Machine
end

