-- ==== Sys2Proof/Laws/Lists.lean ====
section
/-! SUPPORT. Changing one entry of a list, and reading the entry of a ring, a port or a function afterwards. -/
namespace Sys2Proof.Machine
open Sys2Proof

@[simp] theorem updNth_length {α : Type} (l : List α) (n : Nat) (f : α → α) : (updNth l n f).length = l.length := by
  induction l generalizing n with
  | nil => rfl
  | cons x r ih => cases n <;> simp [updNth, ih]

theorem updNth_getD {α : Type} (l : List α) (n k : Nat) (f : α → α) (d : α) :
    (updNth l n f).getD k d = if k = n ∧ n < l.length then f (l.getD n d) else l.getD k d := by
  induction l generalizing n k with
  | nil => simp [updNth]
  | cons x r ih =>
    cases n <;> cases k <;> simp_all [updNth]

@[simp] theorem ringAt_setRing (s : State) (n : Nat) (g : RingPair → RingPair) (h : n < s.mbx.rings.length) :
    ringAt (setRing s n g) n = g (ringAt s n) := by
  simp only [ringAt, setRing, updNth_getD]; simp [h]

theorem ringAt_setRing_ne (s : State) {n k : Nat} (g : RingPair → RingPair) (h : k ≠ n) :
    ringAt (setRing s n g) k = ringAt s k := by
  simp only [ringAt, setRing, updNth_getD]; simp [h]

@[simp] theorem portAt_setPort (s : State) (n : Nat) (g : PortSt → PortSt) (h : n < s.fab.ports.length) :
    portAt (setPort s n g) n = g (portAt s n) := by
  simp only [portAt, setPort, updNth_getD]; simp [h]

theorem portAt_setPort_ne (s : State) {n k : Nat} (g : PortSt → PortSt) (h : k ≠ n) :
    portAt (setPort s n g) k = portAt s k := by
  simp only [portAt, setPort, updNth_getD]; simp [h]

@[simp] theorem fnAt_setFn (s : State) (n : Nat) (g : FnSt → FnSt) (h : n < s.fns.length) :
    fnAt (setFn s n g) n = g (fnAt s n) := by
  simp only [fnAt, setFn, updNth_getD]; simp [h]

theorem fnAt_setFn_ne (s : State) {n k : Nat} (g : FnSt → FnSt) (h : k ≠ n) :
    fnAt (setFn s n g) k = fnAt s k := by
  simp only [fnAt, setFn, updNth_getD]; simp [h]

@[simp] theorem jobAt_setJob (s : State) (n : Nat) (g : Job → Job) (h : n < s.fns.length) :
    jobAt (setJob s n g) n = (jobAt s n).map g := by simp [jobAt, setJob, h]

theorem jobAt_setJob_ne (s : State) {n k : Nat} (g : Job → Job) (h : k ≠ n) :
    jobAt (setJob s n g) k = jobAt s k := by simp [jobAt, setJob, fnAt_setFn_ne s _ h]

end Sys2Proof.Machine
end

