-- ==== Sys2Proof/Laws/Frames.lean ====
section
/-! SUPPORT. Frames compose; a frame of fewer parts is one of more; commands that may start run their own effect. -/
namespace Sys2Proof.Machine
open Sys2Proof

theorem frame_refl (l : List Part) (s : State) : Frame l s s := by
  intro p _; cases p <;> simp [Part.same]

theorem frame_trans {l : List Part} {s t u : State} (h : Frame l s t) (k : Frame l t u) : Frame l s u := by
  intro p hp
  have a := h p hp
  have b := k p hp
  cases p <;> simp_all [Part.same]

theorem frame_mono {l k : List Part} {s t : State} (h : Frame l s t) (i : ∀ p ∈ l, p ∈ k) : Frame k s t :=
  fun p hp => h p fun q => hp (i p q)

/-- A frame from the equality of whole fields. -/
theorem frame_of {l : List Part} {s t : State}
    (pending : Part.pending ∈ l ∨ t.pending = s.pending) (mbx : Part.mbx ∈ l ∨ t.mbx = s.mbx)
    (flash : Part.flash ∈ l ∨ t.flash = s.flash) (eng : Part.eng ∈ l ∨ t.eng.sansQueue = s.eng.sansQueue)
    (queue : Part.queue ∈ l ∨ (t.eng.queue = s.eng.queue ∧ t.eng.express = s.eng.express)) (fab : Part.fab ∈ l ∨ t.fab.sansSent = s.fab.sansSent)
    (sent : Part.sent ∈ l ∨ t.fab.sent = s.fab.sent) (stores : Part.stores ∈ l ∨ t.st.sansMem = s.st.sansMem)
    (mem : Part.mem ∈ l ∨ t.st.mem = s.st.mem) (fns : Part.fns ∈ l ∨ t.fns = s.fns)
    (env : Part.env ∈ l ∨ t.env = s.env) (pow : Part.pow ∈ l ∨ t.pow = s.pow) (face : Part.face ∈ l ∨ t.face = s.face)
    (sec : Part.sec ∈ l ∨ t.sec = s.sec) (free : Part.free ∈ l ∨ t.free = s.free) : Frame l s t := by
  intro p hp
  cases p <;> simp_all [Part.same]

theorem track_of {s : State} {c : Cmd} (h : (flightOf s c.req).isSome = true) : track s c = s := by
  unfold track; split <;> simp_all

/-- A command that may start runs its own effect (R391, R399). -/
theorem startCmd_of {s : State} {c : Cmd} (h : MayStart s c) (body : State → State) : startCmd s c body = body s := by
  obtain ⟨h1, h2, h3⟩ := h
  simp [startCmd, track_of h1, h2, h3]

theorem mayStart_of_own {s : State} {c : Cmd} (h : OwnStart s c) : MayStart s c := by
  obtain ⟨⟨f, hf, -⟩, h2, h3⟩ := h
  exact ⟨by simp [hf], h2, h3⟩

end Sys2Proof.Machine
end

