-- ==== Sys2Proof/WellFormed.lean ====
section
/-! DEFINITION. Well-formed commands: operands of the lengths and ranges that the spec gives them. -/
namespace Sys2Proof

/-- A descriptor of 64 bytes on one of the nine ring pairs, with a payload in whole bytes below 4 GiB (R387, R396). -/
def Cmd.wf (c : Cmd) : Bool :=
  decide (c.desc.length = 64) && decide (c.ring < 9) && decide (c.payload.length < 2 ^ 32)

/-- A control message of a type code and at most the largest size of Table 2.3 (R38). -/
def Msg.wf (m : Msg) : Bool := decide (m.body.length ≤ 8176) && decide (1 ≤ m.code) && decide (m.code ≤ 8)

/-- One of the nine ports (R312). -/
def portOk (p : Nat) : Bool := decide (p < 9)

/-- One of the functions F1 to F4, as index 0 to 3 (R439). -/
def fnOk (f : Nat) : Bool := decide (f < 4)

/-- Operand ranges of each command. -/
def Instr.wf : Instr → Bool
  | .mbxCmdBaseWrite _ => true
  | .mbxCmdSizeWrite _ => true
  | .mbxCplBaseWrite _ => true
  | .mbxCmdTail _ => true
  | .mbxCplHead _ => true
  | .registerWriteOther off width _ =>
    decide (width ≤ 8) && !(decide (width = 8) && ([0, 8, 16, 24, 32] : List Nat).contains off)
  | .descriptorFetch ring desc payload => Cmd.wf ⟨0, ring, desc, payload⟩
  | .completionWrite ring _ => decide (ring < 9)
  | .devInfo c => c.wf
  | .devCaps c => c.wf
  | .devSelftest c => c.wf
  | .devReset c => c.wf
  | .devFwStage c => c.wf
  | .devFwActivate c => c.wf
  | .fnPartition c => c.wf
  | .fnEnable c => c.wf
  | .fnAssign c => c.wf
  | .fnReset c => c.wf
  | .fnMolt c => c.wf
  | .memAlloc c => c.wf
  | .memFree c => c.wf
  | .memWrite c => c.wf
  | .memRead c => c.wf
  | .memWindow c => c.wf
  | .jobLoad c => c.wf
  | .jobPlan c => c.wf
  | .jobVerify c => c.wf
  | .jobMap c => c.wf
  | .jobReshard c => c.wf
  | .jobResize c => c.wf
  | .jobUnload c => c.wf
  | .stepRun c => c.wf
  | .stepAbort c => c.wf
  | .stepStatus c => c.wf
  | .batchCancel c => c.wf
  | .snapTake c => c.wf
  | .snapPolicy c => c.wf
  | .snapRestore c => c.wf
  | .snapExport c => c.wf
  | .snapList c => c.wf
  | .linkStatus c => c.wf
  | .linkAdmit c => c.wf
  | .linkDrain c => c.wf
  | .linkMapinfo c => c.wf
  | .timeSync c => c.wf
  | .timeBeatSet c => c.wf
  | .timeBeatStretch c => c.wf
  | .telRead c => c.wf
  | .telSubscribe c => c.wf
  | .secAttest c => c.wf
  | .secKeys c => c.wf
  | .panelLocate c => c.wf
  | .panelService c => c.wf
  | .hostEnvStart c => c.wf
  | .hostEnvStop c => c.wf
  | .holdExpiry fn => fnOk fn
  | .commitBeat fn => fnOk fn
  | .commitIrrevocable fn => fnOk fn
  | .replayAnchor fn => fnOk fn
  | .cancelEffective fn _ => fnOk fn
  | .syncFlit p b _ => portOk p && decide (b.length = 48)
  | .memberAfterLock fn => fnOk fn
  | .abort p m => portOk p && m.wf
  | .stretch p m => portOk p && m.wf
  | .commit p m => portOk p && m.wf
  | .barrier p m => portOk p && m.wf
  | .counts p m => portOk p && m.wf
  | .plan p m => portOk p && m.wf
  | .event p m => portOk p && m.wf
  | .forward p m => portOk p && m.wf
  | .allocationComplete fn _ _ _ => fnOk fn
  | .tokenRow fn _ _ row => fnOk fn && decide (16 ≤ row.length)
  | .itemRelease fn _ _ => fnOk fn
  | .itemComplete fn _ => fnOk fn
  | .collectiveSegment fn p seg => fnOk fn && portOk p && decide (32 ≤ seg.length)
  | .dataItem p d _ => portOk p && decide (d.length = 16)
  | .compilationComplete fn _ => fnOk fn
  | .flitReceived p f _ => portOk p && decide (f.length = 256)
  | .checkTimeout p => portOk p
  | .laneFailed p _ lane => portOk p && decide (lane < 9)
  | .cableInserted p => portOk p
  | .cableRemoved p => portOk p
  | .backplanePowerGood p => portOk p
  | .cableReadDone p _ => portOk p
  | .cableOvercurrent p => portOk p
  | .trainingStageDone p ms => portOk p && decide (ms.length ≤ 9)
  | .trainingStageTimeout p => portOk p
  | .latencyMeasured p rs => portOk p && decide (rs.length = 64)
  | .identRecord p r => portOk p && decide (r.length = 128)
  | .keyx p _ _ => portOk p
  | .portTimeLock p => portOk p
  | .linkRekey p => portOk p
  | .servicePortRetrained n => decide (n ≤ 4)
  | .snapshotStopBegin fn => fnOk fn
  | .snapshotStopEnd fn => fnOk fn
  | .level1Complete fn => fnOk fn
  | .level2Complete fn => fnOk fn
  | .recoveryTransfersComplete fn => fnOk fn
  | .coreSelftestDone fn _ _ _ _ => fnOk fn
  | .engineSelftestDone fn _ _ _ => fnOk fn
  | .restoreComplete fn => fnOk fn
  | .modRstRelease c => (c.getD 0) < 4
  | .fnResetComplete fn => decide (fn < 8)
  | .moltEnd fn _ => fnOk fn
  | .setdasa a => decide (a < 128)
  | .entdaa a => decide (a < 128)
  | .i3cSelectorWrite n => decide (n < 256)
  | .getVersion q => decide (q.conn < 10)
  | .getCapabilities q => decide (q.conn < 10)
  | .negotiateAlgorithms q => decide (q.conn < 10)
  | .getDigests q => decide (q.conn < 10)
  | .getCertificate q => decide (q.conn < 10)
  | .challenge q => decide (q.conn < 10)
  | .getMeasurements q => decide (q.conn < 10)
  | .keyExchange q => decide (q.conn < 10)
  | .finish q => decide (q.conn < 10)
  | .respondIfReady q => decide (q.conn < 10)
  | .spdmUnsupportedRequest q => decide (q.conn < 10)
  | .powerApplied id => decide (id < 16)
  | .beatBoundary => true
  | .messagePhaseStart => true
  | .dataPhaseStart _ => true
  | .dataPhaseEnd _ => true
  | .deadlineTest => true
  | .remainderDone _ => true
  | .stretchEffective => true
  | .stretchLowering => true
  | .periodEffective => true
  | .upstreamLoss _ _ _ => true
  | .masterElectionComplete _ => true
  | .lockLost => true
  | .lockWindowExpiry => true
  | .suspensionEnd => true
  | .referenceEdge _ => true
  | .referenceLocked => true
  | .ppsOutput => true
  | .bridgeLost _ => true
  | .patrolScrub _ _ => true
  | .occupancyWindowEnd occ _ => decide (occ.length = 128)
  | .oscillatorTracking => true
  | .selfRefreshEntry => true
  | .powerSample _ => true
  | .thermalCritical _ _ => true
  | .leakNAsserted _ _ => true
  | .leakSenseDry => true
  | .inputUndervoltage _ _ => true
  | .hotswapFault => true
  | .bootStageComplete _ => true
  | .bootStageTimeout => true
  | .modRstAssert _ => true
  | .cpWatchdog cp => decide (cp < 4)
  | .cpResetComplete cp => decide (cp < 4)
  | .envWatchdogExpiry => true
  | .activationWindowEnd _ => true
  | .selftestComplete _ => true
  | .envBooted => true
  | .envGraceExpiry => true
  | .flashIdleOff => true
  | .locatePadTouch _ _ => true
  | .attentionButtonRelease _ _ => true
  | .attentionLongPress => true
  | .locateTimeout => true
  | .refusalPatternEnd => true
  | .i3cPrivateRead => true
  | .referenceSignalLost => true
  | .serviceLanesEnabled _ => true
  | .unlockToken _ _ _ => true
  | .powerLoss => true
  | .domainSwitchedOn _ => true
  | .imageStaged _ => true
  | .thermalWarning _ _ => true
  | .envWatchdogArm _ => true

end Sys2Proof
end

