-- ==== Sys2Proof/Tests/Slice0.lean ====
section
/-! SUPPORT. Tests: ill-formed terms refused, the hypotheses of the statements met together by concrete states, and
single steps on small states. -/
namespace Sys2Proof.Tests
open Sys2Proof Sys2Proof.Machine

set_option Elab.async false

/-! ### Ill-formed commands are refused -/

/-- A command of request 7 on a ring pair, for a function, with its inline arguments and payload. -/
def cmd (op fn : Nat) (inl : Bytes := []) (pay : Bytes := []) (flags : Nat := 0) (ring : Nat := 0) : Cmd :=
  ⟨7, ring, natLE 2 op ++ natLE 2 flags ++ natLE 4 1007 ++ natLE 1 fn ++ zeros 15 ++ natLE 8 pay.length ++ fit 32 inl, pay⟩

def msgOf (code sub : Nat) (body : Bytes) (origin : Coord := ⟨1, 0, 0, 0⟩) : Msg := ⟨code, sub, 50, origin, body⟩

theorem test_wf_accepts : Instr.wf (.devInfo (cmd 0x0101 0)) = true ∧ Instr.wf (.abort 8 (msgOf 8 0 [])) = true := by decide
theorem test_wf_refuses_short_descriptor : Instr.wf (.devInfo ⟨0, 0, zeros 63, []⟩) = false := by decide
theorem test_wf_refuses_ring : Instr.wf (.devInfo (cmd 0x0101 0 [] [] 0 9)) = false := by decide
theorem test_wf_refuses_fetched_ring : Instr.wf (.descriptorFetch 9 (zeros 64) []) = false := by decide
theorem test_wf_refuses_completion_ring : Instr.wf (.completionWrite 9 true) = false := by decide
theorem test_wf_refuses_window_offset : Instr.wf (.registerWriteOther 8 8 0) = false ∧ Instr.wf (.registerWriteOther 9 9 0) = false := by decide
theorem test_wf_refuses_message_code : Instr.wf (.abort 0 (msgOf 0 0 [])) = false ∧ Instr.wf (.abort 0 (msgOf 9 0 [])) = false := by decide
theorem test_wf_refuses_port : Instr.wf (.cableInserted 9) = false ∧ Instr.wf (.abort 9 (msgOf 1 0 [])) = false := by decide
theorem test_wf_refuses_function : Instr.wf (.commitBeat 4) = false ∧ Instr.wf (.fnResetComplete 8) = false := by decide
theorem test_wf_refuses_sync_length : Instr.wf (.syncFlit 0 (zeros 47) 0) = false := by decide
theorem test_wf_refuses_row : Instr.wf (.tokenRow 0 0 false (zeros 15)) = false := by decide
theorem test_wf_refuses_segment : Instr.wf (.collectiveSegment 0 0 (zeros 31)) = false := by decide
theorem test_wf_refuses_item : Instr.wf (.dataItem 0 (zeros 15) []) = false := by decide
theorem test_wf_refuses_flit : Instr.wf (.flitReceived 0 (zeros 255) true) = false := by decide +kernel
theorem test_wf_refuses_lane : Instr.wf (.laneFailed 0 true 9) = false := by decide
theorem test_wf_refuses_lanes : Instr.wf (.trainingStageDone 0 (List.replicate 10 none)) = false := by decide
theorem test_wf_refuses_round_trips : Instr.wf (.latencyMeasured 0 (List.replicate 63 0)) = false := by decide
theorem test_wf_refuses_ident : Instr.wf (.identRecord 0 (zeros 127)) = false := by decide +kernel
theorem test_wf_refuses_service_lanes : Instr.wf (.servicePortRetrained 5) = false := by decide
theorem test_wf_refuses_cause : Instr.wf (.modRstRelease (some 4)) = false := by decide
theorem test_wf_refuses_address : Instr.wf (.setdasa 128) = false ∧ Instr.wf (.i3cSelectorWrite 256) = false := by decide
theorem test_wf_refuses_connection : Instr.wf (.getVersion ⟨10, [], 0⟩) = false := by decide
theorem test_wf_refuses_slot : Instr.wf (.powerApplied 16) = false := by decide
theorem test_wf_refuses_counts : Instr.wf (.occupancyWindowEnd [] 0) = false := by decide
theorem test_wf_refuses_processor : Instr.wf (.cpWatchdog 4) = false := by decide

/-! ### Small states -/

/-- A module in service: beat 100, stage 10, in lock, its own master and bridge. -/
def ready : State :=
  { State.reset with
    pow := { State.reset.pow with state := 1, stage := 10 },
    fab := { State.reset.fab with
      bridge := true, ports := State.reset.fab.ports.map fun x => if x.code = 0x80 then { x with pstate := 2, lanes := 4 } else x },
    eng := { State.reset.eng with beat := 100, inLock := true, lockBeats := 5000, master := some 1 } }

/-- The state with a command fetched. -/
def fly (s : State) (c : Cmd) : State :=
  { s with mbx := { s.mbx with flights := [⟨c, s.eng.beat, .fetched, none, [], false, 0⟩] } }

/-- `MayStart` as a value that Lean decides. -/
abbrev starts (s : State) (c : Cmd) : Bool :=
  decide ((flightOf s c.req).isSome = true ∧ blocked s c = false ∧ preTest s c = none)

theorem may_start {s : State} {c : Cmd} (h : starts s c = true) : MayStart s c := by simpa [starts, MayStart] using h

def ring0 : RingPair := { RingPair.off with configured := true, cmdBase := 0x1000, cplBase := 0x2000, slots := 8 }

def withRing (s : State) (n : Nat) (r : RingPair) : State := { s with mbx := { s.mbx with rings := s.mbx.rings.set n r } }

/-- Ring pair 0 armed. -/
def armed : State :=
  { withRing ready 0 ring0 with mbx := { (withRing ready 0 ring0).mbx with armed := true, cmdBase := 0x1000, cplBase := 0x2000, cmdSize := 8 } }

def putFn (s : State) (n : Nat) (g : FnSt → FnSt) : State := { s with fns := s.fns.modify n g }

def putPort (s : State) (p : Nat) (g : PortSt → PortSt) : State := { s with fab := { s.fab with ports := s.fab.ports.modify p g } }

def policy0 : Policy := ⟨0, 0, 0, 0, 1, 2, 0, 3, 0, 0⟩

def hdr0 : JobHdr :=
  { kind := 0, cuts := ⟨1, 1, 1, 1⟩, nLayers := 1, seed := zeros 16, planClock := 1900, farPercent := 50, slack := 0, commitSlack := 16,
    retain := 0, recompute := 0, stride := 0, gradSr := 0, weightMode := 0, gradFormat := 0, lossScaleInit := 10, exportMode := 0,
    exportState := 0, cleanSteps := 2000, clipNorm := 0x3F800000, paramRegionSize := 0, imbalancePct := 0, policy := policy0 }

def record0 : Committed := ⟨0, 0, [], 10, 0, 0, 0, []⟩

def map0 : MapInputs := ⟨⟨1, 1, 1, 1⟩, [0, 1, 2, 3], [none, none, none, none], [], [0, 0, 0, 0], 0, 0, [0]⟩

def plan0 : Plan :=
  { digest := zeros 64, stepBeats := 90, commitPoint := 60, voteBeat := 20, firstUpdate := 12, scaleLag := 0, barrierBound := 1,
    microBatches := 1, slices := [], deadlines := [], exchanges := [], places := [], barriers := [], retainLayers := 0, layerCosts := [0],
    stages := [1], cutBytes := [], map := map0 }

/-- A loaded job without a plan. -/
def job0 : Job :=
  { hdr := hdr0, desc := [], digest8 := zeros 8, coord := ⟨0, 0, 0, 0⟩, lengths := ⟨1, 1, 1, 1⟩, axes := [0, 1, 2, 3], slabs := [0],
    ops := [], params := [], exch := [], stages := [1], plan := none, planVersion := 0, planArea := none, verified := false, ranked := none, next := none,
    nextOps := none, loading := none, compiling := none, atSwitch := [], newLengths := none, newWarm := none, warm := 0, l1Slots := 0xFF,
    policyWanted := policy0, verifying := none, refPlan := none, committed := record0, anchor := none, runStep := 0, slotBase := 0,
    run := none, attempt := 0, abandoned := 0, causes := [], restoredOnce := false, stopped := false, epochs := [0], cancelled := [], cancels := [],
    hold := none, holdBeats := 0, commit := none, votes := [], voted := false, barriersDone := [], recovery := .none, replay := none,
    updateOnly := false, committedHit := false, holdingHit := false, sentinelHit := false, checks := [], testing := false, holding := [], accums := [],
    collectives := [], nonfinite := false, nextNonfinite := false, sigma := 10, lsBefore := 10, abortOrigin := none, updated := [], staged := [], parked := [], holders := [],
    tags := [], clipFactor := 0x3F800000, clipKnown := false, gradNorm := 0, loads := [], exchanges := [], arrivals := [], lossParts := [], factor := [],
    normTotal := none, workLists := [], windowsDone := [], released := [], running := [], stats := StepStats.init 0 10 0, nextStats := StepStats.init 1 10 0,
    history := [], counts := [], countsDone := [], countsBefore := [], countedStep := none, chrysalises := [], lost := [], stopWanted := none,
    stopFrom := none, taken := 0, stopEnd := none, lastStop := 0, l1Busy := false, l2Busy := false, aborting := [], policyNext := none,
    restoring := none, loss := none, transfersDue := false, exporting := none, lastEnd := none, partner := [], exportGap := false,
    lastExport := 0, prevBiases := [], ownersChange := false, early := [], left := [], gone := false }

/-- A job whose plan is verified. -/
def job3 : Job := { job0 with plan := some plan0, planVersion := 1, verified := true }

/-- A job that runs step 0 from beat 50. -/
def job4 : Job := { job3 with anchor := some 50, run := some ⟨3, none, 0, 0⟩ }

def withJob0 (s : State) (j : Job) : State := putFn s 0 fun x => { x with job := some j, far := [⟨farBase, 8192, true⟩] }

/-- An open commit for beat 100. -/
def commit0 : CommitInfo :=
  { beat := 100, step := 0, planSwitch := false, skip := false, lsExp := 10, prev := record0, prevHolding := [], prevPlan := none,
    prevVersion := 0, prevOps := [], prevHdr := hdr0, prevArea := none, prevAxes := [], prevL1 := 0, prevLengths := ⟨1, 1, 1, 1⟩,
    prevCoord := ⟨0, 0, 0, 0⟩, prevSlabs := [], prevWarm := 0, prevClip := 0, prevNorm := 0, prevTotal := none, prevLoads := [],
    prevSigma := 10, prevAttempt := 0, prevAbandoned := 0, prevGone := false, prevOldBiases := [], prevLs := 10, prevClipKnown := false,
    applied := false }

def chrysalis0 : Chrysalis :=
  { record := { record0 with step := 5 }, seed := zeros 16, planVersion := 1, planDigest := zeros 64, dLen := 1, stopBeat := 3,
    stateBytes := 0, cursors := [], image := [], level0 := true, level1 := false, level2 := false, level3 := false, l1Slot := 0 }

def exchange0 : Exchange :=
  { step := 0, layer := 0, mb := 0, sel := [], matrix := [], allocated := false, backAllocated := false, cap := [], quota := [], kept := [],
    flows := [], release := [], received := [], roundRows := [], returned := [] }

/-- Two modules along D: this one at slab 1 or at the root, slab 0. -/
def twoModules (s : State) (root : Bool) (j : Job) : State :=
  let me : Coord := if root then ⟨0, 0, 0, 0⟩ else ⟨0, 0, 0, 1⟩
  let other : Coord := if root then ⟨0, 0, 0, 1⟩ else ⟨0, 0, 0, 0⟩
  withJob0 { s with fab := { s.fab with map := some ⟨1, ⟨1, 1, 1, 2⟩, [⟨1, me⟩, ⟨2, other⟩], [], [], [], [], []⟩ } }
    { j with lengths := ⟨1, 1, 1, 2⟩, slabs := [0, 1], coord := me }

/-! ### Witnesses: the hypotheses of each statement met together, clause by clause -/

theorem wit_StepRunsFront : State.reset.pending = [] := rfl

theorem wit_WindowWrites :
    (windowOpen ready = true ∧ ready.mbx.armed = false ∧ ready.mbx.rings.length = 9 ∧ (65535 : Word64).toNat % 65536 ≠ 0) ∧
    (armed.mbx.armed = true ∧ (1 : Word64).toNat % 65536 ≠ 0) ∧
    (windowOpen armed = true ∧ armed.mbx.rings.length = 9 ∧ (65536 : Word64).toNat % 65536 = 0) := by decide

theorem wit_Doorbells :
    (windowOpen armed = true ∧ armed.mbx.rings.length = 9 ∧ (8 : Word64).toNat / 65536 % 16 = 0 ∧ (ringAt armed 0).configured = true ∧
      ringCount (ringAt armed 0).cmdHead 8 ≤ (ringAt armed 0).slots ∧ (ringAt armed 0).slots < ringCount (ringAt armed 0).cmdHead 9) ∧
    ((16 : Word64).toNat.testBit 20 = false ∧ ringCount 65520 (ringAt armed 0).cplTail ≤ 2 * (ringAt armed 0).slots ∧
      2 * (ringAt armed 0).slots < ringCount 65519 (ringAt armed 0).cplTail) ∧
    (let s := withRing armed 8 { ring0 with evSlots := 8, evTail := 8, evDropped := 1 }
     let v : Word64 := 0x180001
     windowOpen s = true ∧ s.mbx.rings.length = 9 ∧ v.toNat / 65536 % 16 = 8 ∧ v.toNat % 65536 = 1 ∧ v.toNat.testBit 20 = true ∧
       ringCount 1 (ringAt s 8).evTail ≤ (ringAt s 8).evSlots ∧ 1 ≠ (ringAt s 8).evHead ∧ 0 < (ringAt s 8).evDropped) := by decide

theorem wit_FetchTakesNext :
    let s := withRing armed 8 { ring0 with cmdHead := 65535, cmdTail := 0 }
    mayFetch s 8 = true ∧ s.mbx.rings.length = 9 := by decide

theorem wit_CompletionWritten :
    let x : Cpl := ⟨0, 7, zeros 32, [1], 0x5000, true⟩
    let s := { armed with mbx := { armed.mbx with held := [x] } }
    let z := withRing s 0 { ring0 with cplTail := 16 }
    let e := withRing s 1 { RingPair.off with slots := 8, enabling := some 7 }
    let d := { s with pow := { s.pow with cpReset := [0] } }
    (s.mbx.rings.length = 9 ∧ cpDown s 0 = false ∧ cpDown d 0 = true ∧ (ringAt d 0).configured = true ∧
      d.mbx.held.find? (fun y => decide (y.ring = 0)) = some x ∧ (ringAt e 1).enabling = some x.req ∧ cpDown e 0 = false ∧
      e.mbx.held.find? (fun y => decide (y.ring = 0)) = some x ∧ s.mbx.held.find? (fun y => decide (y.ring = 0)) = some x ∧ (ringAt s 0).configured = true ∧
      ringCount (ringAt s 0).cplHead (ringAt s 0).cplTail < 2 * (ringAt s 0).slots) ∧
    (z.mbx.held.find? (fun y => decide (y.ring = 0)) = some x ∧ (ringAt z 0).configured = true ∧
      2 * (ringAt z 0).slots ≤ ringCount (ringAt z 0).cplHead (ringAt z 0).cplTail) := by decide

theorem wit_TestsBeforeEffects :
    (let c := cmd 0x0401 5
     let s := fly ready c
     commandOf (.jobLoad c) = some c ∧ (flightOf s c.req).isSome = true ∧ blocked s c = false ∧ preTest s c ≠ none) ∧
    (let c := cmd 0x0101 0
     let s := { ready with mbx := { ready.mbx with flights := [⟨{ c with req := 6 }, 99, .fetched, none, [], false, 0⟩, ⟨c, 100, .fetched, none, [], false, 0⟩] } }
     commandOf (.devInfo c) = some c ∧ (flightOf s c.req).isSome = true ∧ blocked s c = true) ∧
    opcodeKnown 0x0199 = false ∧
    (opcodeKnown (cOp (cmd 0x0101 9)) = true ∧ functionExists ready (cFunction (cmd 0x0101 9)) = false) ∧
    (let c : Cmd := ⟨7, 0, natLE 2 0x0401 ++ zeros 2 ++ natLE 4 1007 ++ natLE 1 2 ++ natLE 4 0xFFFFFFFF ++ zeros 51, []⟩
     opcodeKnown (cOp c) = true ∧ functionExists ready (cFunction c) = false ∧ cOp c = 0x0401 ∧ isBroadcast c = true ∧ cFunction c ≤ 4 ∧
       (preTest ready c).map (fun r => (r.status, r.reason)) = some (4, 2)) ∧
    (cOp (cmd 0x0101 0) = 0x0101 ∧ (cmd 0x0101 0).ring = 0 ∧ functionExists State.reset (cFunction (cmd 0x0101 0)) = true) ∧
    (let c := cmd 0x0102 0
     opcodeKnown (cOp c) = true ∧ functionExists ready (cFunction c) = true ∧ c.ring ≠ 6 ∧ cOp c ≠ 0x0101 ∧ State.reset.pow.state = 0 ∧
       ready.pow.state = 1 ∧ { ready.pow with state := 5 }.state = 5) ∧
    (let c := cmd 0x0401 1 [] [] 0 2
     opcodeKnown (cOp c) = true ∧ functionExists ready (cFunction c) = true ∧ c.ring ≠ 6 ∧ c.ring ≠ 0 ∧ cFunction c ≠ c.ring) ∧
    (let s := putFn ready 0 fun x => { x with confidential := true }
     cCat (cmd 0x0401 1) = 4 ∧ cOp (cmd 0x0401 1) / 256 = 4 ∧ functionExists s 1 = true ∧ (fnAt s 0).confidential = true) := by decide

theorem wit_ReplyForms :
    let c := cmd 0x0101 0
    let f : Flight := ⟨c, 100, .fetched, none, [], false, 0⟩
    let t : Target := ⟨1, ⟨1, 0, 0, 0⟩, ⟨1, 0, 0, 0⟩, none, none, [], none⟩
    (flightOf (fly ready c) c.req = some f ∧ f.phase ≠ .final ∧ f.bridge = none ∧ f.targets = []) ∧
    (flightOf { ready with mbx := { ready.mbx with flights := [{ f with bridge := some ⟨1, 0, 0, 0⟩ }] } } c.req =
      some { f with bridge := some ⟨1, 0, 0, 0⟩ }) ∧
    (let s := { ready with mbx := { ready.mbx with flights := [{ f with targets := [t] }] } }
     flightOf s c.req = some { f with targets := [t] } ∧ t.coord ≠ ownName s c ∧ t.final = none ∧ t.interim = none) := by decide

theorem wit_DevInfoAndCaps :
    starts (fly ready (cmd 0x0101 0)) (cmd 0x0101 0) = true ∧ starts (fly ready (cmd 0x0102 0)) (cmd 0x0102 0) = true ∧
    ready.st.spares.length = 16 := by decide

theorem wit_ResetCommands :
    (let c := cmd 0x0103 0 [0]
     let s := fly ready c
     starts s c = true ∧ (∀ f, f < 4 → fnState s f ≠ 4 ∧ fnState s f ≠ 5) ∧ s.pow.selftest = none ∧
       starts { s with pow := { s.pow with selftest := some (3, 1) } } c = true) ∧
    (let c := cmd 0x0104 0
     let s := fly (withJob0 ready job4) c
     starts s c = true ∧ fnState s 0 = 4 ∧ fnExists s 0 = true ∧ (cFlags c).testBit 8 = false) ∧
    (let c := cmd 0x0103 0
     starts (fly (withJob0 ready job4) c) c = true) ∧
    (let c := cmd 0x0104 0 [] [] 256
     let s := fly (withJob0 ready job4) c
     starts s c = true ∧ (cFlags c).testBit 8 = true) ∧
    (let c := cmd 0x0104 0
     let s := fly ready c
     starts s c = true ∧ ∀ f, f < 4 → fnState s f ≠ 4) ∧
    ready.fns.length = 4 := by decide

theorem wit_SelftestAndFirmware :
    ({ ready with pow := { ready.pow with selftest := some (7, 31) } }.pow.selftest = some (7, 31)) ∧
    (let c := cmd 0x0105 0 [1]
     let s := fly ready c
     starts s c = true ∧ cArg c 32 1 ≤ 1 ∧ s.flash.activation = none ∧ s.flash.staging = none) ∧
    (let s := { ready with flash := { ready.flash with staging := some (0, ⟨2, 0, []⟩, true, 7) } }
     s.flash.staging = some (0, ⟨2, 0, []⟩, true, 7) ∧ s.flash.runB = false ∧ (true && false) = false) ∧
    (let c := cmd 0x0106 0 [0]
     let s := fly { ready with flash := { ready.flash with staged := some (⟨2, 0, []⟩, 1) } } c
     starts s c = true ∧ cArg c 32 1 = 0 ∧ s.flash.staged = some (⟨2, 0, []⟩, 1) ∧ ∀ f, f < 4 → fnState s f ≤ 1) ∧
    (let c := cmd 0x0106 0 [1]
     let s := fly { ready with flash := { ready.flash with envStaged := some (⟨2, 0, []⟩, 1) } } c
     starts s c = true ∧ cArg c 32 1 = 1 ∧ s.flash.envStaged = some (⟨2, 0, []⟩, 1) ∧ s.env.running = false ∧ s.env.booting = false ∧
       ∀ f ∈ s.fns, f.job = none) ∧
    (let s := { ready with flash := { ready.flash with activation := some 300, staged := some (⟨2, 0, []⟩, 1) } }
     s.flash.activation = some 300 ∧ s.flash.staged = some (⟨2, 0, []⟩, 1)) := by decide

theorem wit_PartitionSetsMode :
    let c := cmd 0x0201 0 [2]
    let s := fly ready c
    starts s c = true ∧ s.mbx.rings.length = 9 ∧ cArg c 32 1 ≤ 2 ∧ (∀ f, f < 4 → fnState s f ≤ 1) ∧ s.env.running = false ∧
      s.env.booting = false ∧ ∀ f, f < 4 → (fnAt s f).near = [] := by decide

theorem wit_PartitionModeKept :
    (∃ t, exec .oscillatorTracking ready = .next t) ∧
    (let c := cmd 0x0201 0 [1]
     let s := fly ready c
     starts s c = true ∧ cArg c 32 1 ≤ 2 ∧ (∀ f, f < 4 → fnState s f ≤ 1) ∧ ∀ f, f < 4 → (fnAt s f).near = []) :=
  ⟨⟨_, rfl⟩, by decide⟩

theorem wit_EnableConfiguresRing :
    (let c := cmd 0x0202 0 (zeros 18 ++ [1])
     starts (fly ready c) c = true ∧ cFunction c = 0) ∧
    (let c := cmd 0x0202 8 (zeros 18 ++ [1])
     let s := fly ready c
     let z := { s with mbx := { s.mbx with flights := [⟨c, 100, .fetched, some ⟨1, 0, 0, 0⟩, [], false, 0⟩] } }
     starts s c = true ∧ s.mbx.rings.length = 9 ∧ cFunction c = 8 ∧ cArg c 50 1 = 1 ∧
       flightOf s c.req = some ⟨c, 100, .fetched, none, [], false, 0⟩ ∧ starts z c = true ∧
       flightOf z c.req = some ⟨c, 100, .fetched, some ⟨1, 0, 0, 0⟩, [], false, 0⟩) ∧
    (let c := cmd 0x0202 1 (zeros 19)
     let s := fly ready c
     starts s c = true ∧ cFunction c ≠ 0 ∧ cArg c 50 1 = 0 ∧ ∀ f ∈ s.mbx.flights, f.bridge ≠ none ∨ f.cmd.ring ≠ cFunction c) := by decide

theorem wit_AssignNamesTenant :
    let c := cmd 0x0203 1 (natLE 16 5 ++ [1])
    let u := { ready with flash := { ready.flash with unlocked := true } }
    let d := putFn ready 0 fun x => { x with molted := false, lastTenant := zeros 16 }
    (starts (fly ready c) c = true ∧ ready.fns.length = 4 ∧ cFunction c = 1 ∧ c.ring ≠ 6 ∧ cArg c 48 1 = 1 ∧ fnState (fly ready c) 0 = 1 ∧
      ready.flash.unlocked = false ∧ (fnAt ready 0).molted = true) ∧
    (starts (fly u c) c = true ∧ fnState (fly u c) 0 = 1 ∧ u.flash.unlocked = true) ∧
    (starts (fly d c) c = true ∧ fnState (fly d c) 0 = 1 ∧ (fnAt d 0).molted = false ∧ (fnAt d 0).lastTenant ≠ slice c.desc 32 16) := by decide

theorem wit_FunctionReset :
    (let c := cmd 0x0204 1 [1]
     let s := fly ready c
     starts s c = true ∧ s.fns.length = 4 ∧ cFunction c = 1 ∧ c.ring ≠ 6 ∧ cArg c 32 1 ≤ 1 ∧ fnState s 0 ≠ 0) ∧
    (let c := cmd 0x0204 8 [0]
     starts (fly ready c) c = true ∧ cFunction c = 8 ∧ cArg c 32 1 ≤ 1) ∧
    (let s := putFn ready 0 fun x => { x with reset := some ⟨200, some 7, false⟩ }
     s.fns.length = 4 ∧ s.mbx.rings.length = 9 ∧ fnExists s 0 = true ∧ (fnAt s 0).reset = some ⟨200, some 7, false⟩) ∧
    (let s := { ready with env := { ready.env with resets := [(5, ⟨200, none, true⟩)] } }
     s.mbx.rings.length = 9 ∧ s.env.resets.find? (fun x => decide (x.1 = 5)) = some (5, ⟨200, none, true⟩)) := by decide

theorem wit_MoltClears :
    (let c := cmd 0x0205 1
     let s := fly ready c
     starts s c = true ∧ s.fns.length = 4 ∧ cFunction c = 1 ∧ c.ring ≠ 6 ∧ fnState s 0 = 1) ∧
    (let s := putFn ready 3 fun x => { x with molt := some ⟨90, 400, none, 0⟩ }
     s.fns.length = 4 ∧ (fnAt s 3).molt = some ⟨90, 400, none, 0⟩ ∧ s.pow.resetWaits = false) := by decide

theorem wit_Allocations :
    (let c := cmd 0x0301 1 ([0, 0xFF] ++ zeros 6 ++ natLE 8 1)
     let s := fly ready c
     starts s c = true ∧ s.fns.length = 4 ∧ cIx c = 0 ∧ fnExists s 0 = true ∧ fnState s 0 ∈ [1, 2, 3, 4] ∧ cArg c 32 1 = 0 ∧
       (cArg c 34 1).testBit 0 = false ∧ cArg c 33 1 = 0xFF ∧ placeNear s 0 0xFF (stripes (cArg c 40 8)) = some nearBase) ∧
    (let c := cmd 0x0301 1 ([0, 0xFF] ++ zeros 6 ++ natLE 8 (2 ^ 63))
     let s := fly ready c
     starts s c = true ∧ placeNear s 0 0xFF (stripes (cArg c 40 8)) = none) ∧
    (let c := cmd 0x0304 1 (zeros 8 ++ natLE 8 nearBase)
     let l : Alloc := ⟨nearBase, 8192, false⟩
     let s := fly (putFn ready 0 fun x => { x with near := [l] }) c
     let sram := cmd 0x0304 1 (zeros 8 ++ natLE 8 coreBase)
     let none_ := cmd 0x0304 1 (zeros 8 ++ natLE 8 (2 ^ 63))
     starts (fly ready sram) sram = true ∧ regionOf (cArg sram 40 8) = .core ∧ starts (fly ready none_) none_ = true ∧
       regionOf (cArg none_ 40 8) = .reserved ∧ regionOf (cArg c 40 8) = .near ∧ ownsAddr s 0 (cArg c 40 8) = true ∧ ownsAddr ready 0 nearBase = true ∧
       starts s c = true ∧ starts (fly ready c) c = true ∧ cIx c = 0 ∧ fnState s 0 ∈ [1, 2, 3] ∧
       ((fnAt s 0).near ++ (fnAt s 0).far).find? (fun l => decide (l.addr = cArg c 40 8)) = some l ∧ l.param = false ∧
       ((fnAt ready 0).near ++ (fnAt ready 0).far).find? (fun l => decide (l.addr = cArg c 40 8)) = none ∧
       s.env.running = false ∧ s.env.booting = false) := by decide

theorem wit_HostAccess :
    (let s := putFn ready 0 fun x => { x with near := [⟨nearBase, 8192, false⟩] }
     let c := cmd 0x0302 1 (zeros 8 ++ natLE 8 (nearBase + 8190)) [1, 2]
     let d := cmd 0x0302 1 (zeros 8 ++ natLE 8 (nearBase + 8191)) [1, 2]
     let z := { s with st := { s.st with bad := [(nearBase + 8184, 8)] } }
     starts (fly s c) c = true ∧ Memory.wf s.st.mem = true ∧ fnState s 0 ∈ [1, 2, 3, 4] ∧ regionOf (nearBase + 8190) = .near ∧
       ownsAddr s 0 (nearBase + 8190) = true ∧ starts (fly z c) c = true ∧ badPartial z (nearBase + 8190) 2 = some (nearBase + 8184) ∧ inOneAlloc s 0 (nearBase + 8190) 2 = true ∧ badPartial s (nearBase + 8190) 2 = none ∧
       starts (fly s d) d = true ∧ inOneAlloc s 0 (nearBase + 8191) 2 = false ∧ jobAt s 0 = none) ∧
    (let c := cmd 0x0302 1 (zeros 8 ++ natLE 8 (2 ^ 63)) [1]
     let d := cmd 0x0303 1 (natLE 8 1 ++ natLE 8 (2 ^ 63))
     let e := cmd 0x0303 1 (natLE 8 1 ++ natLE 8 coreBase)
     starts (fly ready c) c = true ∧ regionOf (cArg c 40 8) = .reserved ∧ starts (fly ready d) d = true ∧ regionOf (cArg d 40 8) = .reserved ∧
       starts (fly ready e) e = true ∧ regionOf (cArg e 40 8) = .core) ∧
    (let c := cmd 0x0303 1 (natLE 8 8192 ++ natLE 8 nearBase)
     let s := fly (putFn ready 0 fun x => { x with near := [⟨nearBase, 8192, false⟩] }) c
     let z := { s with st := { s.st with bad := [(nearBase + 8191, 1)] } }
     starts s c = true ∧ inOneAlloc s 0 nearBase 8192 = true ∧ badIn s nearBase 8192 = none ∧
       starts z c = true ∧ badIn z nearBase 8192 = some (nearBase + 8191)) ∧
    (let c := cmd 0x0305 0 (natLE 8 (2 ^ 20))
     let z := { ready with mbx := { ready.mbx with chunks := [⟨3, 4096, [⟨1, 0, 0, 0⟩]⟩] } }
     starts (fly ready c) c = true ∧ (fly ready c).mbx.chunks = [] ∧ starts (fly z c) c = true ∧ (fly z c).mbx.chunks ≠ []) := by decide

/-- A write to the first high half of a tensor touches the low half of its first weight, and no other byte of the region (R247). -/
theorem wit_HostAccess_low :
    let p : ParamEntry := ⟨7, 0, 0xFF, 0, 1, 1, 0, 0, 0, 0, 0, 0⟩
    let s := withJob0 ready { job0 with params := [p] }
    lowTouched s 0 farBase 1 (farBase + 8192) ∧ ¬ lowTouched ready 0 farBase 1 5 :=
  ⟨⟨_, _, ⟨7, 0, 0xFF, 0, 1, 1, 0, 0, 0, 0, 0, 0⟩, farBase, farBase + 8192, rfl, rfl, rfl, by decide, by decide, by decide, by decide, by decide⟩,
   fun ⟨_, _, _, _, _, h, _⟩ => by simp [ready, State.reset, fnAt, FnSt.init] at h⟩

theorem wit_BeatBoundaryCounts :
    ready.fns.length = 4 ∧ ready.eng.level = 0 ∧ { ready.eng with level := 1 }.level = 1 ∧ { ready.eng with level := 2 }.level = 2 ∧
    jobAt ready 3 = none := by decide

theorem wit_MessagePhaseOrders :
    let ms := [msgOf 7 0 [], msgOf 1 0 [1]]
    let s := { ready with eng := { ready.eng with queue := ms.map fun m => (m, [3]) } }
    (∀ f, f < 4 → jobAt s f = none) ∧ s.mbx.flights = [] ∧ cpDown s 0 = false ∧ (∀ q, q < 9 → (portAt s q).resendDue = none) ∧ s.eng.queue = ms.map (fun m => (m, [3])) ∧
      (ms.map fun m => (msgBytes m).length).foldl (· + ·) 0 ≤ 300000 := by decide

theorem wit_BeatSetSchedules :
    (let c := cmd 0x0802 0 (natLE 4 2000)
     let s := fly ready c
     let z := { s with eng := { s.eng with master := some 2, upstream := some 3 } }
     starts s c = true ∧ (∀ x ∈ s.fns, x.job = none) ∧ 2000 ≤ cArg c 32 4 ∧ cArg c 32 4 ≤ 32000 ∧ s.eng.master = some s.flash.serial ∧
       s.eng.periodAsks = [] ∧ starts z c = true ∧ (∀ x ∈ z.fns, x.job = none) ∧ z.eng.master ≠ some z.flash.serial ∧
       cArg (cmd 0x0802 0 (natLE 4 1999)) 32 4 < 2000 ∧ 32000 < cArg (cmd 0x0802 0 (natLE 4 32001)) 32 4) ∧
    (let c := cmd 0x0802 0 (natLE 4 2000)
     let s := fly (withJob0 ready job0) c
     starts s c = true ∧ ∃ x ∈ s.fns, x.job ≠ none) ∧
    (let m := msgOf 2 0 ([0, 4] ++ natLE 4 4000 ++ zeros 2 ++ natLE 8 101)
     rd m.body 1 1 = 4 ∧ rd m.body 2 4 = 4000 ∧ rd m.body 8 8 = 101 ∧ 2000 ≤ 4000 ∧ 4000 ≤ 32000 ∧ 4000 % 500 = 0 ∧
       ready.eng.periodPending ≠ some (4000, 101) ∧ ready.eng.beat < 101 ∧
       { ready.eng with periodPending := some (4000, 101) }.periodPending = some (4000, 101)) ∧
    (0 < ready.eng.period ∧ ready.eng.period = 8000 ∧ ready.eng.tauAbort = 200000 ∧ { ready.eng with tauAbort := 370900 }.tauAbort = 370900 ∧
      { ready.eng with period := 2000 }.period = 2000 ∧ { ready.eng with period := 32000 }.period = 32000) ∧
    (let s := { ready with eng := { ready.eng with periodPending := some (32000, 100) } }
     s.eng.periodPending = some (32000, 100) ∧ 100 ≤ s.eng.beat ∧ ready.eng.beat < 101) := by decide

theorem wit_StretchFollowsAnnouncement :
    (let c := cmd 0x0803 0 [2]
     let s := fly ready c
     starts s c = true ∧ s.eng.master = some s.flash.serial ∧ s.eng.levelPending = [] ∧ s.eng.requested ≤ 2) ∧
    (let s := { ready with eng := { ready.eng with levelPending := [(2, 100)] } }
     let v := { s with eng := { s.eng with level := 2, levelPending := [], idleBeats := 0 } }
     let up := { ready with eng := { ready.eng with level := 2, levelPending := [(0, 100)] }, pow := { ready.pow with clock := clockFloor v } }
     let w := { up with eng := { up.eng with level := 0, levelPending := [], idleBeats := 0 } }
     s.eng.levelPending = (2, 100) :: [] ∧ 100 ≤ s.eng.beat ∧ clockFloor v ≤ s.pow.clock ∧ s.eng.beat < 101 ∧
       up.eng.levelPending = (0, 100) :: [] ∧ up.pow.clock < clockFloor w ∧ up.pow.reading.meanW < 1400 ∧
       1400 ≤ ({ up.pow.reading with meanW := 1400 } : PowerReading).meanW ∧ molting up = false) ∧
    (let s := { ready with eng := { ready.eng with level := 1, idleBeats := 4096 } }
     s.eng.master = some s.flash.serial ∧ s.eng.levelPending = [] ∧ 0 < s.eng.level ∧ 4096 ≤ s.eng.idleBeats ∧
       s.eng.hostFloor < s.eng.level ∧ ready.eng.idleBeats < 4096) := by decide

theorem wit_StretchRequestsMerge :
    rd (msgOf 2 0 [1, 0]).body 1 1 = 0 ∧ ready.eng.master = some ready.flash.serial ∧
    min 2 (rd (msgOf 2 0 [0, 0]).body 0 1) ≤ coveredLevel ready ∧ coveredLevel ready < min 2 (rd (msgOf 2 0 [1, 0]).body 0 1) := by decide

theorem wit_ReferenceInputs :
    (let c := cmd 0x0801 0 [2]
     starts (fly ready c) c = true ∧ cArg c 32 1 ≤ 2 ∧ cArg c 32 1 ≠ (fly ready c).eng.refMode ∧
       (fly ready c).eng.master = some (fly ready c).flash.serial) ∧
    (let s := { ready with eng := { ready.eng with refMode := 2 } }
     s.eng.refMode = 2 ∧ s.eng.master = some s.flash.serial) ∧ ready.eng.refMode = 0 := by decide

theorem wit_SyncFlitDisciplines :
    let b := zeros 8 ++ natLE 8 1000 ++ natLE 8 1100 ++ natLE 8 1200 ++ natLE 8 5 ++ [79] ++ zeros 7
    let s := putPort { ready with eng := { ready.eng with upstream := some 7 } } 7 fun x => { x with pstate := 2 }
    s.fab.ports.length = 9 ∧ (portAt s 7).pstate = 2 ∧ s.eng.upstream = some 7 ∧ rd b 24 8 ≠ 0 ∧ rd b 40 1 < 80 ∧
      rd b 8 8 < 2 ^ 62 ∧ rd b 16 8 < 2 ^ 62 ∧ rd b 24 8 < 2 ^ 62 ∧ 1024 ≤ s.eng.lockBeats ∧ s.eng.inLock = true ∧
      { s.eng with lockBeats := 1023 }.lockBeats < 1024 ∧ s.eng.periodPending = none ∧ (∀ x ∈ s.fns, x.job = none) ∧
      (((1100 : Int) - 1200) - (900 - 1000)).natAbs ≤ 51200 ∧ 51200 < (((1100 : Int) - 1200) - (61000 - 1000)).natAbs := by decide

theorem wit_LockElectionReturn :
    (let s := { ready with eng := { ready.eng with upstream := some 3, missing := 4 } }
     s.eng.upstream = some 3 ∧ 4 ≤ s.eng.missing) ∧
    (let s := { ready with eng := { ready.eng with badSyncs := 3 } }
     s.eng.inLock = true ∧ s.eng.badSyncs = 3) ∧
    (let s := { ready with eng := { ready.eng with suspended := true, lockBeats := 1024 } }
     s.eng.suspended = true ∧ s.eng.inLock = true ∧ 1024 ≤ s.eng.lockBeats ∧ ready.eng.suspended = false) ∧
    (let s := { ready with eng := { ready.eng with lockAbort := some 4, inLock := false, beat := 4100 } }
     s.fns.length = 4 ∧ s.eng.lockAbort = some 4 ∧ s.eng.inLock = false ∧ 4 + 4096 ≤ s.eng.beat) ∧
    (let s := withJob0 ready { job3 with gone := true }
     s.fns.length = 4 ∧ jobAt s 0 = some { job3 with gone := true } ∧ s.eng.inLock = true ∧ 1024 ≤ s.eng.lockBeats ∧
       s.eng.suspended = false ∧ s.fab.safe = false) := by decide

theorem wit_BeatStaysLegal : State.reset.beatSafe ∧ ∃ t, step State.reset = .next t :=
  ⟨⟨by simp [legalPeriod, State.reset], by simp [State.reset], by simp [State.reset], by decide, by decide, by decide, by decide⟩, ⟨_, rfl⟩⟩

theorem wit_AbortAbandonsStep :
    (let m := msgOf 1 0 (zeros 16)
     let s := { ready with eng := { ready.eng with abortsSeen := [(m.origin, m.beat)] } }
     (m.origin, m.beat) ∈ s.eng.abortsSeen ∧ (m.origin, m.beat) ∉ ready.eng.abortsSeen ∧ jobAt ready (m.sub - 1) = none ∧ m.code = 1 ∧
       { ready.eng with phase := .message }.phase = .message ∧ { ready.eng with phase := .data }.phase = .data ∧
       ∀ q ∈ otherPorts ready 7, lookupD ready.eng.express q 0 + flitBytes m ≤ 4096) ∧
    (let m := msgOf 1 1 (zeros 16)
     let s := withJob0 { ready with eng := { ready.eng with suspended := true } } job4
     s.fns.length = 4 ∧ m.sub = 1 ∧ jobAt s 0 = some job4 ∧ (m.origin, m.beat) ∉ s.eng.abortsSeen ∧
       rd m.body 0 4 = rd job4.digest8 0 4 ∧ rd m.body 4 8 = job4.committed.step ∧ rd m.body 12 4 ≠ 0x0601 ∧ rd m.body 12 4 ≠ 0x20601 ∧ rd m.body 12 4 ≠ 0x10000 ∧
       job4.anchor.isSome = true ∧ job4.run.isSome = true ∧ job4.commit = none ∧ job4.abandoned + 1 < job4.hdr.policy.replayLimit ∧
       s.eng.suspended = true) ∧
    (let s := twoModules ready false job4
     let j := { job4 with lengths := ⟨1, 1, 1, 2⟩, slabs := [0, 1], coord := ⟨0, 0, 0, 1⟩ }
     jobAt s 0 = some j ∧ barrierParent s j j.coord ≠ none) := by decide

theorem wit_ControlMessagesArrive :
    (let m := msgOf 2 0 ([2, 1] ++ zeros 6 ++ natLE 8 101)
     let s := { ready with eng := { ready.eng with levelPending := [(2, 101)] } }
     rd m.body 1 1 = 1 ∧ ready.eng.beat < rd m.body 8 8 ∧ rd m.body 0 1 ≤ 2 ∧ (rd m.body 0 1, rd m.body 8 8) ∈ s.eng.levelPending ∧
       (rd m.body 0 1, rd m.body 8 8) ∉ ready.eng.levelPending) ∧
    (State.reset.eng.master ≠ some State.reset.flash.serial ∧ rd (msgOf 2 0 [1, 0]).body 1 1 = 0) ∧
    (let s := withJob0 ready job4
     let m := msgOf 4 1 (natLE 8 120 ++ natLE 4 0 ++ [0])
     s.fns.length = 4 ∧ m.sub = 1 ∧ jobAt s 0 = some job4 ∧ cpDown s 1 = false ∧ rd m.body 8 4 = job4.committed.step % 2 ^ 32 ∧
       bits (rd m.body 12 1) 3 2 = 0 ∧ job4.recovery = .none ∧ job4.commit = none ∧
       bits (rd (msgOf 4 1 (zeros 12 ++ [8])).body 12 1) 3 2 = 2 ∧ rd (msgOf 4 1 (zeros 8 ++ [1])).body 8 4 ≠ job4.committed.step % 2 ^ 32) ∧
    (let s := twoModules ready false job4
     let j := { job4 with lengths := ⟨1, 1, 1, 2⟩, slabs := [0, 1], coord := ⟨0, 0, 0, 1⟩ }
     let m := msgOf 5 1 (natLE 4 (2 ^ 30 - 1)) ⟨0, 0, 0, 0⟩
     jobAt s 0 = some j ∧ barrierParent s j j.coord = some m.origin ∧ rd m.body 0 4 < 2 ^ 30 ∧
       barrierParent s j j.coord ≠ some ⟨0, 0, 0, 5⟩ ∧ ⟨0, 0, 0, 5⟩ ∉ barrierKids s j j.coord) ∧
    (let s := twoModules ready true job4
     let j := { job4 with lengths := ⟨1, 1, 1, 2⟩, slabs := [0, 1], coord := ⟨0, 0, 0, 0⟩ }
     let m := msgOf 5 1 (natLE 4 0) ⟨0, 0, 0, 1⟩
     jobAt s 0 = some j ∧ barrierParent s j j.coord ≠ some m.origin ∧ m.origin ∈ barrierKids s j j.coord ∧ j.coord ≠ m.origin ∧
       ∀ v ∈ lookupD j.votes (rd m.body 0 4) [], v.1 ≠ j.coord) ∧
    (let s := { ready with pow := { ready.pow with cpReset := [0, 1] } }
     cpDown s 0 = true ∧ cpDown s 1 = true) ∧
    (let s := withJob0 ready job3
     jobAt s 0 = some job3 ∧ ownDigest job3 (rd (msgOf 6 1 (natLE 4 2)).body 0 4) = none) := by decide

theorem wit_MessagesTravel :
    (let j := { job4 with exchanges := [exchange0] }
     let s := withJob0 ready j
     let m := msgOf 5 1 (zeros 6)
     s.fns.length = 4 ∧ m.sub = 1 ∧ jobAt s 0 = some j ∧ rd m.body 4 2 = epochOf j (rd m.body 2 2) ∧
       exchAt j (rd m.body 0 2) (rd m.body 2 2) = some exchange0 ∧ exchAt job4 (rd m.body 0 2) (rd m.body 2 2) = none ∧
       jobAt (withJob0 ready job4) 0 = some job4 ∧ cpDown ready 0 = false ∧ cpDown State.reset 0 = false ∧ rd (msgOf 5 1 (zeros 4 ++ [1, 0])).body 4 2 ≠ epochOf j 0) ∧
    (State.reset.fab.bridge = false ∧ (msgOf 7 0 [] ⟨0, 0, 0, 0⟩).origin = selfPhys State.reset ∧
      (msgOf 7 0 [] ⟨1, 0, 0, 0⟩).origin ≠ selfPhys State.reset ∧ ready.fab.bridge = true ∧ (msgOf 7 0 []).sub / 256 ≠ 0x0402 ∧
      (msgOf 7 0 []).sub / 256 ≠ 0x0601) ∧
    (let m := msgOf 8 0 (natLE 4 9 ++ zeros 76)
     m.code = 8 ∧ forwardHere ready m.sub = true ∧ rd m.body 4 1 = 0 ∧ flightOf ready (rd m.body 0 4) = none ∧
       forwardHere ready 0x01000001 = false) ∧
    (let d : Bytes := [2, 9, 1, 0, 1, 0, 0, 1] ++ zeros 8
     itemHere ready (fnIx (rd d 2 1)) (coordOf d 4) = false) := by decide

theorem wit_DataPhaseRuns_empty :
    ((∀ f, f < 4 → jobAt ready f = none) ∧ (∀ q, q < 9 → (portAt ready q).resendDue = none)) := by decide

theorem wit_DataPhaseRuns_started :
    (let sl : Slice := ⟨50, .hubStream, .exportBegin, none, false, false⟩
     let j := { job4 with plan := some { plan0 with slices := [sl] }, runStep := 0 }
     let s := withJob0 ready j
     let z := { s with eng := { s.eng with phase := .data } }
     s.fns.length = 4 ∧ jobAt s 0 = some j ∧ (∀ g, g < 4 → g ≠ 0 → jobAt s g = none) ∧ s.eng.suspended = false ∧ j.gone = false ∧
       (∀ q, q < 9 → (portAt s q).resendDue = none) ∧ j.workLists = [] ∧ j.hold = none ∧ inStop z j = false ∧
       j.running = [] ∧ slicesAt z j s.eng.beat = [(sl, 0)] ∧ waitsForAllocation j sl = false ∧ waitsForTiles z j sl.work = false ∧
       startSlice (noteStart z 0 0 sl) 0 0 sl = .ok [.exportNow .exportBegin]) := by decide

theorem wit_DataPhaseRuns :
    (let r : RunSlice := ⟨⟨50, .hubStream, .exportBegin, none, false, false⟩, 100, 0, true, false, [.mem 64 [1, 2]]⟩
     let j := { job4 with running := [r] }
     let s := withJob0 { ready with eng := { ready.eng with phase := .data } } j
     let q := { r with carried := true, beat := 99 }
     Memory.wf s.st.mem = true ∧ s.fns.length = 4 ∧ jobAt s 0 = some j ∧ (∀ g, g < 4 → g ≠ 0 → jobAt s g = none) ∧ j.running = [r] ∧
       j.workLists = [] ∧ r.started = true ∧ r.effects = [.mem 64 [1, 2]] ∧ r.beat ≤ s.eng.beat ∧ r.carried = false ∧
       (∀ p, p < 9 → (portAt s p).resendDue = none) ∧ lacksPartial s 0 j r = false ∧ lateBad s 0 r = none ∧
       q.carried = true ∧ q.beat < s.eng.beat ∧ molting s = false ∧ ready.eng.phase ≠ .data ∧
       lacksPartial (withJob0 ready { job4 with running := [q] }) 0 { job4 with running := [q] } q = false ∧
       lateBad (withJob0 ready { job4 with running := [q] }) 0 q = none) := by decide

theorem wit_DataPhaseRuns_missed :
    (let it : Item := .counts 0 0 ⟨1, 0, 0, 0⟩
     let j := { job4 with plan := some { plan0 with deadlines := [⟨50, it, 40, 0⟩] } }
     let s := withJob0 ready j
     jobAt s 0 = some j ∧ (∀ g, g < 4 → g ≠ 0 → jobAt s g = none) ∧ missedItems s j = [it] ∧ molting s = false ∧
       missedItems ready job4 = []) := by decide

theorem wit_CommitsAndReplays :
    (let j := { job4 with commit := some commit0 }
     let s := withJob0 ready j
     jobAt s 0 = some j ∧ s.fns.length = 4 ∧ commit0.applied = false ∧ commit0.beat ≤ s.eng.beat ∧ j.anchor ≠ none ∧
       commit0.planSwitch = false ∧ j.policyNext = none ∧ commit0.skip = false ∧ s.eng.beat ≤ commit0.beat + quietWindow s) ∧
    (let ci := { commit0 with applied := true, beat := 10 }
     let j := { job4 with commit := some ci }
     let s := withJob0 ready j
     ci.applied = true ∧ ci.beat + quietWindow s < s.eng.beat ∧ jobAt s 0 = some j) ∧
    (let j := { job4 with replay := some (2, 100) }
     let s := withJob0 ready j
     jobAt s 0 = some j ∧ j.replay = some (2, 100) ∧ j.plan = some plan0 ∧ j.gone = false ∧ 100 ≤ s.eng.beat) ∧
    (let j := { job4 with cancels := [(0, 100, 7)] }
     let s := withJob0 ready j
     jobAt s 0 = some j ∧ j.cancels = [(0, 100, 7)] ∧ 0 < j.epochs.length ∧ 100 ≤ s.eng.beat) ∧
    (let j := { job4 with hold := some 84 }
     let s := withJob0 { ready with eng := { ready.eng with suspended := true } } j
     jobAt s 0 = some j ∧ j.hold = some 84 ∧ 84 + j.hdr.commitSlack ≤ s.eng.beat ∧ s.eng.beat < 85 + j.hdr.commitSlack ∧ j.run ≠ none ∧
       j.commit = none ∧ j.abandoned + 1 < j.hdr.policy.replayLimit ∧ s.eng.suspended = true) := by decide

theorem wit_LossScaleFollowsRule :
    let j := { job4 with commit := some commit0, committed := { record0 with cleanRun := 1999 } }
    let s := withJob0 ready j
    s.fns.length = 4 ∧ jobAt s 0 = some j ∧ j.commit = some commit0 ∧ commit0.applied = false ∧ commit0.beat ≤ s.eng.beat ∧
      j.anchor ≠ none ∧ commit0.planSwitch = false ∧ j.policyNext = none ∧ commit0.skip = false ∧
      j.hdr.cleanSteps ≤ j.committed.cleanRun + 1 ∧ job4.committed.cleanRun + 1 < job4.hdr.cleanSteps ∧ j.sigma = j.committed.lsExp := by decide

theorem wit_ExchangeAndItems :
    (let j := { job4 with exchanges := [exchange0] }
     let s := withJob0 ready j
     let x := { exchange0 with matrix := [(0, [1], [1])] }
     let k := { job4 with exchanges := [x] }
     let y := { x with allocated := true }
     s.fns.length = 4 ∧ jobAt s 0 = some j ∧ exchAt j 1 0 = none ∧ exchAt j 0 0 = some exchange0 ∧ mayAllocate s j exchange0 false = false ∧
       jobAt (withJob0 ready k) 0 = some k ∧ exchAt k 0 0 = some x ∧ mayAllocate (withJob0 ready k) k x false = true ∧
       mayAllocate (withJob0 ready { k with exchanges := [y] }) { k with exchanges := [y] } y true = true) ∧
    (let j := { job4 with exchanges := [exchange0] }
     let mine : Bytes := zeros 16
     let other : Bytes := [1] ++ zeros 15
     let stale : Bytes := zeros 10 ++ [1] ++ zeros 5
     rd mine 10 2 = epochOf j (rd mine 8 2) ∧ exchAt j (rd mine 12 2) (rd mine 8 2) = some exchange0 ∧ coordOf mine 0 = j.coord ∧
       coordOf other 0 ≠ j.coord ∧ rd stale 10 2 ≠ epochOf j (rd stale 8 2)) ∧
    (let i : WorkItem := ⟨3, 1, 0, 4, false, false, 2, 5⟩
     let w : WorkList := ⟨0, 0, 0, 0, [], [i], [], 0⟩
     let j := { job4 with workLists := [w] }
     jobAt (withJob0 ready j) 0 = some j ∧ w.items = [i] ∧ i.phase = 2 ∧ i.at_ = 5 ∧ i.check = false ∧ j.running = [] ∧
       (itemResult (withJob0 ready j) 0 j w i 5).1.findSome? (fun r => badIn (withJob0 ready j) r.1 r.2) = none ∧ i.expert = 3 ∧ i.mTile = 1 ∧
       ∀ w ∈ job4.workLists, ∀ i ∈ w.items, ¬ (i.phase = 2 ∧ i.at_ = 5)) ∧
    (let seg : Bytes := zeros 4 ++ [2] ++ zeros 27
     (rd seg 7 1).testBit 1 = false ∧ segCurrent job4 (rd seg 28 4) (rd seg 9 1) = some 0 ∧ rd seg 4 1 % 16 ≠ 1 ∧ rd seg 4 1 % 16 ≠ 3 ∧
       segCurrent job4 0 1 = none) := by decide

theorem wit_SubnormalsAreKept :
    (∃ f, floatOf 0 = some f ∧ 2 ^ fmtBits 0 - 1 < 2 ^ fmtBits 0 ∧ f.decode 1 ≠ .nan) ∧
    (∃ f, floatOf 0 = some f ∧ f.decode 0x7FC00000 = .nan ∧ 0x7FC00000 < 2 ^ fmtBits 0) ∧ 0 < 1 ∧ 1 < 1 * 2 ^ 1 :=
  ⟨⟨_, rfl, by decide, by decide⟩, ⟨_, rfl, by decide, by decide⟩, by decide, by decide⟩

theorem wit_JobCommandsRun_description :
    badDescription (natLE 4 0x424F4A44 ++ natLE 2 1 ++ zeros 130 ++ natLE 8 256 ++ zeros 112) = none := by decide +kernel

/-- A job whose parameter entry no plan can serve. -/
def badParams (j : Job) : Job := { j with params := [⟨7, 0, 0xFF, 0, 1, 1, 0, 0, 0, 0, 0, 0⟩] }

theorem wit_JobCommandsRun :
    (let c := cmd 0x0401 1 [] [1]
     let s := fly ready c
     starts s c = true ∧ s.fns.length = 4 ∧ fnState s (cIx c) = 1 ∧ s.pow.state ≠ 2 ∧ badDescription c.payload ≠ none) ∧
    (let c := cmd 0x0402 1 (zeros 4 ++ [0xFF, 0xFF])
     let s := fly (withJob0 ready job0) c
     starts s c = true ∧ s.fns.length = 4 ∧ fnState s (cIx c) = 2 ∧ jobAt s (cIx c) = some job0 ∧ jobBusy job0 = false ∧
       planRefusal s (cIx c) (jobToCompile s job0 (planHdr job0 c)) = none) ∧
    (let c := cmd 0x0402 1 (zeros 4 ++ [0xFF, 0xFF])
     let j := { job0 with ops := [], params := [⟨7, 0, 0xFF, 0, 1, 1, 0, 0, 0, 0, 0, 0⟩] }
     let s := fly (withJob0 ready j) c
     planRefusal s (cIx c) (jobToCompile s j (planHdr j c)) ≠ none) ∧
    (let c := cmd 0x0404 1 [1]
     let d := cmd 0x0404 1 [2]
     let s := fly (withJob0 ready job3) c
     let z := fly (withJob0 ready (badParams job3)) c
     starts z c = true ∧ planRefusal z (cIx c) (jobToCompile z (badParams job3) { hdr0 with policy := mergePolicy policy0 policy0 }) ≠ none ∧
       starts s c = true ∧ fnState s (cIx c) = 3 ∧ cArg c 32 1 < 2 ∧
       planRefusal s (cIx c) (jobToCompile s job3 { job3.hdr with policy := mergePolicy job3.policyWanted job3.hdr.policy }) = none ∧
       starts (fly (withJob0 ready job3) d) d = true ∧ 2 ≤ cArg d 32 1) ∧
    (let c := cmd 0x0403 1 (natLE 4 1)
     let j := { job3 with lengths := ⟨1, 1, 1, 2⟩, slabs := [0, 1], coord := ⟨0, 0, 0, 1⟩ }
     let s := fly (twoModules ready false job3) c
     starts s c = true ∧ fnState s (cIx c) = 3 ∧ jobAt s (cIx c) = some j ∧ j.verifying = none ∧ cArg c 32 4 ≠ 0 ∧
       ownDigest j (cArg c 32 4) ≠ none ∧ isRoot s j = false ∧ versionVerified j 1 = true ∧
       versionVerified { j with verified := false } 1 = false ∧ ownDigest j 2 = none) ∧
    (let c := cmd 0x0407 1
     let s := fly (withJob0 ready job3) c
     starts s c = true ∧ fnState s (cIx c) = 3 ∧ jobAt s (cIx c) = some job3 ∧ jobBusy job3 = false ∧ s.env.func ≠ cIx c + 1) := by decide

/-- The plan of two modules along D. -/
def plan2 : Plan := { plan0 with barrierBound := 2, map := { map0 with lengths := ⟨1, 1, 1, 2⟩, slabs := [0, 1], treePs := 40000 } }

theorem wit_ShapeAndPlanChange_lengths :
    (let c := cmd 0x0405 1 [1, 1, 1, 2]
     let d := cmd 0x0405 1 [1, 1, 1, 1]
     let h : JobHdr := { hdr0 with policy := mergePolicy policy0 policy0 }
     let reshaped (j : Job) : Job := { j with newLengths := some (coordOf d.desc 32) }
     let s (j : Job) := fly (withJob0 ready j) d
     starts (fly (withJob0 ready job3) c) c = true ∧ starts (s job3) d = true ∧ starts (s job4) d = true ∧ starts (s (badParams job3)) d = true ∧
       fnState (s job3) 0 = 3 ∧ fnState (s job4) 0 = 4 ∧ jobAt (s job3) 0 = some job3 ∧ jobAt (s job4) 0 = some job4 ∧ jobBusy job3 = false ∧
       jobBusy job4 = false ∧ cPayLen c = 0 ∧ coordSize (coordOf c.desc 32) ≠ available (s job3) job3 ∧
       clampCuts (coordOf d.desc 32) = coordOf d.desc 32 ∧ coordSize (coordOf d.desc 32) = available (s job3) job3 ∧
       coordSize (coordOf d.desc 32) = available (s job4) job4 ∧ job3.run = none ∧ job4.run ≠ none ∧ cImmediate d = false ∧
       planRefusal (s job3) 0 (jobToCompile (s job3) (reshaped job3) h) = none ∧ planRefusal (s job4) 0 (jobToCompile (s job4) (reshaped job4) h) = none ∧
       coordSize (coordOf d.desc 32) = available (s (badParams job3)) (badParams job3) ∧
       planRefusal (s (badParams job3)) 0 (jobToCompile (s (badParams job3)) (reshaped (badParams job3)) h) ≠ none) ∧
    (let c := cmd 0x0406 1 [2]
     let d := cmd 0x0406 1 [1]
     let h : JobHdr := { hdr0 with policy := mergePolicy policy0 policy0 }
     let reshaped (j : Job) : Job := { j with newLengths := some ⟨1, 1, 1, 1⟩, newWarm := some 0 }
     let s (j : Job) := fly (withJob0 ready j) d
     starts (fly (withJob0 ready job3) c) c = true ∧ starts (s job3) d = true ∧ starts (s job4) d = true ∧ starts (s (badParams job3)) d = true ∧
       coordOn (mapLengths (s job3)) (job3.axes.getD 3 3) = 1 ∧ clamp 1 128 (cArg c 32 1) = 2 ∧ clamp 1 128 (cArg d 32 1) = 1 ∧
       job3.newLengths.getD job3.lengths = ⟨1, 1, 1, 1⟩ ∧ cImmediate d = false ∧
       planRefusal (s job3) 0 (jobToCompile (s job3) (reshaped job3) h) = none ∧ planRefusal (s job4) 0 (jobToCompile (s job4) (reshaped job4) h) = none ∧
       planRefusal (s (badParams job3)) 0 (jobToCompile (s (badParams job3)) (reshaped (badParams job3)) h) ≠ none) := by decide

theorem wit_ShapeAndPlanChange :
    (jobAt ready 0 = none ∧ job3.compiling = none ∧ jobAt (withJob0 ready job3) 0 = some job3) ∧
    (let j := { job3 with compiling := some (none, 2) }
     let s := withJob0 ready j
     let k (p : Plan) := enterPlan s 0 { j with compiling := none } p 2
     let late := { plan0 with voteBeat := 60 }
     let early := { plan0 with slices := [⟨-79, .exchangeEngine, .sumLoads 0, none, false, false⟩] }
     s.fns.length = 4 ∧ jobAt s 0 = some j ∧ j.refPlan = none ∧ j.run = none ∧ s.fab.drain = none ∧ s.fab.drainWaits = none ∧
       planSound s 0 j (k plan0) plan0 = true ∧ compiledRefusal s 0 (k plan0) plan0 = none ∧ planSound s 0 j (k late) late = false ∧
       planSound s 0 j (k early) early = true ∧ compiledRefusal s 0 (k early) early ≠ none) ∧
    (let j := { job4 with compiling := some (none, 2), lengths := ⟨1, 1, 1, 2⟩, slabs := [0, 1], coord := ⟨0, 0, 0, 1⟩ }
     let s := twoModules ready false { job4 with compiling := some (none, 2) }
     let k := enterPlan s 0 { j with compiling := none } plan2 2
     jobAt s 0 = some j ∧ keepsPlan j = true ∧ isRoot s j = false ∧ planSound s 0 j k plan2 = true ∧ compiledRefusal s 0 k plan2 = none) := by
  decide +kernel

theorem wit_StepRunNeedsVerifiedPlan :
    let c := cmd 0x0501 1 (natLE 8 1)
    (starts (fly (withJob0 ready job0) c) c = true ∧ fnState (withJob0 ready job0) (cIx c) = 2) ∧
    (let s := fly (withJob0 ready job3) c
     starts s c = true ∧ s.fns.length = 4 ∧ fnState s (cIx c) = 3 ∧ jobAt s (cIx c) = some job3 ∧ job3.plan = some plan0 ∧
       job3.restoring = none) ∧
    (let j := { job3 with restoring := some (none, 0, 1) }
     let s := fly (withJob0 ready j) c
     starts s c = true ∧ fnState s (cIx c) = 3 ∧ jobAt s (cIx c) = some j ∧ j.restoring ≠ none) := by decide

theorem wit_StepCommandsRun :
    (let s := withJob0 ready job4
     let c := cmd 0x0502 1 [2]
     let d := cmd 0x0502 1 [1]
     starts (fly s c) c = true ∧ starts (fly s d) d = true ∧ s.fns.length = 4 ∧ fnState s 0 = 4 ∧ jobAt s 0 = some job4 ∧
       2 ≤ cArg c 32 1 ∧ cArg d 32 1 = 1 ∧ job4.commit = none) ∧
    (let j := { job4 with anchor := none }
     let c := cmd 0x0502 1 [0]
     let s := fly (withJob0 ready j) c
     starts s c = true ∧ fnState s 0 = 4 ∧ jobAt s 0 = some j ∧ cArg c 32 1 = 0 ∧ j.anchor = none) ∧
    (let j := { job4 with history := [StepStats.init 4 10 1] }
     let c := cmd 0x0503 1 (natLE 8 (2 ^ 64 - 1))
     let s := fly (withJob0 ready j) c
     starts s c = true ∧ fnState s (cIx c) = 4 ∧ jobAt s (cIx c) = some j ∧ j.stopped = false ∧ cArg c 32 8 = 2 ^ 64 - 1 ∧
       j.history.head? = some (StepStats.init 4 10 1) ∧ (j.history.find? fun y => y.step = 4) = some (StepStats.init 4 10 1) ∧
       (∀ y ∈ j.history, y.step ≠ cArg (cmd 0x0503 1 (natLE 8 3)) 32 8) ∧ { j with stopped := true }.stopped = true) ∧
    (let c := cmd 0x0504 1 (natLE 2 0)
     let d := cmd 0x0504 1 (natLE 2 1)
     let s := withJob0 ready job4
     let fl : Flight := ⟨c, 100, .fetched, none, [], false, 0⟩
     let p := { plan0 with slices := [⟨1, .hubStream, .exportBegin, some 0, false, true⟩] }
     starts (fly s c) c = true ∧ starts (fly s d) d = true ∧ fnState s (cIx c) = 4 ∧ jobAt s (cIx c) = some job4 ∧ job4.plan = some plan0 ∧
       flightOf (fly s c) c.req = some fl ∧ plan0.microBatches ≤ cArg d 32 2 ∧ cArg c 32 2 < plan0.microBatches ∧ job4.hdr.kind = 0 ∧
       backwardBy job4 0 (100 + announceDist s) = false ∧ backwardBy { job4 with plan := some p } 0 (100 + announceDist s) = true) := by decide

theorem wit_SnapCommandsRun :
    (let c := cmd 0x0601 1
     let s := withJob0 ready job3
     starts (fly s c) c = true ∧ s.fns.length = 4 ∧ fnState s (cIx c) = 3 ∧ jobAt s (cIx c) = some job3 ∧ job3.restoring = none ∧
       job3.stopWanted = none ∧ job3.stopFrom = none) ∧
    (let c := cmd 0x0601 1
     let j := { job4 with commit := some commit0 }
     let s := fly (withJob0 ready j) c
     starts s c = true ∧ fnState s (cIx c) = 4 ∧ jobAt s (cIx c) = some j ∧ commit0.applied = false ∧
       { j with stopWanted := some (some 3) }.stopWanted = some (some 3)) ∧
    (let c := cmd 0x0602 1 [] (zeros 32)
     starts (fly (withJob0 ready job0) c) c = true ∧ fnState (withJob0 ready job0) (cIx c) = 2 ∧ job0.policyNext = none ∧ job0.plan = none ∧
       starts (fly (withJob0 ready job4) c) c = true ∧ fnState (withJob0 ready job4) (cIx c) = 4) ∧
    (let c := cmd 0x0604 1 (zeros 16 ++ [1])
     let j := { job3 with hdr := { hdr0 with exportMode := 1 } }
     starts (fly (withJob0 ready job3) c) c = true ∧ job3.hdr.exportMode = 0 ∧ starts (fly (withJob0 ready j) c) c = true ∧
       fnState (withJob0 ready j) (cIx c) = 3 ∧ j.hdr.exportMode ≠ 0 ∧ cArg c 48 1 < 2 ∧ j.exporting = none ∧
       { j with exporting := some ⟨3, 0, 0, 0, 0, 0, [], 0, 0, false⟩ }.exporting ≠ none) ∧
    (let c := cmd 0x0603 1 (natLE 8 5)
     starts (fly (withJob0 ready job0) c) c = true ∧ fnState (withJob0 ready job0) (cIx c) = 2 ∧
       starts (fly (withJob0 ready job3) c) c = true ∧ fnState (withJob0 ready job3) (cIx c) = 3 ∧
       chooseRestore (fly (withJob0 ready job3) c) (cIx c) (testDrives (fnAt (fly (withJob0 ready job3) c) (cIx c)) job3) c = none ∧
       (let j := { job3 with chrysalises := [chrysalis0] }
        let s := fly (withJob0 ready j) c
        starts s c = true ∧ j.restoring = none ∧ j.stopEnd = none ∧ chooseRestore s (cIx c) (testDrives (fnAt s (cIx c)) j) c = some (j, 0, 1) ∧
          j.chrysalises[0]? = some chrysalis0)) ∧
    (let c := cmd 0x0605 1
     starts (fly (withJob0 ready job3) c) c = true ∧ starts (fly ready c) c = true ∧ fnState ready (cIx c) = 1) := by decide

theorem wit_ChrysalisLife :
    (let j := { job3 with stopWanted := some (some 7), stopFrom := some 100 }
     let s := withJob0 ready j
     s.fns.length = 4 ∧ jobAt s 0 = some j ∧ stopBegins s j = true ∧ stopBegins s job3 = false) ∧
    (let j := { job3 with stopEnd := some 100, chrysalises := [chrysalis0] }
     let s := withJob0 ready j
     jobAt s 0 = some j ∧ j.stopEnd = some 100 ∧ j.chrysalises = chrysalis0 :: [] ∧ 100 ≤ s.eng.beat ∧ s.eng.beat < 101) ∧
    (let j := { job3 with l1Busy := true, l2Busy := true, chrysalises := [chrysalis0] }
     let s := putFn (withJob0 ready j) 0 fun x => { x with l2Key := some [1] }
     jobAt s 0 = some j ∧ (fnAt s 0).l2Key = some [1] ∧ j.l1Busy = true ∧ j.l2Busy = true ∧ 0 < j.hdr.policy.l2Keep ∧ job3.l2Busy = false) ∧
    (let j := { job3 with restoring := some (some 7, 0, 1), chrysalises := [chrysalis0] }
     jobAt (withJob0 ready j) 0 = some j ∧ j.restoring = some (some 7, 0, 1) ∧ j.chrysalises[0]? = some chrysalis0 ∧ j.loss = none) ∧
    (let j := { job4 with recovery := .transfers, restoring := some (none, 0, 1), chrysalises := [chrysalis0] }
     let s := withJob0 ready j
     jobAt s 0 = some j ∧ j.recovery = .transfers ∧ j.restoring = some (none, 0, 1) ∧ j.chrysalises[0]? = some chrysalis0 ∧
       j.loss = none ∧ j.gone = false ∧ isRoot s j = true ∧ chrysalis0.record.step < 2 ^ 32 ∧ chrysalis0.record.lsExp < 256 ∧
       s.eng.beat + announceDist s < 2 ^ 64) := by decide

theorem wit_CablesAndTraining :
    (ready.fab.ports.length = 9 ∧ 8 ≤ ready.pow.stage ∧ ready.pow.standby = none ∧ ready.pow.state ≠ 5 ∧ ready.fab.map = none ∧
      (portAt ready 7).pstate = 0 ∧ (portAt ready 4).pstate = 0) ∧
    (let s := putPort ready 7 fun x => { x with pstate := 1, stage := 2, power := true }
     let i : CableInfo := ⟨true, 9, 120, true⟩
     (portAt s 7).pstate = 1 ∧ (portAt s 7).stage = 2 ∧ (portAt s 7).power = true ∧ i.readable = true ∧ 9 ≤ i.lanes ∧ i.deciwatts ≤ 120 ∧
       (i.optical = true ↔ 7 % 4 ≠ 1) ∧ ¬(({ i with optical := false } : CableInfo).optical = true ↔ 7 % 4 ≠ 1) ∧ 120 < ({ i with deciwatts := 121 } : CableInfo).deciwatts) ∧
    (let s (st : Nat) := putPort ready 4 fun x => { x with pstate := 1, stage := st }
     (portAt (s 3) 4).pstate = 1 ∧ (portAt (s 3) 4).stage = 3 ∧ 8 ≤ ((List.replicate 8 (some 5)).filter fun m => m.isSome).length ∧
       ((List.replicate 7 (some 5)).filter fun m => m.isSome).length < 8 ∧ (portAt (s 4) 4).stage = 4 ∧ (portAt (s 5) 4).stage = 5 ∧
       (portAt (s 8) 4).stage = 8 ∧ (portAt (s 8) 4).admitted = false ∧ (portAt (s 3) 4).tries = 0 ∧ (∀ x ∈ (s 8).fns, x.job = none)) ∧
    (let s := putPort ready 7 fun x => { x with pstate := 1, stage := 8, admitted := true, tries := 1 }
     (portAt s 7).stage = 8 ∧ (portAt s 7).admitted = true ∧ (portAt s 7).tries ≠ 0 ∧ s.eng.period = 8000) := by decide

theorem wit_IdentityAdmits :
    let r : Bytes := natLE 8 2 ++ zeros 8 ++ [0xB0, 1, 0, 7] ++ zeros 4 ++ natLE 8 1 ++ [0, 0, 0, 1, 255, 255, 255, 255] ++ natLE 8 9 ++
      natLE 8 1 ++ zeros 72
    let s := putPort ready 3 fun x => { x with pstate := 1, stage := 6 }
    let z := { s with fab := { s.fab with map := some ⟨1, ⟨1, 1, 1, 2⟩, [⟨1, ⟨0, 0, 0, 0⟩⟩, ⟨2, ⟨0, 0, 0, 1⟩⟩], [], [], [], [], []⟩ } }
    s.fab.ports.length = 9 ∧ (portAt s 3).pstate = 1 ∧ (portAt s 3).stage = 6 ∧ s.eng.inLock = true ∧ s.fab.admitting = none ∧
      ownConf s = false ∧ bit (rd r 56 1) 4 = false ∧ s.fab.map = none ∧ z.fab.map ≠ none ∧ z.fab.drain = none ∧ z.fab.safe = false ∧
      ownConf z = false ∧ admissible z 3 r = true ∧ admissible z 3 (zeros 128) = false ∧ joins s r = false ∧ joins z (zeros 128) = false ∧
      bit (rd r 56 1) 3 = false ∧
      (let w := { s with eng := { s.eng with master := none, inLock := false } }
       let q := r.set 56 1
       w.fab.map = none ∧ w.eng.master = none ∧ bit (rd q 56 1) 0 = true ∧ bit (rd q 56 1) 3 = false ∧ bit (rd q 56 1) 4 = false) ∧
      (let q := r.set 56 8
       bit (rd q 56 1) 3 = true ∧ bit (rd q 56 1) 4 = false ∧ ∀ x ∈ z.fns, x.job = none) := by decide

theorem wit_PortLife :
    let s := putPort ready 7 fun x =>
      { x with pstate := 2, keying := true, enc := true, ctrTx := 2 ^ 32, ctrRx := 1, spare := true, asked := some (0, 8) }
    let z := putPort ready 7 fun x => { x with pstate := 2, asked := some (0, 7) }
    (s.fab.ports.length = 9 ∧ (portAt s 7).pstate = 2 ∧ (portAt s 7).keying = true ∧ (portAt s 7).enc = true ∧
      (portAt s 7).ctrTx % 2 ^ 32 = 0 ∧ (portAt s 7).ctrRx % 2 ^ 32 ≠ 0 ∧ (portAt s 7).laneFails < 2 ^ 32 - 1 ∧ (portAt s 7).spare = true ∧
      (portAt s 7).failedRx = none ∧ (portAt s 7).failedTx = none) ∧
    ((portAt z 7).pstate = 2 ∧ (portAt z 7).enc = false ∧ (portAt z 7).keying = false ∧
      (let w := putPort ready 7 fun x => { x with pstate := 2, spare := true, failedRx := some 3 }
       (portAt w 7).pstate = 2 ∧ (portAt w 7).failedRx ≠ none ∧ (portAt w 7).failedRx ≠ some 4) ∧ (portAt z 7).asked = some ((portAt z 7).seqRx, 7) ∧ (portAt z 7).spare = false ∧
      (portAt z 7).failedRx ≠ some 0 ∧ (portAt s 7).asked = some ((portAt s 7).seqRx, 8)) := by decide

/-- A flit of sequence number 0 with its CRC, in four parts so that each step of the kernel stays short. -/
def goodFlit : Bytes := ([2, 3] ++ zeros 60) ++ (zeros 62 ++ (zeros 62 ++ zeros 62)) ++ natLE 8 13086181139449856062

def crcFrom (c : Nat) (b : Bytes) : Nat := b.foldl (fun c x => crcBits 8 (c ^^^ (x.toNat <<< 56))) c

theorem crc_part1 : crcFrom 0 ([2, 3] ++ zeros 60) = 17517252013676440003 := by decide +kernel
theorem crc_part2 : crcFrom 17517252013676440003 (zeros 62) = 16627168959398287605 := by decide +kernel
theorem crc_part3 : crcFrom 16627168959398287605 (zeros 62) = 6434092725137806560 := by decide +kernel
theorem crc_part4 : crcFrom 6434092725137806560 (zeros 62) = 13086181139449856062 := by decide +kernel

theorem crc_goodFlit : crc64 (goodFlit.take 248) = 13086181139449856062 := by
  have e : goodFlit.take 248 = ([2, 3] ++ zeros 60) ++ (zeros 62 ++ (zeros 62 ++ zeros 62)) := by decide +kernel
  have h1 := crc_part1
  have h2 := crc_part2
  have h3 := crc_part3
  have h4 := crc_part4
  simp only [crcFrom] at h1 h2 h3 h4
  rw [e, crc64, List.foldl_append, h1, List.foldl_append, h2, List.foldl_append, h3, h4]

theorem wit_PortLife_flit :
    let s := putPort ready 7 fun x => { x with pstate := 2 }
    flitGood s (portAt s 7) goodFlit = true ∧ goodFlit.length = 256 ∧ bit (rd goodFlit 0 1) 5 = false ∧ rd goodFlit 0 1 % 16 ≠ 0 ∧
      rd goodFlit 0 1 % 16 ≠ 1 ∧ rd goodFlit 2 2 = (portAt s 7).seqRx := by
  intro s
  refine ⟨?_, by decide +kernel⟩
  have h : (portAt s 7).enc = false := by decide
  have t : (goodFlit.drop 248).take 8 = natLE 8 13086181139449856062 := by decide +kernel
  simp [flitGood, flitCheck, h, crc_goodFlit, t]

/-- The same flit with a wrong check. -/
def badFlit : Bytes := ([2, 3] ++ zeros 60) ++ (zeros 62 ++ (zeros 62 ++ zeros 62)) ++ zeros 8

theorem wit_PortLife_bad_flit :
    let s := putPort ready 7 fun x => { x with pstate := 2 }
    flitGood s (portAt s 7) badFlit = false ∧ badFlit.length = 256 ∧ rd badFlit 0 1 % 16 ≠ 1 := by
  intro s
  refine ⟨?_, by decide +kernel⟩
  have h : (portAt s 7).enc = false := by decide
  have e : badFlit.take 248 = goodFlit.take 248 := by decide +kernel
  have t : (badFlit.drop 248).take 8 = zeros 8 := by decide +kernel
  have n : natLE 8 13086181139449856062 ≠ zeros 8 := by decide +kernel
  simp [flitGood, flitCheck, h, e, crc_goodFlit, t, n]

theorem wit_BridgeAndLinks :
    (ready.fab.ports.length = 9 ∧ 2 < { ready.pow with slotId := 3 }.slotId ∧ ready.mbx.flights = [] ∧ ready.fab.bridge = true ∧
      ready.fab.drainWaits = none ∧
      (portAt (putPort ready 8 fun x => { x with pstate := 1 }) 8).pstate = 1) ∧
    (let c := cmd 0x0701 0 [0xFF]
     starts (fly ready c) c = true ∧ cArg c 32 1 = 0xFF ∧ starts (fly ready (cmd 0x0701 0 [7])) (cmd 0x0701 0 [7]) = true ∧
       cArg (cmd 0x0701 0 [7]) 32 1 < 8 ∧ starts (fly ready (cmd 0x0701 0 [8])) (cmd 0x0701 0 [8]) = true ∧
       8 ≤ cArg (cmd 0x0701 0 [8]) 32 1) ∧
    (let c := cmd 0x0704 0
     let s := fly (withJob0 ready job3) c
     starts (fly ready c) c = true ∧ (∀ x ∈ (fly ready c).fns, x.job = none) ∧ starts s c = true ∧ mapJob s = some job3 ∧ job3.axes.length = 4) ∧
    (let m : Bytes := natLE 8 1 ++ [1, 1, 1, 1] ++ natLE 4 1 ++ zeros 16 ++ natLE 8 1 ++ zeros 8
     let c := cmd 0x0702 0 [] m
     let d := cmd 0x0702 0 [] (m.set 12 2)
     starts (fly ready c) c = true ∧ mapError c.payload = none ∧ ready.fab.admitting = none ∧ starts (fly ready d) d = true ∧
       mapError d.payload ≠ none ∧
       (let e := cmd 0x0702 0 [] (m.set 8 0)
        starts (fly ready e) e = true ∧ 32 ≤ e.payload.length ∧ lengthsLegal (coordOf e.payload 8) = false)) := by decide

theorem wit_DrainToSafe :
    let c := cmd 0x0703 0 [0]
    let s := fly ready c
    let z := { s with fab := { s.fab with safe := true } }
    let w := fly (withJob0 ready job3) c
    starts s c = true ∧ cArg c 32 1 = 0 ∧ s.fab.ports.length = 9 ∧ starts z c = true ∧ z.fab.safe = true ∧ s.fab.drain = none ∧
      s.fab.drainWaits = none ∧ s.fab.safe = false ∧ (∀ x ∈ s.fns, x.job = none ∧ x.molt = none) ∧ starts w c = true ∧
      drainLegal w = false ∧ bridgeFirst s 0 = false ∧
      (let b := { s with fab := { s.fab with map := some ⟨1, ⟨2, 1, 1, 1⟩, [⟨1, ⟨0, 0, 0, 0⟩⟩, ⟨2, ⟨1, 0, 0, 0⟩⟩], [], [], [], [], []⟩ } }
       starts b c = true ∧ bridgeFirst b 0 = true ∧ drainLegal b = true ∧ ∀ x ∈ b.fns, x.job = none) ∧
      (let b := { ready with fab := { ready.fab with drainWaits := some (0, 0, none) } }
       b.fab.drain = none ∧ b.fab.drainWaits = some (0, 0, none) ∧ b.fab.bridge = true ∧ b.mbx.flights = []) := by decide

theorem wit_MemoryUpkeep :
    allocOwner ready (granuleOf (nearBase + 511)) = none ∧ ready.st.rowErrors.length < 15 ∧
    (let s := putFn ready 0 fun x => { x with near := [⟨nearBase, 8192, false⟩] }
     allocOwner s (granuleOf (nearBase + 511)) = some 0 ∧ jobAt s 0 = none ∧ regionOf (nearBase + 511) = .near) ∧ (List.replicate 128 64).length = 128 ∧
    (0 < sumNat (List.replicate 128 64) ∧ maxNat (List.replicate 128 64) * 128 * 100 / sumNat (List.replicate 128 64) ≤ 65535) ∧
    (∃ x ∈ (withJob0 ready job0).fns, x.job ≠ none) ∧
    (let s := { ready with st := { ready.st with farState := 2 } }
     s.st.farState = 2 ∧ ∀ x ∈ s.fns, x.job = none) ∧
    (let s := withJob0 ready job3
     s.fns.length = 4 ∧ jobAt s 0 = some job3 ∧ job3.recovery ≠ .voting ∧ s.st.marks = []) := by decide +kernel

theorem wit_PowerManagement :
    let r : PowerReading := ⟨1381, 1399, 95, 0, false, 0, 0, []⟩
    let s := { ready with pow := { ready.pow with clock := clockFloor ready, hotSamples := 3 } }
    (State.reset.pow.stage < 4 ∧ ready.pow.input = true ∧ ready.pow.standby = none ∧ 4 ≤ ready.pow.stage ∧ ready.pow.limiter = false ∧
      clockFloor ready < ready.pow.clock ∧ r.farShort = false ∧ 1380 < r.sampleW) ∧
    (s.pow.clock = clockFloor s ∧ r.meanW < 1400 ∧ s.pow.hotSamples = 3 ∧ 25 ≤ s.pow.clock ∧
      1400 ≤ ({ r with meanW := 1400 } : PowerReading).meanW ∧ ∀ f, f < 4 → jobAt s f = none) := by decide

theorem wit_StandbyEntered :
    ready.pow.input = true ∧ ready.pow.standby = none ∧ criticalAt 20 ≤ criticalAt 20 ∧ (100 : Nat) ≤ 100 ∧ (45999 : Nat) < 46000 ∧
    (1000 : Nat) ≤ 1000 ∧ criticalAt 0 - 1 < criticalAt 0 ∧ { ready.pow with standby := some 3 }.standby ≠ none := by decide

theorem wit_PowerAndTemperature :
    (ready.pow.input = true ∧ ready.pow.standby = none ∧ 4 ≤ ready.pow.stage ∧ ready.fns.length = 4 ∧ regulationAt 20 < regulationAt 20 + 1 ∧
      regulationAt 5 ≤ regulationAt 5 ∧ (∀ x ∈ ready.fns, x.job = none)) ∧
    { ready.pow with input := false }.input = false ∧
    (let s := withJob0 ready { job3 with l2Busy := true }
     (∃ x ∈ s.fns, x.job = some { job3 with l2Busy := true }) ∧ { job3 with l2Busy := true }.l2Busy = true) := by decide

theorem wit_BootRuns :
    let at_ (st g : Nat) (b : Bool) : State := { State.reset with pow := { State.reset.pow with state := st, stage := g, rstHeld := b } }
    ((at_ 0 1 false).pow.input = true ∧ (at_ 0 1 false).pow.standby = none ∧ (at_ 0 3 false).pow.state = 0 ∧ (at_ 4 8 false).pow.state = 4 ∧
      (at_ 0 1 false).pow.resetWaits = false ∧ (at_ 0 3 false).flash.slotA = some ⟨1, 0, []⟩ ∧
      (at_ 0 3 false).flash.counter ≤ (⟨1, 0, []⟩ : Image).svn ∧ (at_ 0 10 false).pow.stage = 10 ∧ (at_ 0 7 false).pow.stage ≤ 7 ∧
      (at_ 0 9 false).eng.master = none) ∧
    ((999 : Nat) < 1000 ∧ (1000 : Nat) ≤ 1000 ∧ ready.pow.input = true ∧ ready.pow.standby = none ∧ 4 ≤ ready.pow.stage ∧
      (∀ x ∈ ready.fns, x.confidential = false ∧ x.failed = false ∧ x.molt = none) ∧ ready.pow.rstHeld = false) ∧
    ((at_ 4 3 true).pow.rstHeld = true ∧ (at_ 4 3 true).pow.stage = 3 ∧ (at_ 4 3 true).pow.state = 4 ∧ (at_ 4 3 true).pow.input = true) := by decide

theorem wit_Watchdogs :
    (let s := { ready with env := { ready.env with running := true, watchdogMs := 10 } }
     s.env.running = true ∧ s.env.watchdogMs ≠ 0) ∧ cpDown ready 3 = false ∧
    (let s := { ready with pow := { ready.pow with cpReset := [0, 3] } }
     cpDown s 0 = true ∧ cpDown s 3 = true ∧ s.mbx.cpHeld = [] ∧ s.mbx.evHeld = [] ∧ s.mbx.flights = [] ∧ ∀ x ∈ s.fns, x.job = none) := by decide

theorem wit_EnvironmentLife :
    (let c := cmd 0x0A01 5 ([1, 1] ++ zeros 6 ++ natLE 8 nearBase ++ natLE 8 8192)
     let l : Alloc := ⟨nearBase, 8192, false⟩
     let s := fly (putFn { ready with flash := { ready.flash with envImage := some ⟨1, 0, []⟩ } } 0 fun x => { x with near := [l] }) c
     starts s c = true ∧ 1 ≤ cArg c 32 1 ∧ cArg c 32 1 ≤ 4 ∧ fnExists s 0 = true ∧ s.flash.envImage ≠ none ∧ s.env.running = false ∧
       s.env.booting = false ∧ regionOf (cArg c 40 8) = .near ∧ ownsAddr s 0 (cArg c 40 8) = true ∧
       (let at_ (a : Nat) := cmd 0x0A01 5 ([1, 1] ++ zeros 6 ++ natLE 8 a ++ natLE 8 8193)
        starts (fly s (at_ (2 ^ 63))) (at_ (2 ^ 63)) = true ∧ regionOf (2 ^ 63) = .reserved ∧ starts (fly s (at_ coreBase)) (at_ coreBase) = true ∧
          regionOf coreBase = .core ∧ starts (fly s (at_ nearBase)) (at_ nearBase) = true ∧
          ∀ l ∈ (fnAt s 0).near, ¬ (l.addr ≤ nearBase ∧ nearBase + 8193 ≤ l.addr + l.size ∧ 0 < 8193)) ∧
       l ∈ (fnAt s 0).near ∧ l.addr ≤ cArg c 40 8 ∧ cArg c 40 8 + cArg c 48 8 ≤ l.addr + l.size ∧ 0 < cArg c 48 8) ∧
    { ready.env with booting := true }.booting = true ∧
    (let c := cmd 0x0A02 5 (natLE 4 0)
     let d := cmd 0x0A02 5 (natLE 4 60001)
     let s := { ready with env := { ready.env with running := true } }
     starts (fly s c) c = true ∧ starts (fly s d) d = true ∧ s.env.running = true ∧ s.env.booting = false ∧ s.env.req = none ∧
       cArg c 32 4 = 0 ∧ 0 < cArg d 32 4 ∧ flightOf (fly s d) d.req = some ⟨d, 100, .fetched, none, [], false, 0⟩) ∧
    { ready.env with running := true, graceEnd := some 100 }.graceEnd = some 100 := by decide

theorem wit_TelemetryAndEvents :
    (let c := cmd 0x0901 0 [6]
     let d := cmd 0x0901 0 [7]
     starts (fly ready c) c = true ∧ cArg c 32 1 ≤ 6 ∧ starts (fly ready d) d = true ∧ 6 < cArg d 32 1) ∧
    (let c := cmd 0x0902 0 (natLE 8 0x9000 ++ natLE 2 257)
     let d := cmd 0x0902 0 (natLE 8 0x9000)
     starts (fly ready c) c = true ∧ cArg c 40 2 ≠ 0 ∧ (ringAt ready 0).evDropped = 0 ∧ starts (fly ready d) d = true ∧ cArg d 40 2 = 0 ∧
       ready.mbx.rings.length = 9) ∧
    (let s := withRing ready 8 { ring0 with evSlots := 8, evTail := 6 }
     let z := withRing ready 8 { ring0 with evSlots := 8, evTail := 7 }
     s.fab.bridge = true ∧ s.mbx.rings.length = 9 ∧ 0 < (ringAt s 8).evSlots ∧ cpDown s 0 = false ∧ (ringAt ready 8).evSlots = 0 ∧
       (ringAt ready 0).evSlots = 0 ∧ cpDown { ready with pow := { ready.pow with cpReset := [0] } } 0 = true ∧
       ringCount (ringAt s 8).evHead (ringAt s 8).evTail + 1 < (ringAt s 8).evSlots ∧ molting s = false ∧
       (ringAt z 8).evSlots ≤ ringCount (ringAt z 8).evHead (ringAt z 8).evTail + 1 ∧ z.mbx.eventsLost < 0xFFFF) := by decide

theorem wit_FaceCommands :
    (let c := cmd 0x0C01 0 [2, 0, 1, 0]
     starts (fly ready c) c = true ∧ cArg c 32 1 ≤ 2 ∧ molting (fly ready c) = false) ∧
    (let s := { ready with face := { ready.face with lastToggle := some 500, locateTimeout := some 1 } }
     s.face.lastToggle = some 500 ∧ 500 + 500 ≤ 1000 ∧ 999 < 500 + 500 ∧ s.face.locateTimeout ≠ none) ∧
    (let c := cmd 0x0C02 0 [1]
     starts (fly ready c) c = true ∧ cArg c 32 1 ≤ 1) ∧
    (ready.fab.safe = false ∧ ready.fab.drain = none ∧ ready.fab.drainWaits = none ∧ drainLegal ready = true ∧ restoringAny ready = false ∧
      bridgeFirst ready 0 = false ∧ (∀ x ∈ ready.fns, x.job = none ∧ x.molt = none) ∧ drainLegal (withJob0 ready job3) = false ∧
      (let c := cmd 0x0C02 0 [2]
       starts (fly ready c) c = true ∧ cArg c 32 1 = 2) ∧
      (let w := withJob0 ready { job3 with lengths := ⟨1, 1, 1, 2⟩ }
       drainLegal w = true ∧ restoringAny w = false ∧ bridgeFirst w 0 = false ∧ ∃ x ∈ w.fns, x.job ≠ none) ∧
      (let w := withJob0 ready { job3 with lengths := ⟨1, 1, 1, 2⟩, restoring := some (none, 0, 1) }
       drainLegal w = true ∧ restoringAny w = true)) ∧
    { ready.fab with safe := true }.safe = true := by decide

theorem wit_I3cTarget :
    ready.pow.input = true ∧ 127 < 128 ∧ ready.face.selector ≠ 0xF1 ∧ { ready.face with selector := 0xF1 }.selector = 0xF1 := by decide

theorem wit_SecureSessions :
    (let q : SpdmReq := ⟨3, [0x13, 0x81, 0, 0], 0⟩
     let s := { ready with sec := { ready.sec with conns := [⟨3, some (9, false), some [0x13, 0x81]⟩] } }
     s.pow.input = true ∧ s.flash.activation = none ∧ (connOf s q.conn).session = some (9, false) ∧
       (connOf s q.conn).deferred = some [0x13, 0x81] ∧ rd [0x13, 0x81] 1 1 = 0x81 ∧ { ready.flash with activation := some 5 }.activation ≠ none ∧
       rd q.msg 1 1 ≠ 0xFF) ∧
    (let c := cmd 0x0B01 1 [] [0x13, 0x81]
     starts (fly ready c) c = true ∧ rd c.payload 1 1 = 0x81) ∧
    (let c := cmd 0x0B02 1 [3]
     let d := cmd 0x0B02 1 [1]
     let e := cmd 0x0B02 1 [0]
     let w := cmd 0x0B02 1 [1] (zeros 63)
     starts (fly ready w) w = true ∧ w.payload ≠ [] ∧ w.payload.length ≠ 64 ∧ cArg w 32 1 = 1 ∧
     starts (fly ready c) c = true ∧ cFunction c = 1 ∧ c.ring ≠ 6 ∧ cArg c 32 1 = 3 ∧ fnState ready 0 = 1 ∧ starts (fly ready d) d = true ∧
       cArg d 32 1 = 1 ∧ d.payload = [] ∧ starts (fly ready e) e = true ∧ cArg e 32 1 = 0) ∧
    (ready.flash.serial = 1 ∧ ready.flash.counter = 0 ∧ ∀ x ∈ ready.fns, x.confidential = false) := by decide

theorem wit_MemoryStaysCanonical : State.reset.memSafe ∧ ∃ t, step State.reset = .next t := ⟨rfl, ⟨_, rfl⟩⟩

theorem wit_ShapeStays : ready.fns.length = 4 ∧ ready.mbx.rings.length = 9 ∧ ready.fab.ports.length = 9 ∧ ∃ t, step ready = .next t :=
  ⟨rfl, rfl, rfl, ⟨_, rfl⟩⟩

/-! ### Tests; the expected results are the spec's worked examples unless a comment says otherwise -/

def after (i : Instr) (s : State) : State := match exec i s with
  | .next t => t
  | _ => s

/-- spec/02, example of R30. -/
theorem test_period_rounds :
    let f (p : Nat) := let c := cmd 0x0802 0 (natLE 4 p); (after (.timeBeatSet c) (fly ready c)).eng.periodPending
    f 40000 = some (32000, 132) ∧ f 7749 = some (7500, 132) ∧ f 7750 = some (8000, 132) := by decide +kernel

/-- spec/12, example of R411: tag, status, retry_after, period in force and effective beat of TIME.BEAT_SET for 7,749 ns. -/
theorem test_completion_of_beat_set :
    let d : Bytes := [0x02, 0x08, 0, 0, 0x51, 0x0A, 0, 0, 0, 0, 0, 0, 0] ++ zeros 19 ++ [0x45, 0x1E, 0, 0] ++ zeros 28
    let c : Cmd := ⟨7, 0, d, []⟩
    let s := { ready with eng := { ready.eng with beat := 9000001 } }
    (after (.timeBeatSet c) (fly s c)).mbx.held.map (fun x => x.bytes) =
      [[0x51, 0x0A, 0, 0, 0, 0, 0, 0, 0x41, 0x54, 0x89, 0, 0, 0, 0, 0, 0x4C, 0x1D, 0, 0, 0, 0, 0, 0, 0x61, 0x54, 0x89, 0, 0, 0, 0, 0]] := by
  decide +kernel

/-- spec/12, the same example: MBX_CMD_SIZE written as 12 takes effect as 16. -/
theorem test_ring_size : (after (.mbxCmdSizeWrite 12) ready).mbx.cmdSize = 16 := by decide

/-- spec/02, example of R54: 100 µs are 13 beats at 8 µs. -/
theorem test_beats_round_up : beatsOf ready 100000 = 13 := by decide

/-- spec/03, example of R71: 300 and 460 to E4M3, 464 with and without `ovf_inf`. -/
theorem test_e4m3 :
    (convert 3 false (.ratio false 300 1 0)).1 = 0x79 ∧ (convert 3 false (.ratio false 460 1 0)).1 = 0x7E ∧
    (convert 3 false (.ratio false 464 1 0)).1 = 0x7E ∧ (convert 3 false (.ratio false 464 1 0)).2.saturated = true ∧
    (convert 3 true (.ratio false 464 1 0)).1 = 0x7F := by decide +kernel

/-- spec/03, example of R78: 1 + 2^-8 to BF16 by stochastic rounding. -/
theorem test_stochastic :
    (convertSR 1 false 0x7FFFFFFF (fp32.decode 0x3F808000).ex).1 = 0x3F80 ∧
    (convertSR 1 false 0x80000000 (fp32.decode 0x3F808000).ex).1 = 0x3F81 := by decide +kernel

/-- spec/03, example of R88: a group of MXFP8 E4M3 whose largest magnitude is 1,000 (37.3 as FP32 0x42153333, -0.004 as 0xBB83126F). -/
theorem test_mx_group :
    let g := quantGroup 3 false [fp32.decode 0x447A0000, fp32.decode 0x42153333, fp32.decode 0xBB83126F]
    g.1 = 0x80 ∧ g.2.map (fun x => x.1) = [0x7E, 0x59, 0x81] := by decide +kernel

/-- spec/03, example of R102: the nearest codebook entries of 0, 1.25, -5 and 100. -/
theorem test_codebook :
    let q (n : Int) (e : Int) := mkFin (decide (n < 0)) n.natAbs e
    let b := [q (-6) 0, q (-4) 0, q (-3) 0, q (-2) 0, q (-3) (-1), q (-1) 0, q (-1) (-1), q (-1) (-2),
      q 1 (-2), q 1 (-1), q 1 0, q 3 (-1), q 2 0, q 3 0, q 4 0, q 6 0]
    [q 0 0, q 5 (-2), q (-5) 0, q 100 0].map (fun x => (quantBook b x).1) = [8, 11, 0, 15] := by decide +kernel

/-- spec/04, first worked dot product: truncation to 2^(emax - 39) and a tie away from zero. -/
theorem test_dot :
    let v (w : Nat) := bf16.decode w
    let ps := [(v 0x4580, v 0x4580), (v 0x3F80, v 0x3F80), (v 0xBBC0, v 0x3B80)].map fun x => (⟨x.1, x.2, x.1, x.2⟩ : Pair)
    let r := tail (runPass true AccElem.start ps) vOne none
    (convert 0 false r.ex).1 = 0x4B800001 ∧ (convert 1 false r.ex).1 = 0x4B80 := by decide +kernel

/-- spec/04, worked NaN and overflow case: elements (3, 5) and (3, 6). -/
theorem test_dot_overflow :
    let v (w : Nat) := bf16.decode w
    let p (x y : Nat) : Pair := ⟨v x, v y, v x, v y⟩
    let big := tail (runPass true AccElem.start [p 0x3F80 0x3F80, p 0x6000 0x5F80]) vOne none
    let nanV := tail (runPass true AccElem.start [p 0x6000 0x5F80, p 0x3F80 0x7FC0]) vOne none
    (convert 0 true big.ex).1 = 0x7F800000 ∧ (convert 0 false big.ex).1 = 0x7F7FFFFF ∧ (convert 1 true big.ex).1 = 0x7F80 ∧
    (convert 3 false big.ex).1 = 0x7E ∧ (convert 0 true nanV.ex).1 = 0x7FC00000 ∧ (convert 3 false nanV.ex).1 = 0x7F := by decide +kernel

/-- spec/04, split product of 1 + 2^-8 and 3.0 at levels 2 and 1. -/
theorem test_split :
    let a := fp32.decode 0x3F808000
    let b := fp32.decode 0x40400000
    let at_ (l : Nat) := tail (sumPasses ((splitPasses l true true).map fun p =>
      runPass (p = (0, 0)) AccElem.start [mkPair true true p (a, b)])) vOne none
    (convert 0 false (at_ 2).ex).1 = 0x4040C000 ∧ (convert 0 false (at_ 1).ex).1 = 0x40418000 := by decide +kernel

/-- spec/04, entry 53 of a product table: 1.5 times -0.75. -/
theorem test_product_table : tableWord 0x3FC0 0xBF40 = 0xA3F19000 := by decide +kernel

/-- spec/04, the eyespot of three special elements, the first at (0, 5): a NaN, a NaN and a positive infinity (counted by hand). -/
theorem test_eyespot :
    eyespot [(0, 4, 0), (0, 5, 2 ^ 31), (3, 5, 2 ^ 31), (3, 6, 2 ^ 30)] = BitVec.ofNat 32 (2 ^ 31 + 2 ^ 30 + 0xA000 + 3) := by decide +kernel

/-- spec/06: near-memory address 0x0110_0003_7A40 lies on pseudo channel 1. -/
theorem test_near_channel : (nearPlaceOf 0x11000037A40).channel = 1 ∧ regionOf 0x11000037A40 = .near := by decide +kernel

/-- spec/07: 250 experts on 8 devices; device 6 starts at 188. -/
theorem test_expert_blocks : blockShare 250 8 0 = (0, 32) ∧ blockShare 250 8 6 = (188, 31) := by decide

/-- spec/07, example of R215: the quotas of 320 slots. -/
theorem test_quotas : quotaCol [60, 45, 70, 30, 55, 40, 38, 52] 320 = [49, 37, 57, 25, 45, 33, 31, 43] := by decide +kernel

/-- spec/00: the level-1 partner of (3, 1, 0, 15) in a job of 8 × 2 × 4 × 16. -/
theorem test_partner : partnerOf { job0 with lengths := ⟨8, 2, 4, 16⟩ } ⟨3, 1, 0, 15⟩ = some ⟨3, 0, 0, 15⟩ := by decide

/-- spec/01: core 65 failed in cluster 9, so physical index 2 becomes the spare in spite of the preferred 4. -/
theorem test_spare :
    spareOf { ready with flash := { ready.flash with preferred := (List.replicate 16 none).set 9 (some 4), ffl := [⟨0, 65, 0⟩] } } 9 = some 2 := by
  decide +kernel

/-- spec/11: the interval of R367 for 65,536 modules with 384 GiB is 20,657 ms. -/
theorem test_interval_root : (isqrt (4 * (2 * 177798692 * 1200000 / 1000000)) + 1) / 2 = 20657 := by decide +kernel

/-- spec/15, R478: 1,003 is reported as 1,000 (by hand: 1,003 lies in [512, 1,024), so multiples of 8). -/
theorem test_round64 : round64 1003 = 1000 ∧ round64 0 = 0 ∧ round64 127 = 127 := by decide +kernel

/-- FIPS 180-4, SHA-512 of "abc", first eight bytes (from outside the spec, which names the algorithm). -/
theorem test_sha512 : (sha512 (ascii "abc")).take 8 = [0xDD, 0xAF, 0x35, 0xA1, 0x93, 0x61, 0x7A, 0xBA] := by decide +kernel

/-- R385: the write that completes the three words arms ring pair 0. -/
theorem test_arming :
    let s := after (.mbxCmdSizeWrite 8) (after (.mbxCplBaseWrite 0x2000) (after (.mbxCmdBaseWrite 0x1FFF) ready))
    s.mbx.armed = true ∧ (ringAt s 0).cmdBase = 0x1000 ∧ (ringAt s 0).slots = 8 := by decide +kernel

/-- R399: an unknown opcode is UNSUPPORTED (5), a function that does not exist ABSENT (6). -/
theorem test_first_tests :
    (preTest ready (cmd 0x0199 0)).map (fun r => r.status) = some 5 ∧ (preTest ready (cmd 0x0101 9)).map (fun r => r.status) = some 6 := by
  decide +kernel

/-- R425: bytes written by the host read back. -/
theorem test_write_read :
    let s := putFn ready 0 fun x => { x with near := [⟨nearBase, 8192, false⟩] }
    let c := cmd 0x0302 1 (zeros 8 ++ natLE 8 (nearBase + 5)) [7, 0, 9]
    memRead (after (.memWrite c) (fly s c)).st.mem (nearBase + 4) 5 = [0, 7, 0, 9, 0] := by decide +kernel

/-- R255: a skipped step at scale 0 keeps the scale at 0. -/
theorem test_scale_floor :
    let j := { job4 with committed := { record0 with lsExp := 0 }, sigma := 0, commit := some { commit0 with skip := true } }
    (jobAt (after (.commitBeat 0) (withJob0 ready j)) 0).map (fun k => (k.committed.lsExp, k.committed.step)) = some (0, 1) := by
  decide +kernel

/-- R498, R499: the alert causes read over I3C and are cleared by the read. -/
theorem test_alerts_read :
    let s := { ready with face := { ready.face with alerts := 0x10, selector := 0xF1 } }
    (after .i3cPrivateRead s).face.i3cOut = [[0, 0x10, 0, 0, 0]] ∧ (after .i3cPrivateRead s).face.alerts = 0 := by decide +kernel

/-- R61: a missing item at its deadline raises the fault alert. -/
theorem test_timeout_alert :
    let j := { job4 with plan := some { plan0 with deadlines := [⟨50, .counts 0 0 ⟨1, 0, 0, 0⟩, 40, 0⟩] } }
    (after .deadlineTest (withJob0 ready j)).face.alerts.getLsbD 4 = true := by decide +kernel


/-- spec/12, R405: a piece that comes before its descriptor joins the payload; the last one is acknowledged (kind 4). -/
theorem test_piece_before_descriptor :
    let h (kind : Nat) := natLE 4 9 ++ natLE 1 kind ++ zeros 11
    let msg (kind : Nat) (b : Bytes) : Instr := .forward 0 (msgOf 8 0 (h kind ++ b))
    let s := after (msg 0 (zeros 24 ++ [2] ++ zeros 39)) (after (msg 1 [5, 6]) ready)
    (flightOf s 9).map (fun f => (f.cmd.payload, f.moved)) = some ([5, 6], 2) ∧ s.mbx.pieces = [] ∧
      s.eng.queue.map (fun x => (x.1.code, rd x.1.body 4 1)) = [(8, 4)] := by decide
end Sys2Proof.Tests
end

/-! # Watchdogs of the environment and of the control processors (O52)

R449, R22, R455, Table 14.6. A watchdog of CP1 or CP2 abandons the running steps while that processor is already in reset, so no replay
vote is cast, and nothing of power, flash and memory moves. On its return a processor with no duty held only leaves the reset. -/
section
namespace Sys2Proof.Machine
open Sys2Proof

/-! ### What an abandonment leaves alone -/

/-- What no abandonment touches: power and thermal state with the processors in reset, flash, and the bytes of memory. -/
def lasting (s : State) : Power × Flash × Memory := (s.pow, s.flash, s.st.mem)

theorem lasting_eq_iff {s t : State} : lasting t = lasting s ↔ t.pow = s.pow ∧ t.flash = s.flash ∧ t.st.mem = s.st.mem := by
  simp [lasting]

theorem cpDown_of_lasting {s t : State} (h : lasting t = lasting s) (n : Nat) : cpDown t n = cpDown s n := by
  obtain ⟨hpow, -, -⟩ := lasting_eq_iff.1 h
  simp [cpDown, hpow]

@[simp] theorem lasting_setJob (s : State) (f : Nat) (g : Job → Job) : lasting (setJob s f g) = lasting s := rfl

@[simp] theorem lasting_dropPartials (s : State) (f : Nat) : lasting (dropPartials s f) = lasting s := rfl

@[simp] theorem lasting_raiseFn (s : State) (f a b c d e : Nat) : lasting (raiseFn s f a b c d e) = lasting s := by simp [lasting]

@[simp] theorem lasting_sendMsg (s : State) (p : List Nat) (c f : Nat) (b : Bytes) : lasting (sendMsg s p c f b) = lasting s := by
  simp [lasting]

@[simp] theorem lasting_answerReq (s : State) (q : Nat) (r : Reply) : lasting (answerReq s q r) = lasting s := by simp [lasting]

@[simp] theorem lasting_finishRun (s : State) (f status reason : Nat) : lasting (finishRun s f status reason) = lasting s := by
  unfold finishRun
  split
  · split
    · simp
    · rfl
  · rfl

@[simp] theorem lasting_stopJob (s : State) (f : Nat) : lasting (stopJob s f) = lasting s := by simp [stopJob]

/-- No replay vote is cast while CP1 or CP2 is in reset (R22). -/
theorem voteReplay_of_down {s : State} (h : cpDown s 1 = true ∨ cpDown s 2 = true) (f : Nat) : voteReplay s f = s := by
  unfold voteReplay
  split
  · rfl
  · rw [if_pos]
    rcases h with h | h <;> simp [h]

theorem lasting_abandonStep {s : State} (h : cpDown s 1 = true ∨ cpDown s 2 = true) (f reason origin : Nat) (stop : Bool) :
    lasting (abandonStep s f reason origin stop) = lasting s := by
  unfold abandonStep
  split
  · rfl
  · split
    · simp
    · dsimp only
      split
      · simp
      · split
        · simp
        · rw [voteReplay_of_down]
          · simp
          · simpa [cpDown, dropPartials] using h

theorem lasting_raiseAbort {s : State} (h : cpDown s 1 = true ∨ cpDown s 2 = true) (f reason : Nat) :
    lasting (raiseAbort s f reason) = lasting s := by
  unfold raiseAbort
  split
  · rfl
  · split
    · rfl
    · dsimp only
      rw [lasting_abandonStep (by simpa [cpDown] using h)]
      simp [lasting]

/-- Aborting every running step while CP1 or CP2 is in reset moves nothing of power, flash and memory (R22). -/
theorem lasting_abortAll {s : State} (h : cpDown s 1 = true ∨ cpDown s 2 = true) (reason : Nat) :
    lasting (abortAll s reason) = lasting s := by
  unfold abortAll
  refine List.foldlRecOn _ _ (motive := fun t => lasting t = lasting s) rfl fun t ht f _ => ?_
  rw [lasting_raiseAbort (by simpa only [cpDown_of_lasting ht] using h), ht]

/-! ### The environment's watchdog (R449) -/

theorem exec_envWatchdogArm_of_running {s : State} (h : s.env.running = true) (ms : Nat) :
    exec (.envWatchdogArm ms) s = .next { s with env := { s.env with watchdogMs := if ms = 0 then 0 else clamp 10 10000 ms } } := by
  change execEnvWatchdogArm ms s = _
  simp [execEnvWatchdogArm, h]

theorem clamp_eq_max_min {lo hi : Nat} (h : lo ≤ hi) (v : Nat) : clamp lo hi v = max lo (min hi v) := by
  unfold clamp
  split
  · omega
  · split <;> omega

/-- The environment after its stop: neither running nor watched, its resets as they were (R437). -/
theorem stopEnv_env {s : State} (h : s.env.running = true) :
    (stopEnv s).env = { s.env with running := false, booting := false, graceEnd := none, watchdogMs := 0, req := none } := by
  simp [stopEnv, h, dropDomains]

@[simp] theorem stopEnv_flash (s : State) : (stopEnv s).flash = s.flash := by
  unfold stopEnv
  split
  · simp [dropDomains]
  · rfl

@[simp] theorem stopEnv_fns (s : State) : (stopEnv s).fns = s.fns := by
  unfold stopEnv
  split
  · simp [dropDomains]
  · rfl

/-- The expiry stops the environment, reports it, and puts F8 into a reset of 100 ms (R449). -/
theorem exec_envWatchdogExpiry_of_armed {s : State} (h : s.env.watchdogMs ≠ 0) :
    exec .envWatchdogExpiry s = .next { raiseDev (stopEnv s) 8 1 0x0204 8 0 0 with
      env := { (stopEnv s).env with resets := (stopEnv s).env.resets ++ [(8, ⟨s.eng.beat + beatsOf s 100000000, none, false⟩)] } } := by
  change execEnvWatchdogExpiry s = _
  simp [execEnvWatchdogExpiry, h]

/-! ### A control processor's watchdog (R22, R455) -/

/-- A processor in reset with its event raised; the hardware limiter stands in for CP3 (R22, R455). -/
def enterReset (s : State) (cp : Nat) : State :=
  let t := raiseDev { s with pow := { s.pow with cpReset := cp :: s.pow.cpReset } } 0 1 0x0204 cp 0 0
  if cp = 3 then { t with pow := { t.pow with limiter := true } } else t

@[simp] theorem enterReset_pow (s : State) (cp : Nat) :
    (enterReset s cp).pow = { s.pow with cpReset := cp :: s.pow.cpReset, limiter := if cp = 3 then true else s.pow.limiter } := by
  unfold enterReset
  split <;> simp [*]

@[simp] theorem enterReset_flash (s : State) (cp : Nat) : (enterReset s cp).flash = s.flash := by
  unfold enterReset
  split <;> simp

@[simp] theorem enterReset_st (s : State) (cp : Nat) : (enterReset s cp).st = s.st := by
  unfold enterReset
  split <;> simp

@[simp] theorem enterReset_fns (s : State) (cp : Nat) : (enterReset s cp).fns = s.fns := by
  unfold enterReset
  split <;> simp

theorem cpDown_enterReset_self (s : State) (cp : Nat) : cpDown (enterReset s cp) cp = true := by simp [cpDown]

/-- The watchdog of a processor that is up: it enters the reset, and CP1 and CP2 take the running steps with them (R22). -/
theorem cpWatchdog_of_up {s : State} {cp : Nat} (h : cpDown s cp = false) :
    cpWatchdog s cp = if cp = 1 ∨ cp = 2 then abortAll (enterReset s cp) 0x0204 else enterReset s cp := by
  rw [cpWatchdog, if_neg (by simp [h])]
  rfl

theorem cpWatchdog_of_down {s : State} {cp : Nat} (h : cpDown s cp = true) : cpWatchdog s cp = s := by simp [cpWatchdog, h]

theorem lasting_cpWatchdog {s : State} {cp : Nat} (h : cpDown s cp = false) : lasting (cpWatchdog s cp) = lasting (enterReset s cp) := by
  rw [cpWatchdog_of_up h]
  split
  next h12 =>
    refine lasting_abortAll ?_ _
    rcases h12 with rfl | rfl
    · exact .inl (cpDown_enterReset_self s 1)
    · exact .inr (cpDown_enterReset_self s 2)
  next => rfl

/-! ### The return of a control processor (R22, R455) -/

/-- A processor out of its reset; after CP3's return the power manager takes over from the limiter (R455). -/
def leaveReset (s : State) (cp : Nat) : State :=
  { s with pow := { s.pow with cpReset := s.pow.cpReset.filter fun x => !decide (x = cp),
                               limiter := if cp = 3 then false else s.pow.limiter } }

theorem cpReturn_of_down {s : State} {cp : Nat} (h : cpDown s cp = true) : cpReturn s cp = resumeDuties (leaveReset s cp) cp := by
  unfold cpReturn leaveReset
  rw [if_pos h]
  by_cases h3 : cp = 3 <;> simp [h3]

theorem cpReturn_of_up {s : State} {cp : Nat} (h : cpDown s cp = false) : cpReturn s cp = s := by simp [cpReturn, h]

theorem mem_leaveReset_cpReset {s : State} {cp k : Nat} : k ∈ (leaveReset s cp).pow.cpReset ↔ k ∈ s.pow.cpReset ∧ k ≠ cp := by
  simp [leaveReset]

theorem leaveReset_frame (s : State) (cp : Nat) : Frame [.pow] s (leaveReset s cp) := by
  apply frame_of <;> simp [leaveReset]

theorem takeHeld_of_none {s : State} (h : s.mbx.cpHeld = []) : takeHeld s = s := by
  calc takeHeld s = { s with mbx := { s.mbx with cpHeld := [] } } := by simp [takeHeld, h]
    _ = s := by rw [← h]

@[simp] theorem deliverEvent_cpHeld (s : State) (r : Bytes) : (deliverEvent s r).mbx.cpHeld = s.mbx.cpHeld := by
  unfold deliverEvent
  dsimp only
  (repeat' split) <;> rfl

@[simp] theorem deliverEvent_flights (s : State) (r : Bytes) : (deliverEvent s r).mbx.flights = s.mbx.flights := by
  unfold deliverEvent
  dsimp only
  (repeat' split) <;> rfl

theorem foldl_deliverEvent_cpHeld (l : List Bytes) (s : State) : (l.foldl deliverEvent s).mbx.cpHeld = s.mbx.cpHeld :=
  foldl_keeps (fun s => s.mbx.cpHeld) deliverEvent deliverEvent_cpHeld l s

theorem foldl_deliverEvent_flights (l : List Bytes) (s : State) : (l.foldl deliverEvent s).mbx.flights = s.mbx.flights :=
  foldl_keeps (fun s => s.mbx.flights) deliverEvent deliverEvent_flights l s

/-- With no command in flight CP0 takes up only the events that the bridge has held, in their order (R22; log 151). -/
theorem resumeCp0_of_no_flights {s : State} (h : s.mbx.flights = []) :
    resumeCp0 s = s.mbx.evHeld.foldl deliverEvent { s with mbx := { s.mbx with evHeld := [] } } := by
  simp [resumeCp0, foldl_deliverEvent_flights, h]

theorem resumeCp0_of_none {s : State} (hf : s.mbx.flights = []) (he : s.mbx.evHeld = []) : resumeCp0 s = s := by
  calc resumeCp0 s = { s with mbx := { s.mbx with evHeld := [] } } := by simp [resumeCp0_of_no_flights hf, he]
    _ = s := by rw [← he]

theorem jobAt_eq_none {s : State} (h : ∀ x ∈ s.fns, x.job = none) (f : Nat) : jobAt s f = none := by
  unfold jobAt fnAt
  by_cases hf : f < s.fns.length
  · simp [hf, h]
  · simp [hf, FnSt.init]

theorem resumeCp1_of_no_jobs {s : State} (h : ∀ f, jobAt s f = none) : resumeCp1 s = s := by simp [resumeCp1, h]

theorem voteReplay_of_no_job {s : State} {f : Nat} (h : jobAt s f = none) : voteReplay s f = s := by simp [voteReplay, h]

/-- CP0 takes up the held events, and nothing else where no message is held and no command in flight (R22). -/
theorem resumeDuties_cp0 {s : State} (hc : s.mbx.cpHeld = []) (hf : s.mbx.flights = []) :
    resumeDuties s 0 = s.mbx.evHeld.foldl deliverEvent { s with mbx := { s.mbx with evHeld := [] } } := by
  have held : (resumeCp0 s).mbx.cpHeld = [] := by rw [resumeCp0_of_no_flights hf, foldl_deliverEvent_cpHeld, hc]
  calc resumeDuties s 0 = takeHeld (resumeCp0 s) := by simp [resumeDuties]
    _ = resumeCp0 s := takeHeld_of_none held
    _ = _ := resumeCp0_of_no_flights hf

/-- A processor that has held no duty takes nothing up. -/
theorem resumeDuties_of_none {s : State} (hc : s.mbx.cpHeld = []) (he : s.mbx.evHeld = []) (hf : s.mbx.flights = [])
    (hj : ∀ f, jobAt s f = none) (cp : Nat) : resumeDuties s cp = s := by
  have own : (if cp = 0 then resumeCp0 s else if cp = 1 then resumeCp1 s else s) = s := by
    rw [resumeCp0_of_none hf he, resumeCp1_of_no_jobs hj, ite_self, ite_self]
  unfold resumeDuties
  rw [own, takeHeld_of_none hc]
  simp [voteReplay_of_no_job, hj]

/-! ### The obligation -/

theorem envWatchdogExpiry_resets {s : State} (harmed : s.env.watchdogMs ≠ 0) (hrun : s.env.running = true) :
    ∃ t, exec .envWatchdogExpiry s = .next t ∧ t.env.running = false ∧ t.env.watchdogMs = 0 ∧ t.flash = s.flash ∧ t.fns = s.fns ∧
      t.env.resets = s.env.resets ++ [(8, ⟨s.eng.beat + beatsOf s 100000000, none, false⟩)] :=
  ⟨_, exec_envWatchdogExpiry_of_armed harmed, by simp [stopEnv_env hrun]⟩

theorem cpWatchdog_resets {s : State} {cp : Nat} (h : cpDown s cp = false) :
    (cpWatchdog s cp).pow.cpReset = cp :: s.pow.cpReset ∧ (cpWatchdog s cp).flash = s.flash ∧ (cpWatchdog s cp).st.mem = s.st.mem ∧
      (cp = 3 → (cpWatchdog s cp).pow.limiter = true) ∧ (cp ≠ 1 → cp ≠ 2 → (cpWatchdog s cp).fns = s.fns) := by
  obtain ⟨hpow, hflash, hmem⟩ := lasting_eq_iff.1 (lasting_cpWatchdog h)
  refine ⟨by simp [hpow], by simp [hflash], by simp [hmem], fun h3 => by rw [hpow, enterReset_pow, if_pos h3], fun h1 h2 => ?_⟩
  simp [cpWatchdog_of_up h, h1, h2]

theorem cpReturn_of_no_duty {s : State} {cp : Nat} (hd : cpDown s cp = true) (hc : s.mbx.cpHeld = []) (he : s.mbx.evHeld = [])
    (hf : s.mbx.flights = []) (hj : ∀ x ∈ s.fns, x.job = none) : cpReturn s cp = leaveReset s cp :=
  (cpReturn_of_down hd).trans (resumeDuties_of_none (s := leaveReset s cp) hc he hf (jobAt_eq_none (s := leaveReset s cp) hj) cp)

/-- Settles O52, clause by clause: the environment's watchdog, the processors' watchdogs, their return without a held duty, and
CP0's return with the events that the bridge has held. -/
theorem watchdogs : Obligations.Watchdogs := by
  refine ⟨fun s ms hrun => ?arm, fun s harmed hrun => envWatchdogExpiry_resets harmed hrun,
    fun s cp hup => ⟨cpWatchdog s cp, rfl, cpWatchdog_resets hup⟩, fun s cp => ⟨fun hd => ?again, fun hup => ?early⟩,
    fun s cp hd hc he hf hj => ⟨leaveReset s cp, ?back, leaveReset_frame s cp, ?out, ?others, ?cp3, ?limiter⟩,
    fun s hd hc hf => ?events⟩
  case arm => rw [exec_envWatchdogArm_of_running hrun, clamp_eq_max_min (by decide)]
  case again => exact congrArg _ (cpWatchdog_of_down hd)
  case early => exact congrArg _ (cpReturn_of_up hup)
  case back => exact congrArg _ (cpReturn_of_no_duty hd hc he hf hj)
  case out => simp [mem_leaveReset_cpReset]
  case others => exact fun k hk => by simp [mem_leaveReset_cpReset, hk]
  case cp3 => exact fun h3 => by simp [leaveReset, h3]
  case limiter => exact fun h3 => by simp [leaveReset, h3]
  case events => exact congrArg _ ((cpReturn_of_down hd).trans (resumeDuties_cp0 hc hf))

end Sys2Proof.Machine
end

/-! # Conversion on a format's grid (O35)

R67, R71, R73. An encoding reads as its three fields. A value read from them has the unit of its grid as its exponent, so rounding leaves it
alone; it is no larger than the largest finite value, and encoding it puts the same three fields together again. -/
section
namespace Sys2Proof.Machine
open Sys2Proof

/-! ### The binade of a ratio -/

theorem floorLog2_one {m : Nat} (hm : m ≠ 0) (e : Int) : floorLog2 m 1 e = Nat.log2 m + e := by
  have hone : Nat.log2 1 = 0 := by decide
  simp [floorLog2, hone, Nat.one_shiftLeft, Nat.log2_self_le hm]

theorem floorLog2_lt {n d k : Nat} (hn : 0 < n) (h : n < d * 2 ^ k) (e : Int) : floorLog2 n d e < e + k := by
  have hlog : Nat.log2 n < Nat.log2 d + 1 + k := by
    rw [Nat.log2_lt (Nat.ne_of_gt hn), Nat.pow_add]
    exact Nat.lt_trans h (Nat.mul_lt_mul_of_pos_right Nat.lt_log2_self (Nat.two_pow_pos k))
  by_cases htop : Nat.log2 n = Nat.log2 d + k
  · have hk : (Nat.log2 d + k : Nat) - (Nat.log2 d : Int) = k := by omega
    have hbelow : floorLog2 n d e = k - 1 + e := by
      simp only [floorLog2, htop, hk, Int.natCast_nonneg, if_true, Int.toNat_natCast, Nat.shiftLeft_eq, Nat.not_le.2 h, decide_false,
        Bool.false_eq_true, if_false]
    omega
  · simp only [floorLog2]
    split <;> omega

/-! ### Rounding (R71 to R73) -/

@[simp] theorem scaleFloor_zero (n d : Nat) : scaleFloor n d 0 = n / d := by simp [scaleFloor]

theorem scaleFloor_one (m : Nat) : scaleFloor m 1 1 = m * 2 := by simp [scaleFloor, Nat.shiftLeft_eq]

theorem scaleFloor_neg_of_lt {n d k : Nat} (h : n < d * 2 ^ k) : scaleFloor n d (-k) = 0 := by
  unfold scaleFloor
  split
  · have hk : k = 0 := by omega
    subst hk
    exact Nat.div_eq_of_lt (by simpa using h)
  · rw [Int.neg_neg, Int.toNat_natCast, Nat.shiftLeft_eq]
    exact Nat.div_eq_of_lt h

/-- A value whose exponent is the unit of its grid rounds to itself. -/
theorem round_of_unitExp {f : FloatFmt} {m : Nat} {e : Int} (hm : m ≠ 0) (hu : f.unitExp m 1 e = e) (s : Bool) :
    f.round (.ratio s m 1 e) = .fin s m e := by
  have half : (scaleFloor m 1 (e + 1 - e) + 1) / 2 = m := by
    have hone : e + 1 - e = 1 := by omega
    rw [hone, scaleFloor_one]
    omega
  simp only [FloatFmt.round, hu, half, mkFin, if_neg hm]

/-- Below the smallest normal value the grid keeps the subnormal unit. -/
theorem unitExp_below_normal {f : FloatFmt} {n d k : Nat} {e : Int} (hn : 0 < n) (h : n < d * 2 ^ k) (he : e + k ≤ f.emin) :
    f.unitExp n d e = f.emin - f.mBits := by
  rw [FloatFmt.unitExp, Int.max_eq_right (Int.le_trans (Int.le_of_lt (floorLog2_lt hn h e)) he)]

theorem round_below_half {f : FloatFmt} {n d k : Nat} (hn : 0 < n) (h : n < d * 2 ^ k) (s : Bool) :
    f.round (.ratio s n d (f.emin - f.mBits - 1 - k)) = .zero s := by
  have hu : f.unitExp n d (f.emin - f.mBits - 1 - k) = f.emin - f.mBits :=
    unitExp_below_normal hn h (by omega)
  have hk : f.emin - f.mBits - 1 - k + 1 - (f.emin - f.mBits) = -(k : Int) := by omega
  simp only [FloatFmt.round, hu, hk, scaleFloor_neg_of_lt h]
  rfl

theorem round_half (f : FloatFmt) (s : Bool) : f.round (.ratio s 1 1 (f.emin - f.mBits - 1)) = .fin s 1 (f.emin - f.mBits) := by
  have hu : f.unitExp 1 1 (f.emin - f.mBits - 1) = f.emin - f.mBits := unitExp_below_normal (k := 1) Nat.one_pos (by decide) (by omega)
  have hk : f.emin - f.mBits - 1 + 1 - (f.emin - f.mBits) = 0 := by omega
  simp only [FloatFmt.round, hu, hk, scaleFloor_zero]
  rfl

/-! ### The fields of an encoding (R67) -/

def FloatFmt.signField (f : FloatFmt) (w : Nat) : Bool := decide ((w >>> (f.mBits + f.eBits)) % 2 = 1)
def FloatFmt.expField (f : FloatFmt) (w : Nat) : Nat := (w >>> f.mBits) % 2 ^ f.eBits
def FloatFmt.fracField (f : FloatFmt) (w : Nat) : Nat := w % 2 ^ f.mBits

/-- The encoding with the given fields. -/
def FloatFmt.pack (f : FloatFmt) (s : Bool) (e m : Nat) : Nat := b2n s <<< (f.mBits + f.eBits) ||| e <<< f.mBits ||| m

theorem expField_lt (f : FloatFmt) (w : Nat) : f.expField w < 2 ^ f.eBits := Nat.mod_lt _ (Nat.two_pow_pos _)

theorem fracField_lt (f : FloatFmt) (w : Nat) : f.fracField w < 2 ^ f.mBits := Nat.mod_lt _ (Nat.two_pow_pos _)

theorem b2n_signField {f : FloatFmt} {w : Nat} (hw : w < 2 ^ (1 + f.eBits + f.mBits)) : b2n (f.signField w) = w >>> (f.mBits + f.eBits) := by
  have htop : w >>> (f.mBits + f.eBits) < 2 := by
    have hsplit : 1 + f.eBits + f.mBits = 1 + (f.mBits + f.eBits) := by omega
    rw [hsplit, Nat.pow_add] at hw
    rwa [Nat.shiftRight_eq_div_pow, Nat.div_lt_iff_lt_mul (Nat.two_pow_pos _)]
  rcases Nat.le_one_iff_eq_zero_or_eq_one.1 (Nat.le_of_lt_succ htop) with h0 | h1
  · simp [FloatFmt.signField, b2n, h0]
  · simp [FloatFmt.signField, b2n, h1]

theorem pack_fields {f : FloatFmt} {w : Nat} (hw : w < 2 ^ (1 + f.eBits + f.mBits)) :
    f.pack (f.signField w) (f.expField w) (f.fracField w) = w := by
  have hlow : f.expField w <<< f.mBits ||| f.fracField w = w % 2 ^ (f.mBits + f.eBits) := by
    rw [← Nat.shiftLeft_add_eq_or_of_lt (fracField_lt f w), FloatFmt.expField, FloatFmt.fracField, Nat.shiftRight_eq_div_pow,
      Nat.shiftLeft_eq, Nat.pow_add, Nat.mod_mul, Nat.mul_comm, Nat.add_comm]
  rw [FloatFmt.pack, Nat.or_assoc, hlow, b2n_signField hw, ← Nat.shiftLeft_add_eq_or_of_lt (Nat.mod_lt _ (Nat.two_pow_pos _)),
    Nat.shiftRight_eq_div_pow, Nat.shiftLeft_eq]
  exact Nat.div_add_mod' w _

/-- What the fields of an encoding can read as (R67, R68). -/
inductive FloatFmt.Reads (f : FloatFmt) (w : Nat) : Val → Prop
  | inf (special : f.special = 1) (exp : f.expField w = 2 ^ f.eBits - 1) (frac : f.fracField w = 0) : Reads f w (.inf (f.signField w))
  | nan (special : f.special ≠ 0) : Reads f w .nan
  | zero (exp : f.expField w = 0) (frac : f.fracField w = 0) : Reads f w (.zero (f.signField w))
  | subnormal (exp : f.expField w = 0) (frac : f.fracField w ≠ 0) :
      Reads f w (.fin (f.signField w) (f.fracField w) (f.emin - f.mBits))
  | normal (exp : f.expField w ≠ 0) (top1 : f.special = 1 → f.expField w ≠ 2 ^ f.eBits - 1)
      (top2 : f.special = 2 → f.expField w = 2 ^ f.eBits - 1 → f.fracField w ≠ 2 ^ f.mBits - 1) :
      Reads f w (.fin (f.signField w) (2 ^ f.mBits + f.fracField w) (f.expField w - f.bias - f.mBits))

theorem decode_eq_fields (f : FloatFmt) (w : Nat) : f.decode w =
    if f.special = 1 ∧ f.expField w = 2 ^ f.eBits - 1 then (if f.fracField w = 0 then .inf (f.signField w) else .nan)
    else if f.special = 2 ∧ f.expField w = 2 ^ f.eBits - 1 ∧ f.fracField w = 2 ^ f.mBits - 1 then .nan
    else if f.expField w = 0 then mkFin (f.signField w) (f.fracField w) (f.emin - f.mBits)
    else .fin (f.signField w) (2 ^ f.mBits + f.fracField w) (f.expField w - f.bias - f.mBits) := rfl

theorem reads_decode (f : FloatFmt) (w : Nat) : f.Reads w (f.decode w) := by
  rw [decode_eq_fields]
  by_cases hieee : f.special = 1 ∧ f.expField w = 2 ^ f.eBits - 1
  · rw [if_pos hieee]
    by_cases hinf : f.fracField w = 0
    · rw [if_pos hinf]
      exact .inf hieee.1 hieee.2 hinf
    · rw [if_neg hinf]
      exact .nan (by omega)
  · rw [if_neg hieee]
    by_cases he4m3 : f.special = 2 ∧ f.expField w = 2 ^ f.eBits - 1 ∧ f.fracField w = 2 ^ f.mBits - 1
    · rw [if_pos he4m3]
      exact .nan (by omega)
    · rw [if_neg he4m3]
      by_cases hexp : f.expField w = 0
      · rw [if_pos hexp, mkFin]
        by_cases hfrac : f.fracField w = 0
        · rw [if_pos hfrac]
          exact .zero hexp hfrac
        · rw [if_neg hfrac]
          exact .subnormal hexp hfrac
      · rw [if_neg hexp]
        exact .normal hexp (fun h1 h => hieee ⟨h1, h⟩) fun h2 he hm => he4m3 ⟨h2, he, hm⟩

/-! ### Encoding -/

theorem encode_inf (f : FloatFmt) (s : Bool) : f.encode (.inf s) = f.pack s (2 ^ f.eBits - 1) 0 := by simp [FloatFmt.encode, FloatFmt.pack]

theorem encode_zero (f : FloatFmt) (s : Bool) : f.encode (.zero s) = f.pack s 0 0 := by simp [FloatFmt.encode, FloatFmt.pack]

theorem two_pow_add_ne_zero (k m : Nat) : 2 ^ k + m ≠ 0 := by
  have := Nat.two_pow_pos k
  omega

theorem log2_normal {k m : Nat} (hm : m < 2 ^ k) : Nat.log2 (2 ^ k + m) = k :=
  (Nat.log2_eq_iff (two_pow_add_ne_zero k m)).2 ⟨Nat.le_add_right _ _, by rw [Nat.pow_succ]; omega⟩

theorem encode_subnormal {f : FloatFmt} {m : Nat} (h0 : m ≠ 0) (hm : m < 2 ^ f.mBits) (s : Bool) :
    f.encode (.fin s m (f.emin - f.mBits)) = f.pack s 0 m := by
  have hbelow : floorLog2 m 1 (f.emin - f.mBits) < f.emin := by
    have := floorLog2_lt (d := 1) (Nat.pos_of_ne_zero h0) (by rwa [Nat.one_mul]) (f.emin - f.mBits)
    rwa [Int.sub_add_cancel] at this
  simp [FloatFmt.encode, FloatFmt.pack, hbelow]

theorem encode_normal {f : FloatFmt} {e m : Nat} (he : e ≠ 0) (hm : m < 2 ^ f.mBits) (s : Bool) :
    f.encode (.fin s (2 ^ f.mBits + m) (e - f.bias - f.mBits)) = f.pack s e m := by
  have hbinade : (f.mBits : Int) + (e - f.bias - f.mBits) = e - f.bias := by omega
  have hnormal : ¬ (e : Int) - f.bias < f.emin := by rw [FloatFmt.emin]; omega
  simp [FloatFmt.encode, FloatFmt.pack, floorLog2_one (two_pow_add_ne_zero _ m), log2_normal hm, hbinade, hnormal, Nat.mod_eq_of_lt hm]

/-! ### The largest finite value (R74) -/

/-- What the formats of Table 3.2 have in common: a fraction bit and two exponent bits at least. -/
structure FloatFmt.Legal (f : FloatFmt) : Prop where
  mBits : 1 ≤ f.mBits
  eBits : 2 ≤ f.eBits

theorem emin_lt_emax {f : FloatFmt} (hf : f.Legal) : f.emin < f.emax := by
  have h4 : 2 ^ 2 ≤ 2 ^ f.eBits := Nat.pow_le_pow_right (by decide) hf.eBits
  unfold FloatFmt.emin FloatFmt.emax
  split <;> omega

theorem not_exceeds_top {f : FloatFmt} {m : Nat} (hm : m ≤ f.maxSig) (s : Bool) : f.exceeds (.fin s m (f.emax - f.mBits)) = false := by
  simp [FloatFmt.exceeds, hm]

/-- Below the top binade no significand of the format exceeds. -/
theorem not_exceeds_below {f : FloatFmt} (hf : f.Legal) {m : Nat} {e : Int} (hm : m < 2 ^ (f.mBits + 1)) (he : e < f.emax - f.mBits)
    (s : Bool) : f.exceeds (.fin s m e) = false := by
  have h4 : 2 ^ 2 ≤ 2 ^ (f.mBits + 1) := Nat.pow_le_pow_right (by decide) (Nat.succ_le_succ hf.mBits)
  have hsig : 2 ^ (f.mBits + 1) ≤ f.maxSig * 2 := by unfold FloatFmt.maxSig; split <;> omega
  have hneg : ¬ 0 ≤ e - (f.emax - f.mBits) := by omega
  have hshift : 2 ^ 1 ≤ 2 ^ (-(e - (f.emax - f.mBits))).toNat := Nat.pow_le_pow_right Nat.two_pos (by omega)
  have hle : m ≤ f.maxSig * 2 ^ (-(e - (f.emax - f.mBits))).toNat :=
    Nat.le_trans (Nat.le_of_lt hm) (Nat.le_trans hsig (Nat.mul_le_mul_left _ hshift))
  simp only [FloatFmt.exceeds, if_neg hneg, Nat.shiftLeft_eq]
  exact decide_eq_false (Nat.not_lt.2 hle)

theorem not_exceeds_normal {f : FloatFmt} (hf : f.Legal) {w : Nat} (top1 : f.special = 1 → f.expField w ≠ 2 ^ f.eBits - 1)
    (top2 : f.special = 2 → f.expField w = 2 ^ f.eBits - 1 → f.fracField w ≠ 2 ^ f.mBits - 1) (s : Bool) :
    f.exceeds (.fin s (2 ^ f.mBits + f.fracField w) (f.expField w - f.bias - f.mBits)) = false := by
  have hexp := expField_lt f w
  have hfrac := fracField_lt f w
  have hle : (f.expField w : Int) - f.bias ≤ f.emax := by
    unfold FloatFmt.emax
    split
    next h1 =>
      have := top1 h1
      omega
    next => omega
  rcases Int.lt_or_eq_of_le hle with hlt | heq
  · exact not_exceeds_below hf (by rw [Nat.pow_succ]; omega) (by omega) s
  · rw [heq]
    refine not_exceeds_top ?_ s
    unfold FloatFmt.maxSig
    split
    next h2 =>
      have hemax : f.emax = (2 ^ f.eBits - 1 : Nat) - (f.bias : Int) := if_neg (by omega)
      have := top2 h2 (by omega)
      omega
    next => omega

/-! ### Conversion -/

theorem convert_of_floatOf {code : Nat} {f : FloatFmt} (h : floatOf code = some f) (ovf : Bool) (x : Ex) :
    convert code ovf x = f.finish ovf x (f.round x) := by simp [convert, h]

/-- A finite value on the grid that does not exceed the format keeps its encoding. -/
theorem convert_fin {code : Nat} {f : FloatFmt} (h : floatOf code = some f) {s : Bool} {m : Nat} {e : Int} (hm : m ≠ 0)
    (hu : f.unitExp m 1 e = e) (hx : f.exceeds (.fin s m e) = false) (ovf : Bool) :
    (convert code ovf (Val.fin s m e).ex).1 = f.encode (.fin s m e) := by
  simp [convert_of_floatOf h, Val.ex, hm, round_of_unitExp hm hu, FloatFmt.finish, hx]

theorem legal_of_floatOf {code : Nat} {f : FloatFmt} (h : floatOf code = some f) : f.Legal ∧ fmtBits code = 1 + f.eBits + f.mBits := by
  have table : ∀ c < 8, ∀ g ∈ floatOf c, (1 ≤ g.mBits ∧ 2 ≤ g.eBits) ∧ fmtBits c = 1 + g.eBits + g.mBits := by decide
  obtain ⟨hc, -⟩ := List.getElem?_eq_some_iff.1 h
  obtain ⟨⟨hm, he⟩, hb⟩ := table code hc f h
  exact ⟨⟨hm, he⟩, hb⟩

theorem decode_encode_nan {code : Nat} {f : FloatFmt} (h : floatOf code = some f) (hs : f.special ≠ 0) : f.decode (f.encode .nan) = .nan := by
  have table : ∀ g ∈ [fp32, bf16, fp16, e4m3, e5m2, e3m2, e2m3, e2m1], g.special ≠ 0 → g.decode (g.encode .nan) = .nan := by decide
  exact table f (List.mem_of_getElem? h) hs

theorem convert_decode {code w : Nat} {f : FloatFmt} (h : floatOf code = some f) (hw : w < 2 ^ fmtBits code) (hn : f.decode w ≠ .nan)
    (ovf : Bool) : (convert code ovf (f.decode w).ex).1 = w := by
  obtain ⟨hlegal, hbits⟩ := legal_of_floatOf h
  rw [hbits] at hw
  have hlt := fracField_lt f w
  refine Eq.trans ?_ (pack_fields hw)
  have hreads := reads_decode f w
  generalize f.decode w = v at hn hreads
  cases hreads with
  | inf special exp frac => simp [convert_of_floatOf h, Val.ex, FloatFmt.finish, special, encode_inf, exp, frac]
  | nan => exact absurd rfl hn
  | zero exp frac => simp [convert_of_floatOf h, Val.ex, FloatFmt.round, FloatFmt.finish, FloatFmt.exceeds, encode_zero, exp, frac]
  | subnormal exp frac =>
    have hu : f.unitExp (f.fracField w) 1 (f.emin - f.mBits) = f.emin - f.mBits :=
      unitExp_below_normal (k := f.mBits) (Nat.pos_of_ne_zero frac) (by rwa [Nat.one_mul]) (by omega)
    have hx := not_exceeds_below hlegal (e := f.emin - f.mBits) (Nat.lt_trans hlt (Nat.pow_lt_pow_right Nat.one_lt_two (Nat.lt_succ_self _)))
      (by have := emin_lt_emax hlegal; omega) (f.signField w)
    rw [convert_fin h frac hu hx, encode_subnormal frac hlt, exp]
  | normal exp top1 top2 =>
    have hu : f.unitExp (2 ^ f.mBits + f.fracField w) 1 (f.expField w - f.bias - f.mBits) = f.expField w - f.bias - f.mBits := by
      rw [FloatFmt.unitExp, floorLog2_one (two_pow_add_ne_zero _ _), log2_normal hlt, FloatFmt.emin]
      omega
    rw [convert_fin h (two_pow_add_ne_zero _ _) hu (not_exceeds_normal hlegal top1 top2 _), encode_normal exp hlt]

theorem convert_decode_nan {code w : Nat} {f : FloatFmt} (h : floatOf code = some f) (hn : f.decode w = .nan) (ovf : Bool) :
    f.special ≠ 0 ∧ f.decode (convert code ovf (f.decode w).ex).1 = .nan := by
  have hreads := reads_decode f w
  rw [hn] at hreads ⊢
  cases hreads with
  | nan special => exact ⟨special, by simpa [convert_of_floatOf h, Val.ex, FloatFmt.finish] using decode_encode_nan h special⟩

/-- Settles O35: the values of an encoding by its fields, then the two magnitudes at half the smallest subnormal. -/
theorem subnormalsAreKept : Obligations.SubnormalsAreKept :=
  ⟨fun _ _ _ ovf h hw => ⟨fun hn => convert_decode h hw hn ovf, fun hn => convert_decode_nan h hn ovf⟩,
    fun _ neg _ _ _ hn _ hlt => round_below_half hn hlt neg, round_half⟩

end Sys2Proof.Machine
end

/-! # Allocations, token rows, work-list items and segments (O34)

What serves one function's job leaves everything but that function and the stores alone, and of the job all that a projection
`q` shows: `KeepsJob q`. The operations of the exchange, of the work lists and of the collectives are followed through it. -/
section
namespace Sys2Proof.Machine
open Sys2Proof

/-! ### What an operation on one function keeps -/

@[simp] theorem setJob_fns_length (s : State) (f : Nat) (g : Job → Job) : (setJob s f g).fns.length = s.fns.length := by
  simp [setJob, setFn]

theorem fnAt_setJob_ne (s : State) {f k : Nat} (g : Job → Job) (h : k ≠ f) : fnAt (setJob s f g) k = fnAt s k := fnAt_setFn_ne s _ h

theorem frame_setJob (s : State) (f : Nat) (g : Job → Job) : Frame [.fns] s (setJob s f g) := by
  apply frame_of <;> simp

theorem frame_storeBytes (s : State) (a : Nat) (b : Bytes) : Frame [.stores, .mem] s (storeBytes s a b) := by
  apply frame_of <;> simp

/-- At most function f and the stores change, and the projection `q` of the function's job stays. -/
structure KeepsJob {α : Type} (q : Job → α) (f : Nat) (s t : State) : Prop where
  frame : Frame [.fns, .stores, .mem] s t
  length : t.fns.length = s.fns.length
  others : ∀ g, g ≠ f → fnAt t g = fnAt s g
  job : (jobAt t f).map q = (jobAt s f).map q

namespace KeepsJob
variable {α β γ : Type} {q : Job → α} {f : Nat} {s t u : State}

theorem refl (q : Job → α) (f : Nat) (s : State) : KeepsJob q f s s := ⟨frame_refl _ s, rfl, fun _ _ => rfl, rfl⟩

theorem trans (h : KeepsJob q f s t) (k : KeepsJob q f t u) : KeepsJob q f s u :=
  ⟨frame_trans h.frame k.frame, k.length.trans h.length, fun g hg => (k.others g hg).trans (h.others g hg), k.job.trans h.job⟩

/-- What is seen through `q` is kept with `q`. -/
theorem comp (h : KeepsJob q f s t) (r : α → β) : KeepsJob (r ∘ q) f s t :=
  ⟨h.frame, h.length, h.others, by rw [← Option.map_map, h.job, Option.map_map]⟩

theorem foldl {g : State → γ → State} {l : List γ} (h : ∀ x ∈ l, ∀ s, KeepsJob q f s (g s x)) : ∀ s, KeepsJob q f s (l.foldl g s) := by
  induction l with
  | nil => exact refl q f
  | cons x r ih => exact fun s => (h x (by simp) s).trans (ih (fun y hy => h y (by simp [hy])) _)

theorem setJob {g : Job → Job} (h : ∀ j, jobAt s f = some j → q (g j) = q j) : KeepsJob q f s (setJob s f g) where
  frame := frame_mono (frame_setJob s f g) (by simp)
  length := setJob_fns_length s f g
  others _ hk := fnAt_setJob_ne s g hk
  job := by
    by_cases hf : f < s.fns.length
    · rw [jobAt_setJob s f g hf]
      cases hj : jobAt s f with
      | none => rfl
      | some j => simp [h j hj]
    · simp [jobAt, Machine.setJob, setFn, fnAt, hf]

theorem storeBytes (q : Job → α) (f : Nat) (s : State) (a : Nat) (b : Bytes) : KeepsJob q f s (storeBytes s a b) :=
  ⟨frame_mono (frame_storeBytes s a b) (by simp), rfl, fun _ _ => rfl, rfl⟩

theorem phase (h : KeepsJob q f s t) : t.eng.phase = s.eng.phase := by
  have heng : t.eng.sansQueue = s.eng.sansQueue := h.frame .eng (by simp)
  have hphase := congrArg (fun e => e.phase) heng
  exact hphase

theorem exists_job (h : KeepsJob q f s t) {j : Job} (hj : jobAt s f = some j) : ∃ k, jobAt t f = some k ∧ q k = q j := by
  simpa [hj] using h.job

end KeepsJob

/-- The job without the statistics and flags of its steps, its counters and the sums that wait for their comparison. -/
def Job.sansStats (j : Job) : Job :=
  { j with stats := StepStats.init 0 0 0, nextStats := StepStats.init 0 0 0, nonfinite := false, nextNonfinite := false, counts := [], checks := [] }

theorem sansStats_onStep {g : Job → Job} (h : ∀ j, (g j).sansStats = j.sansStats) (step : Nat) (j : Job) :
    (onStep step g j).sansStats = j.sansStats := by
  unfold onStep
  split
  · exact h j
  · exact h { j with stats := j.nextStats, nextStats := j.stats, nonfinite := j.nextNonfinite, nextNonfinite := j.nonfinite }

theorem sansStats_bumpExch (j : Job) (layer : Nat) (g : ExchStats → ExchStats) : (bumpExch j layer g).sansStats = j.sansStats := rfl

theorem sansStats_addEye (j : Job) (op t : Nat) (e : BitVec 32) : (addEye j op t e).sansStats = j.sansStats := rfl

theorem jobAt_setJob_of {s : State} {f : Nat} {j : Job} (hf : f < s.fns.length) (hj : jobAt s f = some j) (g : Job → Job) :
    jobAt (setJob s f g) f = some (g j) := by simp [hf, hj]

/-! ### The exchange of a layer and micro-batch -/

theorem find?_updFirst {α : Type} {p : α → Bool} {g : α → α} {l : List α} {x : α} (h : l.find? p = some x) (hg : p (g x) = true) :
    (updFirst p g l).find? p = some (g x) := by
  induction l with
  | nil => simp at h
  | cons y r ih =>
    cases hy : p y with
    | true =>
      obtain rfl : y = x := by simpa [hy] using h
      simp [updFirst, hy, hg]
    | false =>
      have hr : r.find? p = some x := by simpa [hy] using h
      simp [updFirst, hy, ih hr]

theorem exchAt_key {j : Job} {layer mb : Nat} {x : Exchange} (h : exchAt j layer mb = some x) : x.layer = layer ∧ x.mb = mb := by
  simpa using List.find?_some h

theorem exchAt_setExch {j : Job} {layer mb : Nat} {x : Exchange} (h : exchAt j layer mb = some x) (g : Exchange → Exchange)
    (hl : (g x).layer = x.layer) (hm : (g x).mb = x.mb) : exchAt (setExch j layer mb g) layer mb = some (g x) := by
  obtain ⟨kl, km⟩ := exchAt_key h
  exact find?_updFirst h (by simp [hl, hm, kl, km])

/-- The exchange without the rows of its receive buffer and their numbers. -/
def Exchange.sansRows (x : Exchange) : Exchange := { x with received := [], roundRows := [] }

/-- What the rows that come in leave of a job: its committed record and an exchange without its rows. -/
def exchSide (layer mb : Nat) (j : Job) : Committed × Option Exchange := (j.committed, (exchAt j layer mb).map Exchange.sansRows)

theorem exchSide_setExch {j : Job} {layer mb : Nat} {x : Exchange} (h : exchAt j layer mb = some x) (g : Exchange → Exchange)
    (hg : (g x).sansRows = x.sansRows) : exchSide layer mb (setExch j layer mb g) = exchSide layer mb j := by
  have hx := exchAt_setExch h g (congrArg (fun y => y.layer) hg) (congrArg (fun y => y.mb) hg)
  rw [exchSide, exchSide, hx, h, Option.map_some, Option.map_some, hg]
  rfl

theorem keeps_countAt (s : State) (f step : Nat) (op : Option Nat) (back : Bool) (cs : List Counted) :
    KeepsJob Job.sansStats f s (countAt s f step op back cs) := by
  cases op with
  | none => exact .refl _ f s
  | some k => exact .setJob fun j _ => sansStats_onStep (fun _ => by rfl) step j

theorem keeps_placeRow (s : State) (f : Nat) (ex : Exchange) (rv : RecvRow) : KeepsJob Job.sansStats f s (placeRow s f ex rv) := by
  unfold placeRow
  cases jobAt s f with
  | none => exact .refl _ f s
  | some j =>
    have hstore : KeepsJob Job.sansStats f s (if rv.origin = j.coord.e then s else
        (groupedStores (exchCtx s f j ex) ex rv).foldl (fun s w => storeBytes s w.1 w.2.1) s) := by
      split
      · exact .refl _ f s
      · exact .foldl (fun w _ s => .storeBytes _ f s w.1 w.2.1) s
    dsimp only
    split
    · exact hstore.trans (keeps_countAt _ f _ _ true _)
    · exact hstore

/-- A row enters the receive buffer of its exchange; its bytes then take their place, which only counts (R224). -/
theorem keeps_enterRow_entry {s : State} {f layer mb : Nat} {j : Job} {x : Exchange} (hj : jobAt s f = some j)
    (hx : exchAt j layer mb = some x) (rv : RecvRow) :
    KeepsJob Job.sansStats f (setJob s f fun j => setExch j layer mb fun _ => { x with received := x.received ++ [rv] })
      (enterRow s f layer mb rv) := by
  simp only [enterRow, hj, Option.bind_some, hx]
  split
  · exact .refl _ f _
  · exact keeps_placeRow _ f _ rv

theorem keeps_enterRow (s : State) (f layer mb : Nat) (rv : RecvRow) : KeepsJob (exchSide layer mb) f s (enterRow s f layer mb rv) := by
  cases hx : (jobAt s f).bind fun j => exchAt j layer mb with
  | none =>
    have h : enterRow s f layer mb rv = s := by simp only [enterRow, hx]
    rw [h]
    exact .refl _ f s
  | some x =>
    obtain ⟨j, hj, hx⟩ := Option.bind_eq_some_iff.1 hx
    refine .trans (.setJob fun i hi => ?_) ((keeps_enterRow_entry hj hx rv).comp (exchSide layer mb))
    obtain rfl : j = i := by simpa [hj] using hi
    exact exchSide_setExch hx _ rfl

theorem keeps_writeCounts {α : Type} (q : Job → α) (s : State) (f layer : Nat) (rows : List Nat) :
    KeepsJob q f s (writeCounts s f layer rows) := by
  unfold writeCounts
  cases jobAt s f with
  | none => exact .refl q f s
  | some j => exact .foldl (fun _ _ s => .storeBytes q f s _ _) s

/-! ### The allocation (R211 to R228) -/

/-- The exchange that an allocation gives. -/
def allocatedExch (s : State) (j : Job) (x : Exchange) (back : Bool) : Exchange := if back then allocateBack s j x else allocate s j x

/-- Rows per local expert of an exchange, by its quotas. -/
def quotaRows (j : Job) (layer : Nat) (ex : Exchange) : List Nat :=
  (List.range (expertSpan j layer j.coord.e).2).map fun i => sumNat (ex.quota.getD ((expertSpan j layer j.coord.e).1 + i) [])

/-- The allocated exchange with the row counts that the quotas fix (R225). -/
def countedExch (s : State) (j : Job) (x : Exchange) (layer mb : Nat) (back : Bool) : Exchange :=
  if back || byTags j layer mb then allocatedExch s j x back
  else { allocatedExch s j x back with roundRows := insertK (allocatedExch s j x back).roundRows 0 (quotaRows j layer (allocatedExch s j x back)) }

/-- What an allocation by job j changes in a job: the exchange, the m-tiles released in it, the statistics of its step (R211, R228, R239). -/
def allocJob (s : State) (j : Job) (x : Exchange) (layer mb : Nat) (back : Bool) (i : Job) : Job :=
  let i1 := { setExch i layer mb (fun _ => countedExch s j x layer mb back) with
    released := i.released.filter fun k => !(decide (k.layer = layer) && decide (k.mb = mb) && (k.backward == back)) }
  if back then i1
  else onStep x.step (fun i => bumpExch i layer (allocStats i x (allocatedExch s j x back) (quotaRows j layer (allocatedExch s j x back)))) i1

theorem allocatedExch_key (s : State) (j : Job) (x : Exchange) (back : Bool) :
    (allocatedExch s j x back).layer = x.layer ∧ (allocatedExch s j x back).mb = x.mb := by
  cases back <;> exact ⟨rfl, rfl⟩

theorem countedExch_sansRows (s : State) (j : Job) (x : Exchange) (layer mb : Nat) (back : Bool) :
    (countedExch s j x layer mb back).sansRows = (allocatedExch s j x back).sansRows := by
  unfold countedExch
  split <;> rfl

theorem exchSide_onStep {g : Job → Job} (h : ∀ j, (g j).sansStats = j.sansStats) (layer mb step : Nat) (j : Job) :
    exchSide layer mb (onStep step g j) = exchSide layer mb j := by
  have hside := congrArg (exchSide layer mb) (sansStats_onStep h step j)
  exact hside

theorem exchSide_allocJob (s : State) {j : Job} {layer mb : Nat} {x : Exchange} (hx : exchAt j layer mb = some x) (back : Bool) :
    exchSide layer mb (allocJob s j x layer mb back j) = (j.committed, some (allocatedExch s j x back).sansRows) := by
  obtain ⟨kl, km⟩ := allocatedExch_key s j x back
  have hrows := countedExch_sansRows s j x layer mb back
  have hput := exchAt_setExch hx (fun _ => countedExch s j x layer mb back)
    ((congrArg (fun y => y.layer) hrows).trans kl) ((congrArg (fun y => y.mb) hrows).trans km)
  have hside : exchSide layer mb (setExch j layer mb fun _ => countedExch s j x layer mb back) =
      (j.committed, some (allocatedExch s j x back).sansRows) := by
    rw [exchSide, hput, Option.map_some, hrows]
    rfl
  cases back with
  | true => exact hside
  | false => exact (exchSide_onStep (fun _ => sansStats_bumpExch _ layer _) layer mb x.step _).trans hside

theorem allocationDone_of_none {s : State} {f layer mb : Nat} {j : Job} (hj : jobAt s f = some j) (hx : exchAt j layer mb = none)
    (back : Bool) : allocationDone s f layer mb back = s := by simp [allocationDone, hj, hx]

theorem allocationDone_of_not_may {s : State} {f layer mb : Nat} {back : Bool} {j : Job} {x : Exchange} (hj : jobAt s f = some j)
    (hx : exchAt j layer mb = some x) (hm : mayAllocate s j x back = false) : allocationDone s f layer mb back = s := by
  simp [allocationDone, hj, hx, hm]

/-- A complete allocation comes into force, and then the local rows enter (R211, R218, R224). -/
theorem allocationDone_of_may {s : State} {f layer mb : Nat} {back : Bool} {j : Job} {x : Exchange} (hj : jobAt s f = some j)
    (hx : exchAt j layer mb = some x) (hm : mayAllocate s j x back = true) :
    allocationDone s f layer mb back =
      (localRows j (countedExch s j x layer mb back) back).foldl (fun s r => enterRow s f layer mb r)
        (if byTags j layer mb then setJob s f (allocJob s j x layer mb back)
         else writeCounts (setJob s f (allocJob s j x layer mb back)) f layer (quotaRows j layer (allocatedExch s j x back))) := by
  unfold allocationDone
  rw [hj]; dsimp only
  rw [hx]; dsimp only
  rw [hm, if_neg (by decide)]
  rfl

theorem keeps_allocationDone {s : State} {f layer mb : Nat} {back : Bool} {j : Job} {x : Exchange} (hj : jobAt s f = some j)
    (hx : exchAt j layer mb = some x) (hm : mayAllocate s j x back = true) :
    KeepsJob (exchSide layer mb) f (setJob s f (allocJob s j x layer mb back)) (allocationDone s f layer mb back) := by
  rw [allocationDone_of_may hj hx hm]
  refine .trans ?_ (.foldl (fun r _ s => keeps_enterRow s f layer mb r) _)
  split
  · exact .refl _ f _
  · exact keeps_writeCounts _ _ f layer _

/-- R210 to R221, R228: an allocation that may not complete does nothing. -/
theorem allocationComplete_waits {s : State} {f layer mb : Nat} {back : Bool} {j : Job} (hj : jobAt s f = some j)
    (h : exchAt j layer mb = none ∨ ∃ x, exchAt j layer mb = some x ∧ mayAllocate s j x back = false) :
    exec (.allocationComplete f layer mb back) s = .next (if s.eng.phase = .data then beginWaiting s f else s) := by
  have hnone : allocationDone s f layer mb back = s := by
    rcases h with hx | ⟨x, hx, hm⟩
    · exact allocationDone_of_none hj hx back
    · exact allocationDone_of_not_may hj hx hm
  change execAllocationComplete f layer mb back s = _
  rw [execAllocationComplete, hnone]

/-- R210 to R221, R228: an allocation that may complete comes into force. -/
theorem allocationComplete_allocates {s : State} {f layer mb : Nat} {back : Bool} {j : Job} {x : Exchange} (hf : f < s.fns.length)
    (hj : jobAt s f = some j) (hx : exchAt j layer mb = some x) (hm : mayAllocate s j x back = true) : ∃ u k y,
      exec (.allocationComplete f layer mb back) s = .next (if s.eng.phase = .data then beginWaiting u f else u) ∧
      Frame [.fns, .stores, .mem] s u ∧ jobAt u f = some k ∧ (∀ g, g ≠ f → fnAt u g = fnAt s g) ∧ exchAt k layer mb = some y ∧
      k.committed = j.committed ∧ y.sansRows = (allocatedExch s j x back).sansRows := by
  have hkeep := keeps_allocationDone hj hx hm
  obtain ⟨k, hk, hside⟩ := hkeep.exists_job (jobAt_setJob_of hf hj _)
  rw [exchSide_allocJob s hx back, exchSide, Prod.mk.injEq, Option.map_eq_some_iff] at hside
  obtain ⟨hcommitted, y, hy, hrows⟩ := hside
  refine ⟨_, k, y, ?_, frame_trans (frame_mono (frame_setJob s f _) (by simp)) hkeep.frame, hk,
    fun g hg => (hkeep.others g hg).trans (fnAt_setJob_ne s _ hg), hy, hcommitted, hrows⟩
  change execAllocationComplete f layer mb back s = _
  rw [execAllocationComplete, hkeep.phase]
  rfl

/-! ### Token rows (R224, R226, R235) -/

theorem exec_tokenRow_of {s t : State} {f round : Nat} {back : Bool} {row : Bytes} (h : takeRow s f round back row = t) :
    exec (.tokenRow f round back row) s = .next t := congrArg Host.Outcome.next h

/-- R235: a row of another epoch is only counted. -/
theorem tokenRow_stale {s : State} {f : Nat} {row : Bytes} {j : Job} (hf : f < s.fns.length) (hj : jobAt s f = some j)
    (he : rd row 10 2 ≠ epochOf j (rd row 8 2)) (round : Nat) (back : Bool) :
    ∃ t k, exec (.tokenRow f round back row) s = .next t ∧ Frame [.fns] s t ∧ jobAt t f = some k ∧ k.exchanges = j.exchanges ∧
      k.arrivals = j.arrivals := by
  have hrow : takeRow s f round back row = staleRow s f (rd row 12 2) := by simp [takeRow, hj, he]
  exact ⟨_, _, exec_tokenRow_of hrow, frame_setJob s f _, jobAt_setJob_of hf hj _, rfl, rfl⟩

/-- R226: a row that names this device as its origin is kept beside its sender and stamped with the beat. -/
theorem tokenRow_returned {s : State} {f : Nat} {row : Bytes} {j : Job} {x : Exchange} (hf : f < s.fns.length)
    (hj : jobAt s f = some j) (he : rd row 10 2 = epochOf j (rd row 8 2)) (hx : exchAt j (rd row 12 2) (rd row 8 2) = some x)
    (ho : coordOf row 0 = j.coord) (round : Nat) (back : Bool) :
    ∃ t k y, exec (.tokenRow f round back row) s = .next t ∧ Frame [.fns] s t ∧ jobAt t f = some k ∧
      exchAt k (rd row 12 2) (rd row 8 2) = some y ∧ y.returned = x.returned ++ [(returnSender j x row, back, row)] ∧
      y.received = x.received ∧ k.arrivals = j.arrivals ++ [(.returned (rd row 12 2) (rd row 8 2) round back
        (coordPut j.coord 0 (returnSender j x row)), x.step, s.eng.beat)] := by
  have hrow : takeRow s f round back row =
      setJob (noteArrival s f (.returned (rd row 12 2) (rd row 8 2) round back (coordPut j.coord 0 (returnSender j x row))) x.step) f
        fun i => setExch i (rd row 12 2) (rd row 8 2) fun y => { y with returned := y.returned ++ [(returnSender j x row, back, row)] } := by
    simp only [takeRow, hj, he, hx, ho, ne_eq, not_true_eq_false, if_false, if_true]
  exact ⟨_, _, _, exec_tokenRow_of hrow, frame_trans (frame_setJob s f _) (frame_setJob _ f _),
    jobAt_setJob_of (by simpa [noteArrival] using hf) (jobAt_setJob_of hf hj _) _, exchAt_setExch hx _ rfl rfl, rfl, rfl, rfl⟩

/-- R224: a row of another origin enters the receive buffer of its exchange. -/
theorem tokenRow_received {s : State} {f : Nat} {row : Bytes} {j : Job} {x : Exchange} (hf : f < s.fns.length)
    (hj : jobAt s f = some j) (he : rd row 10 2 = epochOf j (rd row 8 2)) (hx : exchAt j (rd row 12 2) (rd row 8 2) = some x)
    (ho : coordOf row 0 ≠ j.coord) (round : Nat) (back : Bool) :
    ∃ t k y z, exec (.tokenRow f round back row) s = .next t ∧ Frame [.fns, .stores, .mem] s t ∧ jobAt t f = some k ∧
      exchAt k (rd row 12 2) (rd row 8 2) = some y ∧ y.received = x.received ++ [z] ∧ z.bytes = row ∧ z.origin = rd row 0 1 ∧
      z.round = round ∧ y.returned = x.returned := by
  obtain ⟨pos, hrow⟩ : ∃ pos, takeRow s f round back row =
      enterRow (noteArrival s f (.rows (rd row 12 2) (rd row 8 2) round back (coordOf row 0)) x.step) f (rd row 12 2) (rd row 8 2)
        ⟨rd row 0 1, round, pos, back, row⟩ := by
    simp only [takeRow, hj, he, hx, ho, ne_eq, not_true_eq_false, if_false]
    exact ⟨_, rfl⟩
  have hnote := jobAt_setJob_of hf hj fun j => { j with
    arrivals := j.arrivals ++ [(.rows (rd row 12 2) (rd row 8 2) round back (coordOf row 0), x.step, s.eng.beat)] }
  have hkeep := keeps_enterRow_entry (layer := rd row 12 2) (mb := rd row 8 2) hnote hx ⟨rd row 0 1, round, pos, back, row⟩
  obtain ⟨k, hk, hside⟩ := hkeep.exists_job (jobAt_setJob_of (by simpa using hf) hnote _)
  have hexch : k.exchanges = _ := congrArg (fun i => i.exchanges) hside
  refine ⟨_, k, { x with received := x.received ++ [⟨rd row 0 1, round, pos, back, row⟩] }, _, exec_tokenRow_of hrow, ?_, hk, ?_, rfl, rfl, rfl, rfl, rfl⟩
  · exact frame_trans (frame_mono (frame_trans (frame_setJob s f _) (frame_setJob _ f _)) (by simp)) hkeep.frame
  · rw [exchAt, hexch]
    exact exchAt_setExch hx _ rfl rfl

/-! ### Released m-tiles (R141, R225) -/

/-- Whether a window serves one of some m-tiles of an expert. -/
def windowDue (j : Job) (keys : List TileKey) (e m : Nat) (w : WorkList) : Bool :=
  match opNth j w.op with
  | some o => keys.contains ⟨o.layer, w.mb, flagBack o, w.round, e, m⟩
  | none => false

/-- The items of an m-tile of an expert can be claimed. -/
def releaseItems (e m : Nat) (w : WorkList) : WorkList :=
  { w with items := w.items.map fun i => if i.expert = e ∧ i.mTile = m then { i with released := true } else i }

theorem windowDue_iff {j : Job} {keys : List TileKey} {e m : Nat} {w : WorkList} :
    windowDue j keys e m w = true ↔ ∃ q, opNth j w.op = some q ∧ ⟨q.layer, w.mb, flagBack q, w.round, e, m⟩ ∈ keys := by
  unfold windowDue
  cases opNth j w.op <;> simp

/-- The job after a release: the m-tiles that are due, and their items in the windows that they serve. -/
def releaseJob (s : State) (e m : Nat) (j : Job) : Job :=
  { j with released := dueTiles s j e m ++ j.released,
           workLists := j.workLists.map fun w => if !windowDue j (dueTiles s j e m) e m w then w else releaseItems e m w }

theorem releaseTile_eq (s : State) (f e m : Nat) : releaseTile s f e m = setJob s f (releaseJob s e m) := rfl

/-- R141: the items of the m-tiles that are due can be claimed in the windows of these m-tiles; every other window stays. -/
theorem itemRelease_releases {s : State} {f : Nat} {j : Job} (hf : f < s.fns.length) (hj : jobAt s f = some j) (e m : Nat) :
    ∃ t k, exec (.itemRelease f e m) s = .next t ∧ Frame [.fns] s t ∧ jobAt t f = some k ∧ k.released = dueTiles s j e m ++ j.released ∧
      k.workLists.length = j.workLists.length ∧ ∀ (n : Nat) (w : WorkList), j.workLists[n]? = some w → ∃ (v : WorkList) (o : Option OpD), k.workLists[n]? = some v ∧
        o = opNth j w.op ∧
        ((∃ q, o = some q ∧ ⟨q.layer, w.mb, flagBack q, w.round, e, m⟩ ∈ dueTiles s j e m) →
          v.items.length = w.items.length ∧ ∀ (l : Nat) (i : WorkItem), w.items[l]? = some i →
            v.items[l]? = some (if i.expert = e ∧ i.mTile = m then { i with released := true } else i)) ∧
        ((∀ q, o = some q → ⟨q.layer, w.mb, flagBack q, w.round, e, m⟩ ∉ dueTiles s j e m) → v = w) := by
  refine ⟨_, _, congrArg Host.Outcome.next (releaseTile_eq s f e m), frame_setJob s f _, jobAt_setJob_of hf hj _, rfl, by simp [releaseJob], ?_⟩
  intro n w hw
  refine ⟨_, _, by rw [releaseJob, List.getElem?_map, hw]; rfl, rfl, fun hdue => ?_, fun hnone => ?_⟩
  · simp only [windowDue_iff.2 hdue, Bool.not_true, Bool.false_eq_true, if_false]
    refine ⟨by simp [releaseItems], fun l i hi => ?_⟩
    simp [releaseItems, hi]
  · have hnot : windowDue j (dueTiles s j e m) e m w = false := by
      rw [← Bool.not_eq_true, windowDue_iff]
      rintro ⟨q, ho, hq⟩
      exact hnone q ho hq
    simp [hnot]

/-! ### Items of the common work list (R139, R140) -/

/-- What an output tile delivers: its stored rows and words, its eyespot, a sentinel's sum. -/
def Effect.OfTile : Effect → Prop
  | .mem _ _ | .eye _ _ _ | .checkSum _ => True
  | _ => False

theorem ofTile_tileDone (x : SliceCtx) (op : Nat) (o : OpD) (g : ProdGeom) (t tiles mt nt : Nat) (es : List (List AccElem)) :
    ∀ e ∈ tileDone x op o g t tiles mt nt es, e.OfTile := by
  unfold tileDone
  extract_lets c plane
  have hplane : ∀ im, ∀ e ∈ plane im, e.OfTile := by
    intro im
    simp only [plane, List.forall_mem_append, List.forall_mem_map]
    refine ⟨⟨⟨fun _ _ => trivial, ?_⟩, by simp [Effect.OfTile]⟩, ?_⟩
    · split <;> simp [Effect.OfTile]
    · split <;> simp [Effect.OfTile]
  refine List.forall_mem_append.2 ⟨hplane false, ?_⟩
  split
  · exact hplane true
  · simp

theorem ofTile_itemWork {x : SliceCtx} {op : Nat} {rows : List Nat} {e mt nt t : Nat} {a : Effect}
    (h : a ∈ itemWork x op rows e mt nt t) : a.OfTile := by
  unfold itemWork at h
  cases ho : opNth x.j op with
  | none => simp [ho] at h
  | some o =>
    simp only [ho] at h
    exact ofTile_tileDone _ _ _ _ _ _ _ _ _ _ h

theorem ofTile_itemResult {s : State} {f core : Nat} {j : Job} {w : WorkList} {i : WorkItem} (hc : i.check = false) {a : Effect}
    (h : a ∈ (itemResult s f j w i core).2) : a.OfTile := by
  unfold itemResult at h
  cases ho : opNth j w.op with
  | none => simp [ho] at h
  | some o =>
    simp only [ho, hc, Bool.false_eq_true, if_false] at h
    exact ofTile_itemWork h

theorem keeps_applyEffect {e : Effect} (h : e.OfTile) (f step : Nat) (s : State) : KeepsJob Job.sansStats f s (applyEffect f step s e) := by
  cases e with
  | mem a b => exact .storeBytes _ f s a b
  | eye op t w => exact .setJob fun j _ => sansStats_onStep (fun _ => sansStats_addEye _ op t w) step j
  | checkSum c => exact .setJob fun _ _ => rfl
  | _ => exact h.elim

/-- The claim counter passes items that are all claimed. -/
theorem claimItems_of_claimed {l : List WorkItem} (h : ∀ i ∈ l, i.phase ≠ 0) (all : List WorkItem) (half : Nat → Bool) (c n : Nat) :
    claimItems all half c n l = l := by
  induction l with
  | nil => cases n <;> rfl
  | cons i r ih =>
    cases n with
    | zero => rfl
    | succ n => rw [claimItems, if_pos (h i (by simp)), ih fun k hk => h k (by simp [hk])]

/-- A core finds nothing to pull in a window whose items are all done. -/
theorem pullItem_of_done {w : WorkList} (h : ∀ i ∈ w.items, i.phase = 3) (s : State) (f core : Nat) : pullItem s f w core = w := by
  have hclaim : claimItems w.items (upperHalf s f) (core / 6) 2 w.items = w.items :=
    claimItems_of_claimed (fun i hi => by simp [h i hi]) _ _ _ _
  have hnone : ∀ p : WorkItem → Bool, (w.items.any fun i => decide (i.phase = 1) && p i) = false := by
    intro p
    rw [List.any_eq_false]
    intro i hi
    simp [h i hi]
  simp only [pullItem, hclaim, hnone, Bool.and_assoc, Bool.false_eq_true, if_false]

theorem pullCore_of_done {s : State} {f : Nat} {j : Job} (hj : jobAt s f = some j) (h : ∀ w ∈ j.workLists, ∀ i ∈ w.items, i.phase = 3)
    (core : Nat) : pullCore f s core = s := by
  have hnone : (j.workLists.findSome? fun w => ((pullItem s f w core).items.find? fun i => decide (i.phase = 2) && decide (i.at_ = core)).map
      fun i => (pullItem s f w core, i)) = none := by
    rw [List.findSome?_eq_none_iff]
    intro w hw
    rw [pullItem_of_done (h w hw), Option.map_eq_none_iff, List.find?_eq_none]
    intro i hi
    simp [h w hw i hi]
  simp only [pullCore, hj, hnone, ite_self]

/-- A function without slices begins none. -/
theorem keeps_beginWaiting {s : State} {f : Nat} (h : ∀ j, jobAt s f = some j → j.running = []) :
    KeepsJob Job.sansStats f s (beginWaiting s f) := by
  cases hj : jobAt s f with
  | none =>
    have hnone : beginWaiting s f = s := by simp [beginWaiting, beginSlices, hj]
    rw [hnone]
    exact .refl _ f s
  | some j =>
    have hempty : beginWaiting s f = setJob s f fun j => { j with running := [] } := by
      simp [beginWaiting, beginSlices, hj, h j hj]
    rw [hempty]
    refine .setJob fun i hi => ?_
    rw [← h i hi]

/-- The window after a core's item is done. -/
def doneWindow (w : WorkList) (core : Nat) (i : WorkItem) : WorkList :=
  { w with items := updFirst (fun k => decide (k.phase = 2) && decide (k.at_ = core)) (fun k => { k with phase := 3 }) w.items,
           last := insertK w.last core (i.expert, i.nTile) }

/-- The item's results take effect and its window knows that it is done. -/
def deliverItem (s : State) (f core : Nat) (j : Job) (w : WorkList) (i : WorkItem) : State :=
  setJob (applyEffects f w.step (itemResult s f j w i core).2 s) f (putWindow (doneWindow w core i))

/-- A core in a window finishes its item: the results, and in the data phase the waiting loads and the core's next item. -/
theorem itemDone_of_flight {s : State} {f core : Nat} {j : Job} {w : WorkList} {i : WorkItem} (hj : jobAt s f = some j)
    (hw : (j.workLists.find? fun w => w.items.any fun i => decide (i.phase = 2) && decide (i.at_ = core)) = some w)
    (hi : (w.items.find? fun i => decide (i.phase = 2) && decide (i.at_ = core)) = some i)
    (hb : (itemResult s f j w i core).1.findSome? (fun r => badIn s r.1 r.2) = none) :
    itemDone s f core =
      if (deliverItem s f core j w i).eng.phase = .data then
        if j.hold.isSome || inStop (beginWaiting (deliverItem s f core j w i) f) j then beginWaiting (deliverItem s f core j w i) f
        else pullCore f (beginWaiting (deliverItem s f core j w i) f) core
      else deliverItem s f core j w i := by
  simp only [itemDone, hj, hw, hi, hb]
  rfl

theorem itemComplete_idle {s : State} {f core : Nat} {j : Job} (hj : jobAt s f = some j)
    (h : ∀ w ∈ j.workLists, ∀ i ∈ w.items, ¬ (i.phase = 2 ∧ i.at_ = core)) : exec (.itemComplete f core) s = .next s := by
  have hnone : (j.workLists.find? fun w => w.items.any fun i => decide (i.phase = 2) && decide (i.at_ = core)) = none := by
    simpa using h
  have hidle : itemDone s f core = s := by simp only [itemDone, hj, hnone]
  exact congrArg Host.Outcome.next hidle

/-- With no slice that waits and every item done, a core that goes on leaves the state as it is but for statistics. -/
theorem keeps_pullNext {s : State} {f core : Nat} {j : Job} (hj : jobAt s f = some j) (hrun : j.running = [])
    (hdone : ∀ w ∈ j.workLists, ∀ i ∈ w.items, i.phase = 3) : KeepsJob Job.sansStats f s (pullCore f (beginWaiting s f) core) := by
  have hbegin : KeepsJob Job.sansStats f s (beginWaiting s f) := keeps_beginWaiting fun i hi => by
    obtain rfl : j = i := by simpa [hj] using hi
    exact hrun
  obtain ⟨k, hk, hside⟩ := hbegin.exists_job hj
  have hlists : k.workLists = j.workLists := congrArg (fun i => i.workLists) hside
  rw [pullCore_of_done hk (hlists ▸ hdone)]
  exact hbegin

/-- The only item of the only window is done: with no slice that waits, nothing else of the function's job changes but its statistics. -/
theorem itemComplete_done {s : State} {f core : Nat} {j : Job} {w : WorkList} {i : WorkItem} (hf : f < s.fns.length)
    (hj : jobAt s f = some j) (hws : j.workLists = [w]) (his : w.items = [i]) (hp : i.phase = 2) (ha : i.at_ = core)
    (hc : i.check = false) (hrun : s.eng.phase ≠ .data ∨ j.running = [])
    (hb : (itemResult s f j w i core).1.findSome? (fun r => badIn s r.1 r.2) = none) :
    ∃ t k v, exec (.itemComplete f core) s = .next t ∧ Frame [.fns, .stores, .mem] s t ∧ jobAt t f = some k ∧ k.workLists = [v] ∧
      v.items = [{ i with phase := 3 }] ∧ v.op = w.op ∧ k.committed = j.committed := by
  have hmine : (decide (i.phase = 2) && decide (i.at_ = core)) = true := by simp [hp, ha]
  have hdone : itemDone s f core = _ := itemDone_of_flight (w := w) (i := i) hj (by simp [hws, his, hmine]) (by simp [his, hmine]) hb
  have heffects : KeepsJob Job.sansStats f s (applyEffects f w.step (itemResult s f j w i core).2 s) :=
    .foldl (fun e he s => keeps_applyEffect (ofTile_itemResult hc he) f w.step s) s
  obtain ⟨k, hk, hside⟩ := heffects.exists_job hj
  have hlists : k.workLists = [w] := (congrArg (fun i => i.workLists) hside).trans hws
  have hrunning : k.running = j.running := congrArg (fun i => i.running) hside
  have hcommitted : k.committed = j.committed := congrArg (fun i => i.committed) hside
  have hdeliver : jobAt (deliverItem s f core j w i) f = some (putWindow (doneWindow w core i) k) :=
    jobAt_setJob_of (by rw [heffects.length]; exact hf) hk _
  have hput : (putWindow (doneWindow w core i) k).workLists = [doneWindow w core i] := by
    simp [putWindow, hlists, sameWindow, doneWindow]
  have hitems : (doneWindow w core i).items = [{ i with phase := 3 }] := by simp [doneWindow, his, updFirst, hmine]
  have hphase : (deliverItem s f core j w i).eng.phase = s.eng.phase := heffects.phase
  have hgo : KeepsJob Job.sansStats f (deliverItem s f core j w i) (itemDone s f core) := by
    rw [hdone, hphase]
    split
    case isFalse => exact .refl _ f _
    case isTrue hdata =>
      have hempty : (putWindow (doneWindow w core i) k).running = [] := hrunning.trans (hrun.resolve_left (not_not_intro hdata))
      split
      · refine keeps_beginWaiting fun i hi => ?_
        rw [hdeliver] at hi
        exact Option.some.inj hi ▸ hempty
      · exact keeps_pullNext hdeliver hempty (by simp [hput, hitems])
  obtain ⟨l, hl, hlast⟩ := hgo.exists_job hdeliver
  refine ⟨_, l, doneWindow w core i, rfl, ?_, hl, ?_, hitems, rfl, ?_⟩
  · exact frame_trans heffects.frame (frame_trans (frame_mono (frame_setJob _ f _) (by simp)) hgo.frame)
  · exact (congrArg (fun i => i.workLists) hlast).trans hput
  · exact (congrArg (fun i => i.committed) hlast).trans hcommitted

/-! ### Collective segments (R301, R302) -/

/-- R302: a segment of another attempt is counted at its port. -/
theorem collectiveSegment_stale {s : State} {f : Nat} {seg : Bytes} {j : Job} (hj : jobAt s f = some j)
    (hb : (rd seg 7 1).testBit 1 = false) (hs : segCurrent j (rd seg 28 4) (rd seg 9 1) = none) (port : Nat) :
    exec (.collectiveSegment f port seg) s = .next (setPort s port fun p => { p with stale := min (2 ^ 32 - 1) (p.stale + 1) }) := by
  have hsat : ∀ n, sat (2 ^ 32 - 1) n = min (2 ^ 32 - 1) n := fun n => by
    unfold sat
    split <;> omega
  have hseg : takeSegment s f port seg = setPort s port fun p => { p with stale := min (2 ^ 32 - 1) (p.stale + 1) } := by
    simp only [takeSegment, hj, bit, hb, hs, hsat, Bool.false_eq_true, if_false]
  exact congrArg Host.Outcome.next hseg

theorem keeps_storeGather {α : Type} (q : Job → α) (f : Nat) (s : State) (j : Job) (o : OpD) (origin : Coord) (offset count : Nat)
    (body : Bytes) : KeepsJob q f s (storeGather s j o origin offset count body) := by
  unfold storeGather
  dsimp only
  split
  · exact .refl q f s
  · split
    · exact .storeBytes q f s _ _
    · exact .trans (.storeBytes q f s _ _) (.storeBytes q f _ _ _)

/-- A current segment that no reduction takes is noted, and a gather stores its bytes (R61, R301). -/
theorem keeps_takeSegment {s : State} {f step : Nat} {seg : Bytes} {j : Job} (hj : jobAt s f = some j)
    (hb : (rd seg 7 1).testBit 1 = false) (hs : segCurrent j (rd seg 28 4) (rd seg 9 1) = some step)
    (hc : collOpOf j (rd seg 0 4) (rd seg 4 1 % 16) = none ∨ (rd seg 4 1 % 16 ≠ 1 ∧ rd seg 4 1 % 16 ≠ 3)) (port : Nat) :
    KeepsJob id f (noteArrival s f (segItem seg) step) (takeSegment s f port seg) := by
  simp only [takeSegment, hj, bit, hb, hs, Bool.false_eq_true, if_false]
  cases ho : collOpOf j (rd seg 0 4) (rd seg 4 1 % 16) with
  | none => exact .refl id f _
  | some op =>
    have hgather : ¬ (rd seg 4 1 % 16 = 1 ∨ rd seg 4 1 % 16 = 3) := not_or.2 (hc.resolve_left (by simp [ho]))
    simp only [hgather, if_false]
    cases opNth j op with
    | none => exact .refl id f _
    | some o => exact keeps_storeGather id f _ j o _ _ _ _

/-- R61, R301: a segment of the running step is stamped with the beat. -/
theorem collectiveSegment_current {s : State} {f step : Nat} {seg : Bytes} {j : Job} (hf : f < s.fns.length) (hj : jobAt s f = some j)
    (hb : (rd seg 7 1).testBit 1 = false) (hs : segCurrent j (rd seg 28 4) (rd seg 9 1) = some step)
    (hc : collOpOf j (rd seg 0 4) (rd seg 4 1 % 16) = none ∨ (rd seg 4 1 % 16 ≠ 1 ∧ rd seg 4 1 % 16 ≠ 3)) (port : Nat) :
    ∃ t k, exec (.collectiveSegment f port seg) s = .next t ∧ Frame [.fns, .stores, .mem] s t ∧ jobAt t f = some k ∧
      k.arrivals = j.arrivals ++ [(segItem seg, step, s.eng.beat)] ∧ k.committed = j.committed := by
  have hkeep := keeps_takeSegment hj hb hs hc port
  obtain ⟨k, hk, hside⟩ := hkeep.exists_job (jobAt_setJob_of hf hj _)
  exact ⟨_, k, rfl, frame_trans (frame_mono (frame_setJob s f _) (by simp)) hkeep.frame, hk, congrArg (fun i => i.arrivals) hside,
    congrArg (fun i => i.committed) hside⟩

/-! ### The obligation -/

/-- Settles O34, clause by clause: the allocation, the rows, the released m-tiles, the items of the cores, the segments. -/
theorem exchangeAndItems : Obligations.ExchangeAndItems := by
  refine ⟨fun s f layer mb back j hl hf hj => ⟨allocationComplete_waits hj, fun x hx hm => ?_⟩,
    fun s f round back row j hl hf hj => ⟨fun he => tokenRow_stale (hl ▸ hf) hj he round back, fun x he hx =>
      ⟨fun ho => tokenRow_returned (hl ▸ hf) hj he hx ho round back, fun ho => tokenRow_received (hl ▸ hf) hj he hx ho round back⟩⟩,
    fun s f e m j hl hf hj => itemRelease_releases (hl ▸ hf) hj e m,
    fun s f core j hl hf hj => ⟨itemComplete_idle hj, fun w i hws his hp ha hc hrun hb =>
      itemComplete_done (hl ▸ hf) hj hws his hp ha hc hrun hb⟩,
    fun s f port seg j hl hf hj hb => ⟨fun hs => collectiveSegment_stale hj hb hs port, fun step hs hc =>
      collectiveSegment_current (hl ▸ hf) hj hb hs hc port⟩⟩
  obtain ⟨u, k, y, hexec, hframe, hk, hothers, hy, hcommitted, hrows⟩ := allocationComplete_allocates (hl ▸ hf) hj hx hm
  have hfield {α : Type} (p : Exchange → α) (hp : ∀ z : Exchange, p z.sansRows = p z) : p y = p (allocatedExch s j x back) := by
    rw [← hp y, hrows, hp]
  cases back with
  | true => exact ⟨u, k, y, hexec, hframe, hk, hothers, hy, hcommitted, hfield (·.matrix) fun _ => rfl, hfield (·.sel) fun _ => rfl,
      fun _ => ⟨hfield (·.backAllocated) fun _ => rfl, hfield (·.quota) fun _ => rfl, hfield (·.flows) fun _ => rfl⟩, nofun⟩
  | false => exact ⟨u, k, y, hexec, hframe, hk, hothers, hy, hcommitted, hfield (·.matrix) fun _ => rfl, hfield (·.sel) fun _ => rfl, nofun,
      fun _ => ⟨hfield (·.allocated) fun _ => rfl, hfield (·.quota) fun _ => rfl, hfield (·.kept) fun _ => rfl,
        hfield (·.flows) fun _ => rfl, hfield (·.release) fun _ => rfl⟩⟩

end Sys2Proof.Machine
end

/-! # Messages and items that arrive or go on (O30)

R208, R235, R404, R405, R319. What is passed on touches only the message queue and the trace of transmissions; what a message does here
then starts from a state that agrees with the old one on all else. A command that arrives by FORWARD takes the pieces of its payload that
have come before it, which leaves of its flight all but the payload: `KeepsFlight`. -/
section
namespace Sys2Proof.Machine
open Sys2Proof

/-! ### Messages on their way (R37, R306) -/

theorem frame_emitMsg (s : State) (ports : List Nat) (m : Msg) : Frame [.queue, .sent] s (emitMsg s ports m) := by
  apply frame_of <;> simp

theorem frame_forwardTo (s : State) (d : Coord) (q k r p : Nat) (b : Coord) (x : Bytes) : Frame [.queue, .sent] s (forwardTo s d q k r p b x) :=
  frame_emitMsg s _ _

theorem frame_forwardPieces (s : State) (d : Coord) (q k r p : Nat) (b : Coord) (x : Bytes) :
    Frame [.queue, .sent] s (forwardPieces s d q k r p b x) := by
  apply frame_of <;> simp

/-- Only ABORT, STRETCH, COMMIT and BARRIER may leave at once; every other message joins the queue (R306). -/
theorem emitMsg_queued (s : State) (ports : List Nat) {m : Msg} (h : 4 < m.code) :
    emitMsg s ports m = { s with eng := { s.eng with queue := s.eng.queue ++ [(m, ports)] } } := by
  simp [emitMsg, Nat.not_le.2 h]

theorem emitMsg_goes_on (s : State) (ports : List Nat) {m : Msg} (h : 4 < m.code) :
    Frame [.queue] s (emitMsg s ports m) ∧ (emitMsg s ports m).eng.queue = s.eng.queue ++ [(m, ports)] := by
  rw [emitMsg_queued s ports h]
  refine ⟨?_, rfl⟩
  apply frame_of <;> simp [BeatEngine.sansQueue]

theorem Frame.fns {l : List Part} {s t : State} (h : Frame l s t) (hl : Part.fns ∉ l) : t.fns = s.fns := h .fns hl

theorem Frame.beat {l : List Part} {s t : State} (h : Frame l s t) (hl : Part.eng ∉ l) : t.eng.beat = s.eng.beat := by
  have heng : t.eng.sansQueue = s.eng.sansQueue := h .eng hl
  have hbeat := congrArg (fun e => e.beat) heng
  exact hbeat

/-! ### COUNTS (R208, R209, R235) -/

/-- The row of the count matrix that a COUNTS message carries (Table 7.2). -/
def countsRow (m : Msg) : List Nat × List Nat :=
  ((List.range (rd m.body 6 2)).map (fun i => rd m.body (40 + 4 * i) 4), (List.range 8).map (fun i => rd m.body (8 + 4 * i) 4))

/-- The row of an origin put into the count matrix. -/
def enterCounts (o : Nat) (v : List Nat × List Nat) (x : Exchange) : Exchange :=
  { x with matrix := x.matrix.filter (fun r => !decide (r.1 = o)) ++ [(o, v)] }

theorem lookupD_filter_append {α : Type} (l : List (Nat × α)) (o : Nat) (v d : α) (e : Nat) :
    lookupD (l.filter (fun r => !decide (r.1 = o)) ++ [(o, v)]) e d = if e = o then v else lookupD l e d := by
  induction l with
  | nil => simp [lookupD, eq_comm]
  | cons y r ih =>
    obtain ⟨k, w⟩ := y
    by_cases hk : k = o
    · rw [List.filter_cons_of_neg (by simp [hk]), ih, lookupD]
      split
      · rfl
      · rw [if_neg (by omega)]
    · rw [List.filter_cons_of_pos (by simp [hk]), List.cons_append, lookupD, ih, lookupD]
      by_cases he : k = e
      · rw [if_pos he, if_neg (by omega), if_pos he]
      · rw [if_neg he, if_neg he]

theorem lookupD_enterCounts (o : Nat) (v d : List Nat × List Nat) (x : Exchange) (e : Nat) :
    lookupD (enterCounts o v x).matrix e d = if e = o then v else lookupD x.matrix e d := lookupD_filter_append _ o v d e

/-- A COUNTS message on its way over some ports, at once in the message phase in which it comes (R209). -/
def passCounts (s : State) (ports : List Nat) (m : Msg) : State :=
  if ports.isEmpty then s
  else if s.eng.phase = .message then { s with fab := { s.fab with sent := s.fab.sent ++ ports.map fun q => Sent.msg q m } }
  else emitMsg s ports m

theorem frame_passCounts (s : State) (ports : List Nat) (m : Msg) : Frame [.queue, .sent] s (passCounts s ports m) := by
  unfold passCounts
  split
  · exact frame_refl _ s
  · split
    · apply frame_of <;> simp [Fabric.sansSent]
    · exact frame_emitMsg s ports m

/-- A COUNTS message goes on, and is then taken here (R209). -/
theorem exec_counts {s : State} {f : Nat} {m : Msg} {j : Job} (hm : m.sub = f + 1) (hj : jobAt s f = some j) (p : Nat) :
    ∃ ports, exec (.counts p m) s = .next (takeCounts (passCounts s ports m) f m) := by
  have hf : msgFn m = f := by simp [msgFn, hm]
  change ∃ ports, Host.Outcome.next (countsArrive s p m) = _
  rw [countsArrive, hf, hj]
  exact ⟨_, rfl⟩

theorem setJob_setJob (s : State) (f : Nat) (g h : Job → Job) : setJob (setJob s f g) f h = setJob s f fun j => h (g j) := by
  have hfns : ∀ l : List FnSt, updNth (updNth l f fun x => { x with job := x.job.map g }) f (fun x => { x with job := x.job.map h }) =
      updNth l f fun x => { x with job := x.job.map fun j => h (g j) } := by
    intro l
    induction l generalizing f with
    | nil => rfl
    | cons x r ih => cases f <;> simp [updNth, ih, Function.comp_def]
  simp only [setJob, setFn, hfns]

/-- The job with the arrival of a COUNTS message (R61). -/
def noteCounts (m : Msg) (step beat : Nat) (j : Job) : Job :=
  { j with arrivals := j.arrivals ++ [(.counts (rd m.body 0 2) (rd m.body 2 2) m.origin, step, beat)] }

/-- R235: a message of another epoch only counts as stale. -/
theorem takeCounts_stale {s : State} {f : Nat} {m : Msg} {j : Job} (hj : jobAt s f = some j)
    (he : rd m.body 4 2 ≠ epochOf j (rd m.body 2 2)) :
    takeCounts s f m = setJob s f fun i => bumpExch i (rd m.body 0 2) fun e => { e with stale := sat32 (e.stale + 1) } := by
  simp only [takeCounts, hj, he, ne_eq, not_false_eq_true, if_true]
  rfl

/-- R208: the row enters the matrix of its exchange. -/
theorem takeCounts_entered {s : State} {f : Nat} {m : Msg} {j : Job} {x : Exchange} (hj : jobAt s f = some j)
    (he : rd m.body 4 2 = epochOf j (rd m.body 2 2)) (hx : exchAt j (rd m.body 0 2) (rd m.body 2 2) = some x) :
    takeCounts s f m = setJob s f fun i =>
      setExch (noteCounts m x.step s.eng.beat i) (rd m.body 0 2) (rd m.body 2 2) (enterCounts m.origin.e (countsRow m)) := by
  simp only [takeCounts, hj, he, hx, ne_eq, not_true_eq_false, if_false]
  exact setJob_setJob s f _ _

/-- The job with an exchange that its first COUNTS message opens. -/
def openByCounts (m : Msg) (step beat : Nat) (j : Job) : Job :=
  { noteCounts m step beat j with
    exchanges := enterCounts m.origin.e (countsRow m) (newExchange step (rd m.body 0 2) (rd m.body 2 2) [] []) :: j.exchanges }

/-- R208: the first row for a layer and micro-batch opens their exchange. -/
theorem takeCounts_opened {s : State} {f : Nat} {m : Msg} {j : Job} (hj : jobAt s f = some j)
    (he : rd m.body 4 2 = epochOf j (rd m.body 2 2)) (hx : exchAt j (rd m.body 0 2) (rd m.body 2 2) = none) :
    ∃ step, takeCounts s f m = setJob s f (openByCounts m step s.eng.beat) := by
  simp only [takeCounts, hj, he, hx, ne_eq, not_true_eq_false, if_false]
  exact ⟨_, setJob_setJob s f _ _⟩

theorem exchAt_openByCounts (m : Msg) (step beat : Nat) (j : Job) :
    exchAt (openByCounts m step beat j) (rd m.body 0 2) (rd m.body 2 2) =
      some (enterCounts m.origin.e (countsRow m) (newExchange step (rd m.body 0 2) (rd m.body 2 2) [] [])) := by
  simp [exchAt, openByCounts, enterCounts, newExchange]

/-- A COUNTS message changes function f's job, as taking it does, and what is on its way. -/
theorem counts_served {s : State} {f : Nat} {m : Msg} {j : Job} {P : Job → Prop} (hf : f < s.fns.length) (hm : m.sub = f + 1)
    (hj : jobAt s f = some j) (p : Nat)
    (h : ∀ u, jobAt u f = some j → u.eng.beat = s.eng.beat →
      ∃ g : Job → Job, takeCounts u f m = setJob u f g ∧ (g j).committed = j.committed ∧ P (g j)) :
    ∃ t k, exec (.counts p m) s = .next t ∧ jobAt t f = some k ∧ Frame [.fns, .queue, .sent] s t ∧ (∀ g, g ≠ f → fnAt t g = fnAt s g) ∧
      k.committed = j.committed ∧ P k := by
  obtain ⟨ports, hexec⟩ := exec_counts hm hj p
  have hpass := frame_passCounts s ports m
  have hfns := hpass.fns (by simp)
  have hju : jobAt (passCounts s ports m) f = some j := by simpa [jobAt, fnAt, hfns] using hj
  obtain ⟨g, htake, hcommitted, hP⟩ := h _ hju (hpass.beat (by simp))
  rw [htake] at hexec
  refine ⟨_, g j, hexec, jobAt_setJob_of (by rwa [hfns]) hju g, ?_, fun n hn => ?_, hcommitted, hP⟩
  · exact frame_trans (frame_mono hpass (by simp)) (frame_mono (frame_setJob _ f g) (by simp))
  · rw [fnAt_setJob_ne _ g hn, fnAt, fnAt, hfns]

/-! ### EVENT (R404) -/

theorem unlessHeld_of_up {s : State} (h : cpDown s 0 = false) {code : Nat} (hc : code = 7 ∨ code = 8) (p : Nat) (m : Msg) (t : State) :
    unlessHeld s code p m t = t := by
  rcases hc with rfl | rfl <;> simp [unlessHeld, messageHeld, h]

theorem exec_event {s : State} (h : cpDown s 0 = false) (p : Nat) (m : Msg) : exec (.event p m) s = .next (takeEvent s p m) :=
  congrArg Host.Outcome.next (unlessHeld_of_up h (.inl rfl) p m _)

theorem exec_forward {s : State} (h : cpDown s 0 = false) (p : Nat) (m : Msg) : exec (.forward p m) s = .next (takeForward s p m) :=
  congrArg Host.Outcome.next (unlessHeld_of_up h (.inr rfl) p m _)

/-- R404: a record that has come round to its origin is dropped. -/
theorem takeEvent_own {s : State} {m : Msg} (hb : s.fab.bridge = false) (ho : m.origin = selfPhys s) (p : Nat) : takeEvent s p m = s := by
  simp [takeEvent, hb, ho]

/-- A record that tells of no lost port and no lost device is only handed on (R309, R358). -/
theorem learnEvent_of_other {m : Msg} (hp : m.sub / 256 ≠ 0x0402) (hd : m.sub / 256 ≠ 0x0601) (s : State) : learnEvent s m = s := by
  simp [learnEvent, hp, hd]

theorem takeEvent_bridge {s : State} {m : Msg} (hb : s.fab.bridge = true) (hp : m.sub / 256 ≠ 0x0402) (hd : m.sub / 256 ≠ 0x0601) (p : Nat) :
    takeEvent s p m = eventAtBridge s (fit 64 (msgBytes m)) := by
  simp [takeEvent, hb, learnEvent_of_other hp hd]

theorem takeEvent_passes {s : State} {m : Msg} (hb : s.fab.bridge = false) (ho : m.origin ≠ selfPhys s) (hp : m.sub / 256 ≠ 0x0402)
    (hd : m.sub / 256 ≠ 0x0601) (p : Nat) : takeEvent s p m = emitMsg s (eventPorts s p) m := by
  simp [takeEvent, hb, ho, learnEvent_of_other hp hd]

theorem frame_eventAtBridge (s : State) (r : Bytes) : Frame [.mbx] s (eventAtBridge s r) := by
  apply frame_of <;> simp

@[simp] theorem deliverEvent_held (s : State) (r : Bytes) : (deliverEvent s r).mbx.held = s.mbx.held := by
  unfold deliverEvent
  dsimp only
  (repeat' split) <;> rfl

@[simp] theorem eventAtBridge_flights (s : State) (r : Bytes) : (eventAtBridge s r).mbx.flights = s.mbx.flights := by
  unfold eventAtBridge
  split <;> simp

@[simp] theorem eventAtBridge_held (s : State) (r : Bytes) : (eventAtBridge s r).mbx.held = s.mbx.held := by
  unfold eventAtBridge
  split <;> simp

/-! ### FORWARD (R405, R408, R409) -/

/-- A flight without its payload and the count of payload bytes that have come. -/
def Flight.sansPayload (f : Flight) : Flight := { f with cmd := { f.cmd with payload := [] }, moved := 0 }

theorem flightOf_setFlight (s : State) (req : Nat) (g : Flight → Flight) (hg : ∀ f, (g f).cmd.req = f.cmd.req) :
    flightOf (setFlight s req g) req = (flightOf s req).map g := by
  have hreq : ∀ f : Flight, (if f.cmd.req = req then g f else f).cmd.req = f.cmd.req := fun f => by split <;> simp [hg]
  unfold flightOf setFlight
  simp only [List.find?_map, Function.comp_def, hreq]
  cases h : s.mbx.flights.find? fun f => decide (f.cmd.req = req) with
  | none => rfl
  | some f =>
    have hreq : f.cmd.req = req := by simpa using List.find?_some h
    simp [hreq]

/-- At most the mailbox and what is on its way change, and of a command's flight the payload only. -/
structure KeepsFlight (req : Nat) (s t : State) : Prop where
  frame : Frame [.mbx, .queue, .sent] s t
  flight : (flightOf t req).map Flight.sansPayload = (flightOf s req).map Flight.sansPayload

namespace KeepsFlight
variable {req : Nat} {s t u : State}

theorem refl (req : Nat) (s : State) : KeepsFlight req s s := ⟨frame_refl _ s, rfl⟩

theorem trans (h : KeepsFlight req s t) (k : KeepsFlight req t u) : KeepsFlight req s u :=
  ⟨frame_trans h.frame k.frame, k.flight.trans h.flight⟩

theorem foldl {α : Type} {g : State → α → State} (h : ∀ x s, KeepsFlight req s (g s x)) (l : List α) (s : State) :
    KeepsFlight req s (l.foldl g s) := by
  induction l generalizing s with
  | nil => exact refl req s
  | cons x r ih => exact (h x s).trans (ih _)

/-- What leaves the mailbox alone. -/
theorem of_frame (h : Frame [.queue, .sent] s t) : KeepsFlight req s t := by
  have hmbx : t.mbx = s.mbx := h .mbx (by simp)
  exact ⟨frame_mono h (by simp), by simp [flightOf, hmbx]⟩

/-- What changes of the mailbox neither its flights nor anything outside it. -/
theorem of_mbx {b : Mailbox} (h : b.flights = s.mbx.flights) : KeepsFlight req s { s with mbx := b } := by
  refine ⟨?_, by simp [flightOf, h]⟩
  apply frame_of <;> simp

theorem setFlight {g : Flight → Flight} (h : ∀ f, (g f).sansPayload = f.sansPayload) : KeepsFlight req s (setFlight s req g) := by
  refine ⟨?_, ?_⟩
  · apply frame_of <;> simp
  · rw [flightOf_setFlight s req g fun f => by
      have hreq := congrArg (fun x => x.cmd.req) (h f)
      exact hreq]
    simp [Function.comp_def, h]

end KeepsFlight

theorem keeps_ackUp (s : State) (req : Nat) : KeepsFlight req s (ackUp s req) := by
  unfold ackUp
  split
  · split
    · exact .of_frame (frame_forwardTo _ _ _ _ _ _ _ _)
    · exact .refl req s
  · exact .refl req s

/-- A piece of a payload in its flight, and on its way to the targets below (R405, R408). -/
def joinPiece (s : State) (f : Flight) (piece : Nat) (data : Bytes) : State :=
  let t := setFlight s f.cmd.req fun g => { g with cmd := { g.cmd with payload := g.cmd.payload ++ data }, moved := f.moved + data.length }
  (fedHere s f).foldl (fun s k => forwardPieces s k f.cmd.req 1 f.cmd.ring piece (f.bridge.getD noCoord) data)
    { t with mbx := { t.mbx with pieces := t.mbx.pieces.filter fun x => !decide (x.1 = f.cmd.req ∧ x.2.1 = piece) } }

theorem keeps_joinPiece (s : State) (f : Flight) (piece : Nat) (data : Bytes) : KeepsFlight f.cmd.req s (joinPiece s f piece data) := by
  refine .trans ?_ (.foldl (fun k u => .of_frame (frame_forwardPieces _ _ _ _ _ _ _ _)) _ _)
  refine .trans (.setFlight ?_) (.of_mbx rfl)
  exact fun _ => rfl

theorem keeps_takeNext (s : State) (f : Flight) (piece : Nat) (data : Bytes) : KeepsFlight f.cmd.req s (takeNext s f piece data) := by
  have hjoined := keeps_joinPiece s f piece data
  unfold takeNext
  dsimp only
  split
  · split
    · exact hjoined.trans (keeps_ackUp _ _)
    · exact hjoined.trans (.of_mbx rfl)
  · exact hjoined

theorem keeps_takePieces (s : State) (req : Nat) : KeepsFlight req s (takePieces s req) := by
  refine KeepsFlight.foldl (fun _ u => ?_) _ s
  cases hf : flightOf u req with
  | none => exact .refl req u
  | some f =>
    have hreq : f.cmd.req = req := by simpa using List.find?_some hf
    dsimp only
    split
    · split
      · exact .refl req u
      · exact hreq ▸ keeps_takeNext u f _ _
    · exact .refl req u

/-- The flight that a descriptor opens (R405). -/
def forwardedFlight (req ring : Nat) (bridge : Coord) (beat : Nat) (data : Bytes) : Flight :=
  ⟨⟨req, ring, fit 64 data, []⟩, beat, .fetched, some bridge, [], false, 0⟩

/-- R405: a descriptor of a new command becomes a flight, as fetched in the message's beat. -/
theorem takeDescriptor_opens {s : State} {req : Nat} (h : flightOf s req = none) (ring : Nat) (bridge : Coord) (beat : Nat) (data : Bytes) :
    ∃ fl, Frame [.mbx, .queue, .sent] s (takeDescriptor s req ring bridge beat data) ∧
      flightOf (takeDescriptor s req ring bridge beat data) req = some fl ∧
      fl.sansPayload = forwardedFlight req ring bridge beat data := by
  have heq : takeDescriptor s req ring bridge beat data =
      takePieces { s with mbx := { s.mbx with flights := s.mbx.flights ++ [forwardedFlight req ring bridge beat data] } } req := by
    simp only [takeDescriptor, h]
    rfl
  have hopen : flightOf { s with mbx := { s.mbx with flights := s.mbx.flights ++ [forwardedFlight req ring bridge beat data] } } req =
      some (forwardedFlight req ring bridge beat data) := by
    have hnone : s.mbx.flights.find? (fun f => decide (f.cmd.req = req)) = none := h
    simp [flightOf, List.find?_append, hnone, forwardedFlight]
  obtain ⟨hframe, hflight⟩ := keeps_takePieces
    { s with mbx := { s.mbx with flights := s.mbx.flights ++ [forwardedFlight req ring bridge beat data] } } req
  rw [hopen, Option.map_some, Option.map_eq_some_iff] at hflight
  obtain ⟨fl, hfl, hside⟩ := hflight
  rw [heq]
  refine ⟨fl, frame_trans ?_ hframe, hfl, hside⟩
  apply frame_of <;> simp

/-- R405: a FORWARD message for another device goes on toward it. -/
theorem takeForward_passes {s : State} {m : Msg} (hm : m.code = 8) (h : forwardHere s m.sub = false) (p : Nat) :
    ∃ ports, Frame [.queue] s (takeForward s p m) ∧ (takeForward s p m).eng.queue = s.eng.queue ++ [(m, ports)] := by
  have heq : ∃ ports, takeForward s p m = emitMsg s ports m := by
    simp only [takeForward, h, Bool.not_false, if_true]
    exact ⟨_, rfl⟩
  obtain ⟨ports, heq⟩ := heq
  rw [heq]
  exact ⟨ports, emitMsg_goes_on s ports (by simp [hm])⟩

theorem takeForward_descriptor {s : State} {m : Msg} (h : forwardHere s m.sub = true) (hk : rd m.body 4 1 = 0) (p : Nat) :
    takeForward s p m = takeDescriptor s (rd m.body 0 4) (rd m.body 5 1) (coordOf m.body 12) m.beat (m.body.drop 16) := by
  simp only [takeForward, h, hk, Bool.not_true, Bool.false_eq_true, if_false, if_true]

/-! ### Data items (R319; log 107) -/

theorem frame_sendItem (s : State) (p : Nat) (d b : Bytes) : Frame [.sent] s (sendItem s p d b) := by
  apply frame_of <;> simp

/-- An item leaves on every port but the one of its arrival. -/
theorem sendItem_foldl (p : Nat) (d item : Bytes) (ports : List Nat) (s : State) :
    Frame [.sent] s (ports.foldl (fun s q => if q = p then s else sendItem s q d item) s) ∧
      (ports.foldl (fun s q => if q = p then s else sendItem s q d item) s).fab.sent =
        s.fab.sent ++ (ports.filter fun q => q ≠ p).map fun q => Sent.item q d item := by
  induction ports generalizing s with
  | nil => exact ⟨frame_refl _ s, by simp⟩
  | cons q r ih =>
    by_cases hq : q = p
    · simpa [hq] using ih s
    · obtain ⟨hframe, hsent⟩ := ih (sendItem s q d item)
      simp only [List.foldl_cons, hq, if_false]
      exact ⟨frame_trans (frame_sendItem s q d item) hframe, by rw [hsent]; simp [hq, sendItem]⟩

/-! ### The obligation -/

/-- Settles O30, message by message: COUNTS, EVENT, FORWARD, and data items. -/
theorem messagesTravel : Obligations.MessagesTravel := by
  refine ⟨fun s p f m j hl hf hm hj => counts_served (hl ▸ hf) hm hj p fun u hju hbeat => ?counts, fun s p m hup => ⟨fun hb ho => ?own,
    fun hp hd => ⟨fun hb => ?bridge, fun hb ho hm => ?passes⟩⟩, fun s p m hm hup => ⟨fun hh => ?forward, fun hh hk hfl => ?descriptor⟩,
    fun s p desc item hh => ?item⟩
  case counts =>
    by_cases he : rd m.body 4 2 = epochOf j (rd m.body 2 2)
    · cases hx : exchAt j (rd m.body 0 2) (rd m.body 2 2) with
      | some x =>
        refine ⟨_, takeCounts_entered hju he hx, rfl, absurd he, fun _ y hy => ?_, nofun⟩
        obtain rfl : x = y := by simpa using hy
        refine ⟨enterCounts m.origin.e (countsRow m) x, exchAt_setExch hx _ rfl rfl, ?_, ?_, fun e hne => ?_, by rw [hbeat]; rfl⟩
        · rw [lookupD_enterCounts, if_pos rfl]; rfl
        · rw [lookupD_enterCounts, if_pos rfl]; rfl
        · rw [lookupD_enterCounts, if_neg hne]
      | none =>
        obtain ⟨step, htake⟩ := takeCounts_opened hju he hx
        exact ⟨_, htake, rfl, absurd he, nofun, fun _ _ => ⟨_, exchAt_openByCounts m step _ j, rfl, rfl⟩⟩
    · exact ⟨_, takeCounts_stale hju he, rfl, fun _ => ⟨rfl, rfl⟩, fun h => absurd h he, fun h => absurd h he⟩
  case own => rw [exec_event hup, takeEvent_own hb ho]
  case bridge =>
    rw [exec_event hup, takeEvent_bridge hb hp hd]
    exact ⟨_, rfl, frame_eventAtBridge s _, eventAtBridge_flights s _, eventAtBridge_held s _⟩
  case passes =>
    rw [exec_event hup, takeEvent_passes hb ho hp hd]
    exact ⟨_, rfl, emitMsg_goes_on s _ (by simp [hm])⟩
  case forward =>
    obtain ⟨ports, hgoes⟩ := takeForward_passes hm hh p
    exact ⟨_, ports, exec_forward hup p m, hgoes⟩
  case descriptor =>
    obtain ⟨fl, hframe, hflight, hside⟩ := takeDescriptor_opens hfl (rd m.body 5 1) (coordOf m.body 12) m.beat (m.body.drop 16)
    have hfield {α : Type} (q : Flight → α) (hq : ∀ g : Flight, q g.sansPayload = q g) :
        q fl = q (forwardedFlight (rd m.body 0 4) (rd m.body 5 1) (coordOf m.body 12) m.beat (m.body.drop 16)) := by rw [← hq fl, hside]
    refine ⟨_, fl, exec_forward hup p m, ?_⟩
    rw [takeForward_descriptor hh hk]
    exact ⟨hframe, hflight, hfield (·.fetchBeat) fun _ => rfl, hfield (·.cmd.ring) fun _ => rfl, hfield (·.cmd.desc) fun _ => rfl,
      hfield (·.bridge) fun _ => rfl, hfield (·.phase) fun _ => rfl⟩
  case item =>
    refine ⟨_, rfl, ?_⟩
    simp only [takeItem, hh, Bool.not_false, if_true]
    exact sendItem_foldl p _ item _ s

end Sys2Proof.Machine
end

/-! # STEP.ABORT, STEP.STATUS and BATCH.CANCEL (O39)

R430, R431, R239, R281, R236. An ABORT floods first and is then felt here: `abortSent` is the state after the flood, from which a stop
abandons the step and ends the run, and which stays as it is where the run has not begun a step. -/
section
namespace Sys2Proof.Machine
open Sys2Proof

/-! ### Commands on a function's job (R391, R414) -/

theorem lt_length_of_jobAt {s : State} {f : Nat} {j : Job} (h : jobAt s f = some j) : f < s.fns.length := by
  by_cases hf : f < s.fns.length
  · exact hf
  · simp [jobAt, fnAt, hf, FnSt.init] at h

theorem jobAt_of_fns {s t : State} (h : t.fns = s.fns) (f : Nat) : jobAt t f = jobAt s f := by simp [jobAt, fnAt, h]

theorem setJob_fns_congr {s t : State} (h : t.fns = s.fns) (f : Nat) (g : Job → Job) : (setJob t f g).fns = (setJob s f g).fns := by
  simp [setJob, setFn, h]

theorem fnAt_of_fns {s t : State} (h : t.fns = s.fns) (f : Nat) : fnAt t f = fnAt s f := by simp [fnAt, h]

/-- A function in the running state has a run (Table 13.2). -/
theorem run_isSome_of_running {s : State} {f : Nat} {j : Job} (h : fnState s f = 4) (hj : jobAt s f = some j) : j.run.isSome = true := by
  have hjob : (fnAt s f).job = some j := hj
  simp only [fnState, hjob] at h
  cases hr : j.run.isSome with
  | true => rfl
  | false =>
    simp only [hr, Bool.false_eq_true, if_false] at h
    (repeat' split at h) <;> exact absurd h (by decide)

theorem needState_of {s : State} {c : Cmd} {ok : List Nat} (h : fnState s (cIx c) ∈ ok) (body : State) : needState s c ok body = body := by
  simp [needState, h]

theorem withJob_of {s : State} {c : Cmd} {j : Job} (h : jobAt s (cIx c) = some j) (body : Job → State) : withJob s c body = body j := by
  simp [withJob, h]

theorem frame_begun (s : State) (c : Cmd) : Frame [.mbx] s (begun s c) := by
  apply frame_of <;> simp [begun]

/-! ### The flood of an ABORT (R308, R430) -/

/-- The job with a command that waits for the ABORT of the running step. -/
def awaitAbort (req beat : Nat) (j : Job) : Job := { j with aborting := j.aborting ++ [(req, beat, j.committed.step)] }

/-- The command waits for the ABORT that it sends, which its origin has seen (R39, R430). -/
def abortSent (s : State) (c : Cmd) (j : Job) (reason : Nat) : State :=
  let s1 := setJob (begun s c) (cIx c) (awaitAbort c.req s.eng.beat)
  let s2 := sendMsg s1 (intactPorts s1) 1 (cIx c) (abortBody j reason)
  { s2 with eng := { s2.eng with abortsSeen := (originOf s (cIx c), s.eng.beat) :: s2.eng.abortsSeen } }

theorem frame_abortSent (s : State) (c : Cmd) (j : Job) (reason : Nat) : Frame [.fns, .mbx, .eng, .queue, .sent] s (abortSent s c j reason) := by
  apply frame_of <;> simp [abortSent, begun]

theorem abortSent_fns (s : State) (c : Cmd) (j : Job) (reason : Nat) :
    (abortSent s c j reason).fns = (setJob s (cIx c) (awaitAbort c.req s.eng.beat)).fns := sendMsg_fns _ _ _ _ _

theorem abortSent_beat (s : State) (c : Cmd) (j : Job) (reason : Nat) : (abortSent s c j reason).eng.beat = s.eng.beat :=
  sendMsg_beat _ _ _ _ _

theorem abortSent_seen (s : State) (c : Cmd) (j : Job) (reason : Nat) :
    (originOf s (cIx c), s.eng.beat) ∈ (abortSent s c j reason).eng.abortsSeen := List.mem_cons_self

/-! ### A step abandoned by a stop (R274, R430) -/

theorem reverseCommit_of_none {j : Job} (h : j.commit = none) (origin : Nat) : reverseCommit j origin = j := by simp [reverseCommit, h]

/-- A reversal takes back neither the run nor the commands that wait for an ABORT (R273). -/
theorem reverseCommit_keeps (j : Job) (origin : Nat) :
    (reverseCommit j origin).run = j.run ∧ (reverseCommit j origin).aborting = j.aborting := by
  unfold reverseCommit
  dsimp only
  (repeat' split) <;> exact ⟨rfl, rfl⟩

theorem dropStop_keeps (j : Job) : (dropStop j).run = j.run ∧ (dropStop j).aborting = j.aborting ∧ (dropStop j).committed = j.committed := by
  unfold dropStop
  split <;> exact ⟨rfl, rfl, rfl⟩

/-- The job whose step is abandoned and whose run ends: nothing of the step is left, no anchor and no recovery. -/
def stoppedJob (reason origin : Nat) (restore : Bool) (j : Job) : Job :=
  let k := bumpAttempt (clearStepWork (dropStop (reverseCommit j origin)))
  { k with anchor := none, causes := reason :: k.causes, abortOrigin := some origin, recovery := .none,
           restoredOnce := k.restoredOnce || restore }

theorem stoppedJob_keeps (reason origin : Nat) (restore : Bool) (j : Job) :
    (stoppedJob reason origin restore j).run = j.run ∧ (stoppedJob reason origin restore j).aborting = j.aborting ∧
      (stoppedJob reason origin restore j).committed = (reverseCommit j origin).committed := by
  obtain ⟨hrun, haborting⟩ := reverseCommit_keeps j origin
  obtain ⟨drun, daborting, dcommitted⟩ := dropStop_keeps (reverseCommit j origin)
  rw [← hrun, ← haborting, ← drun, ← daborting, ← dcommitted, stoppedJob]
  generalize dropStop (reverseCommit j origin) = k
  exact ⟨rfl, rfl, rfl⟩

theorem finishRun_of_run {s : State} {f : Nat} {j : Job} (hj : jobAt s f = some j) (hr : j.run.isSome = true) (status reason : Nat) :
    ∃ req r, finishRun s f status reason = answerReq (setJob s f fun j => { j with run := none }) req r := by
  obtain ⟨run, hrun⟩ := Option.isSome_iff_exists.1 hr
  simp only [finishRun, hj, hrun]
  exact ⟨_, _, rfl⟩

/-- A stop ends the run of its function, raises event 0x0101, and answers STEP.RUN; of the engine and the memory nothing changes. -/
theorem abandonStep_stop {s : State} {f : Nat} {j : Job} (hj : jobAt s f = some j) (hr : j.run.isSome = true) (reason origin : Nat) :
    ∃ restore, (abandonStep s f reason origin true).fns = (setJob s f fun i => { stoppedJob reason origin restore i with run := none }).fns ∧
      (abandonStep s f reason origin true).eng.sansQueue = s.eng.sansQueue ∧ (abandonStep s f reason origin true).st.mem = s.st.mem := by
  have hstop : ∃ restore detail, abandonStep s f reason origin true =
      finishRun (raiseFn (setJob (dropPartials s f) f (stoppedJob reason origin restore)) f 2 0x0101 0 detail 0) f 0 0 := by
    have hrun : j.run.isNone = false := by simpa using hr
    simp only [abandonStep, hj, hrun, Bool.false_eq_true, if_false, if_true]
    exact ⟨_, _, rfl⟩
  obtain ⟨restore, detail, hstop⟩ := hstop
  have hraised : (raiseFn (setJob (dropPartials s f) f (stoppedJob reason origin restore)) f 2 0x0101 0 detail 0).fns =
      (setJob s f (stoppedJob reason origin restore)).fns := raiseFn_fns _ _ _ _ _ _ _
  have hjob := (jobAt_of_fns hraised f).trans (jobAt_setJob_of (lt_length_of_jobAt hj) hj _)
  obtain ⟨req, r, hfinish⟩ := finishRun_of_run hjob (by rw [(stoppedJob_keeps reason origin restore j).1, hr]) 0 0
  rw [hstop, hfinish]
  refine ⟨restore, ?_, ?_, ?_⟩
  · rw [answerReq_fns, setJob_fns_congr hraised, setJob_setJob]
  · simp [dropPartials]
  · simp [dropPartials]

/-! ### STEP.ABORT (R430, R431) -/

theorem exec_stepAbort {s : State} {c : Cmd} (h : MayStart s c) : exec (.stepAbort c) s = .next (stepAbort s c) :=
  congrArg Host.Outcome.next (startCmd_of h _)

theorem stepAbort_refused {s : State} {c : Cmd} (hst : fnState s (cIx c) = 4) (h : 2 ≤ cArg c 32 1) :
    stepAbort s c = answer s c (replyRefused s c 4 32) := by
  rw [stepAbort, needState_of (by simp [hst])]
  simp [unlessRefused, Nat.not_lt.2 h]

/-- R430: the ABORT floods; with `stop`, or where a step runs, the step is abandoned here as well. -/
theorem stepAbort_of {s : State} {c : Cmd} {j : Job} (hst : fnState s (cIx c) = 4) (hj : jobAt s (cIx c) = some j) (h : cArg c 32 1 < 2) :
    stepAbort s c =
      let stop := decide (cArg c 32 1 = 1)
      let reason := if stop then stopReason else 0
      if stop || j.anchor.isSome then abandonStep (abortSent s c j reason) (cIx c) reason s.eng.beat stop else abortSent s c j reason := by
  rw [stepAbort, needState_of (by simp [hst]), withJob_of hj]
  simp only [unlessRefused, h, decide_true, if_true]
  rfl

/-- R430, R274: `stop` ends the run without a replay. -/
theorem stepAbort_stops {s : State} {c : Cmd} {j : Job} (hst : fnState s (cIx c) = 4) (hj : jobAt s (cIx c) = some j) (h : cArg c 32 1 = 1) :
    ∃ k, jobAt (stepAbort s c) (cIx c) = some k ∧ k.run = none ∧ k.anchor = none ∧ k.recovery = .none ∧
      k.aborting = j.aborting ++ [(c.req, s.eng.beat, j.committed.step)] ∧ k.accums = [] ∧ (j.commit = none → k.committed = j.committed) ∧
      (originOf s (cIx c), s.eng.beat) ∈ (stepAbort s c).eng.abortsSeen ∧ (stepAbort s c).eng.beat = s.eng.beat ∧
      (∀ a, memGet (stepAbort s c).st.mem a = memGet s.st.mem a) ∧ ∀ g, g ≠ cIx c → fnAt (stepAbort s c) g = fnAt s g := by
  have heq : stepAbort s c = abandonStep (abortSent s c j stopReason) (cIx c) stopReason s.eng.beat true := by
    rw [stepAbort_of hst hj (by simp [h])]
    simp [h]
  have hf := lt_length_of_jobAt hj
  have hsent : jobAt (abortSent s c j stopReason) (cIx c) = some (awaitAbort c.req s.eng.beat j) :=
    (jobAt_of_fns (abortSent_fns s c j stopReason) _).trans (jobAt_setJob_of hf hj _)
  have hrun : j.run.isSome = true := run_isSome_of_running hst hj
  obtain ⟨restore, hfns, heng, hmem⟩ := abandonStep_stop hsent hrun stopReason s.eng.beat
  obtain ⟨-, haborting, hcommitted⟩ := stoppedJob_keeps stopReason s.eng.beat restore (awaitAbort c.req s.eng.beat j)
  have hbeat := congrArg (fun e => e.beat) heng
  have hseen := congrArg (fun e => e.abortsSeen) heng
  rw [setJob_fns_congr (abortSent_fns s c j stopReason), setJob_setJob] at hfns
  rw [heq]
  refine ⟨_, (jobAt_of_fns hfns _).trans (jobAt_setJob_of hf hj _), rfl, rfl, rfl, haborting, rfl, fun hc => ?_, ?_,
    hbeat.trans (abortSent_beat s c j stopReason), fun a => ?_, fun g hg => ?_⟩
  · exact hcommitted.trans (congrArg (fun i => i.committed) (reverseCommit_of_none (j := awaitAbort c.req s.eng.beat j) hc _))
  · exact hseen ▸ abortSent_seen s c j stopReason
  · rw [hmem]
    exact frame_abortSent s c j stopReason .mem (by simp) a
  · rw [fnAt_of_fns hfns, fnAt_setJob_ne s _ hg]

/-- R430, R431: where the run has not begun a step, the command only waits for its ABORT. -/
theorem stepAbort_waits {s : State} {c : Cmd} {j : Job} (hst : fnState s (cIx c) = 4) (hj : jobAt s (cIx c) = some j) (h : cArg c 32 1 = 0)
    (ha : j.anchor = none) : stepAbort s c = abortSent s c j 0 := by
  rw [stepAbort_of hst hj (by simp [h])]
  simp [h, ha]

/-! ### STEP.STATUS (R239, R281, R430) -/

theorem exec_stepStatus {s : State} {c : Cmd} (h : MayStart s c) : exec (.stepStatus c) s = .next (stepStatus s c) :=
  congrArg Host.Outcome.next (startCmd_of h _)

/-- The record that STEP.STATUS asks for: all ones asks for the newest one (R430). -/
def wantedStats (j : Job) (want : Nat) : Option StepStats :=
  if want = 2 ^ 64 - 1 then j.history.head? else j.history.find? fun x => decide (x.step = want)

/-- R430: FAILED once the job has stopped, else the record asked for or its absence. -/
theorem stepStatus_of {s : State} {c : Cmd} {j : Job} (hst : fnState s (cIx c) = 2 ∨ fnState s (cIx c) = 3 ∨ fnState s (cIx c) = 4)
    (hj : jobAt s (cIx c) = some j) : stepStatus s c =
      if j.stopped then answer s c (replyFailed 0 [])
      else match wantedStats j (cArg c 32 8) with
        | some x => answer s c (replyRes (natLE 8 x.step) (statusBytes j x))
        | none => answer s c (replyAbsent 0 ⟨255, 255, 255, 255⟩ 255) := by
  rw [stepStatus, needState_of (by simpa using hst), withJob_of hj]
  rfl

theorem stepStatus_failed {s : State} {c : Cmd} {j : Job} (hst : fnState s (cIx c) = 2 ∨ fnState s (cIx c) = 3 ∨ fnState s (cIx c) = 4)
    (hj : jobAt s (cIx c) = some j) (h : j.stopped = true) : stepStatus s c = answer s c (replyFailed 0 []) := by
  simp [stepStatus_of hst hj, h]

theorem stepStatus_found {s : State} {c : Cmd} {j : Job} {x : StepStats}
    (hst : fnState s (cIx c) = 2 ∨ fnState s (cIx c) = 3 ∨ fnState s (cIx c) = 4) (hj : jobAt s (cIx c) = some j) (h : j.stopped = false)
    (hx : wantedStats j (cArg c 32 8) = some x) : stepStatus s c = answer s c (replyRes (natLE 8 x.step) (statusBytes j x)) := by
  simp [stepStatus_of hst hj, h, hx]

theorem stepStatus_absent {s : State} {c : Cmd} {j : Job} (hst : fnState s (cIx c) = 2 ∨ fnState s (cIx c) = 3 ∨ fnState s (cIx c) = 4)
    (hj : jobAt s (cIx c) = some j) (h : j.stopped = false) (hx : wantedStats j (cArg c 32 8) = none) :
    stepStatus s c = answer s c (replyAbsent 0 ⟨255, 255, 255, 255⟩ 255) := by
  simp [stepStatus_of hst hj, h, hx]

/-! ### BATCH.CANCEL (R236; log 134) -/

theorem exec_batchCancel {s : State} {c : Cmd} (h : MayStart s c) : exec (.batchCancel c) s = .next (batchCancel s c) :=
  congrArg Host.Outcome.next (startCmd_of h _)

/-- R236: the beat of effect lies A beats after the acceptance, which is the fetch. -/
theorem batchCancel_of {s : State} {c : Cmd} {j : Job} {p : Plan} {fl : Flight} (hst : fnState s (cIx c) = 4) (hj : jobAt s (cIx c) = some j)
    (hp : j.plan = some p) (hfl : flightOf s c.req = some fl) : batchCancel s c =
      unlessRefused s c (decide (cArg c 32 2 < p.microBatches)) 4 32 (
        unlessRefused s c (decide (j.hdr.kind ≠ 0) || !backwardBy j (cArg c 32 2) (fl.fetchBeat + announceDist s)) 2 0xFFFF (
          setJob (begun s c) (cIx c) fun i => { i with cancels := i.cancels ++ [(cArg c 32 2, fl.fetchBeat + announceDist s, c.req)] })) := by
  rw [batchCancel, needState_of (by simp [hst]), withJob_of hj, hp, hfl]

/-! ### The obligation -/

/-- Settles O39, command by command: STEP.ABORT, STEP.STATUS, BATCH.CANCEL. -/
theorem stepCommandsRun : Obligations.StepCommandsRun := by
  refine ⟨fun s c j hmay _ hst hj => ⟨fun h => ?refused, fun h => ?stops, fun h ha => ?waits⟩,
    fun s c j hmay hst hj => ⟨fun h => ?failed, fun x h hw hx => ?newest, fun x h hw hx => ?named, fun h hw hx => ?absent⟩,
    fun s c j p fl hmay _ hst hj hp hfl => ⟨fun h => ?unknown, fun h hk hb => ?planned, fun h hb => ?cancelled⟩⟩
  case refused => rw [exec_stepAbort hmay, stepAbort_refused hst h]
  case stops =>
    obtain ⟨k, hk⟩ := stepAbort_stops hst hj h
    exact ⟨_, k, exec_stepAbort hmay, hk⟩
  case waits =>
    rw [exec_stepAbort hmay, stepAbort_waits hst hj h ha]
    exact ⟨_, _, rfl, frame_abortSent s c j 0, (jobAt_of_fns (abortSent_fns s c j 0) _).trans (jobAt_setJob_of (lt_length_of_jobAt hj) hj _),
      rfl, rfl, rfl⟩
  case failed => rw [exec_stepStatus hmay, stepStatus_failed hst hj h]
  case newest => rw [exec_stepStatus hmay, stepStatus_found hst hj h (by rwa [wantedStats, if_pos hw])]
  case named =>
    have hstep : x.step = cArg c 32 8 := by simpa using List.find?_some hx
    rw [exec_stepStatus hmay, stepStatus_found hst hj h (by rwa [wantedStats, if_neg hw]), hstep]
  case absent =>
    rw [exec_stepStatus hmay, stepStatus_absent hst hj h (by rw [wantedStats, if_neg hw]; simpa using hx)]
  case unknown => rw [exec_batchCancel hmay, batchCancel_of hst hj hp hfl, unlessRefused, if_neg (by simpa using h)]
  case planned =>
    rw [exec_batchCancel hmay, batchCancel_of hst hj hp hfl]
    simp [unlessRefused, h, hk, hb]
  case cancelled =>
    rw [exec_batchCancel hmay, batchCancel_of hst hj hp hfl, unlessRefused, unlessRefused, if_pos (by simpa using h), if_pos (by simp [hb])]
    exact ⟨_, _, rfl, frame_trans (frame_mono (frame_begun s c) (by simp)) (frame_mono (frame_setJob _ _ _) (by simp)),
      jobAt_setJob_of (s := begun s c) (lt_length_of_jobAt hj) hj _, rfl, rfl, fun g hg => fnAt_setJob_ne (begun s c) _ hg⟩

end Sys2Proof.Machine
end

/-! # The loss scale after a commit (O33)

R51, R255, R272. A commit that brings neither a plan nor a policy into force replaces the job by `jobAfterCommit`, whose committed record is
`committedAfter`: the scale rule of `scaleAfter`, which the end of hold does not touch, and the bank and version, which a skip leaves alone. -/
section
namespace Sys2Proof.Machine
open Sys2Proof

/-! ### The rule (R255) -/

theorem scaleAfter_of_flag (j : Job) :
    scaleAfter j true = (if j.sigma = j.committed.lsExp then j.committed.lsExp - 1 else j.committed.lsExp, 0) := rfl

theorem scaleAfter_of_last_clean {j : Job} (h : j.hdr.cleanSteps ≤ j.committed.cleanRun + 1) :
    scaleAfter j false = (min 24 (j.committed.lsExp + 1), 0) := by
  simp [scaleAfter, h]

theorem scaleAfter_of_clean {j : Job} (h : j.committed.cleanRun + 1 < j.hdr.cleanSteps) :
    scaleAfter j false = (j.committed.lsExp, j.committed.cleanRun + 1) := by
  simp [scaleAfter, Nat.not_le.2 h]

/-! ### The committed record (R272, Table 8.8) -/

@[simp] theorem committedAfter_lsExp (j : Job) (skip : Bool) : (committedAfter j skip).lsExp = (scaleAfter j skip).1 := by
  cases skip <;> rfl

@[simp] theorem committedAfter_cleanRun (j : Job) (skip : Bool) : (committedAfter j skip).cleanRun = (scaleAfter j skip).2 := by
  cases skip <;> rfl

@[simp] theorem committedAfter_bank_of_skip (j : Job) : (committedAfter j true).bank = j.committed.bank := rfl

@[simp] theorem committedAfter_version_of_skip (j : Job) : (committedAfter j true).version = j.committed.version := rfl

/-! ### The end of hold (R51) -/

@[simp] theorem endHold_committed (s : State) (j : Job) : (endHold s j).committed = j.committed := by
  unfold endHold
  split <;> rfl

@[simp] theorem endHold_hdr (s : State) (j : Job) : (endHold s j).hdr = j.hdr := by
  unfold endHold
  split <;> rfl

@[simp] theorem endHold_sigma (s : State) (j : Job) : (endHold s j).sigma = j.sigma := by
  unfold endHold
  split <;> rfl

@[simp] theorem scaleAfter_endHold (s : State) (j : Job) (flag : Bool) : scaleAfter (endHold s j) flag = scaleAfter j flag := by
  simp [scaleAfter]

/-! ### The commit beat (R272) -/

/-- The job after a commit without a plan switch: its step is committed, and a stop that falls due is asked for after the quiet window
(R272, R365, R367). -/
def jobAfterCommit (s : State) (j : Job) (ci : CommitInfo) : Job :=
  let k := commitJob (endHold s j) ci
  let want := match k.stopWanted with | some q => some q | none => if stopDue s k then some none else none
  { k with stopWanted := want, stopFrom := if want.isSome then some (ci.beat + quietWindow s + 1) else none }

theorem jobAfterCommit_committed (s : State) (j : Job) (ci : CommitInfo) :
    (jobAfterCommit s j ci).committed = committedAfter (endHold s j) ci.skip := rfl

@[simp] theorem markStep_fns (s : State) : (markStep s).fns = s.fns := rfl

/-- A commit whose beat has come commits the job's step and ends the counters of the step (R272, Table 15.5). -/
theorem exec_commitBeat_of_due {s : State} {f : Nat} {j : Job} {ci : CommitInfo} (hj : jobAt s f = some j) (hci : j.commit = some ci)
    (happ : ci.applied = false) (hbeat : ci.beat ≤ s.eng.beat) (hanchor : j.anchor ≠ none) (hswitch : ci.planSwitch = false)
    (hpolicy : j.policyNext = none) :
    exec (.commitBeat f) s = .next (markStep (setJob s f fun _ => jobAfterCommit s j ci)) := by
  change execCommitBeat f s = _
  have hset : j.anchor.isNone = false := by simpa [Option.isSome_iff_ne_none] using hanchor
  have hdue : ¬ (ci.applied || decide (s.eng.beat < ci.beat) || j.anchor.isNone) = true := by simp [happ, hbeat, hset]
  simp only [execCommitBeat, commitBeat, hj, hci, if_neg hdue, hswitch, hpolicy, Bool.false_eq_true, Bool.not_false,
    if_false, if_true]
  rfl

theorem jobAt_markStep_setJob {s : State} {f : Nat} {j : Job} (hj : jobAt s f = some j) (k : Job) :
    jobAt (markStep (setJob s f fun _ => k)) f = some k :=
  (jobAt_of_fns (markStep_fns _) f).trans (jobAt_setJob_of (lt_length_of_jobAt hj) hj _)

/-! ### The obligation -/

/-- Settles O33: the committed record of `jobAfterCommit`, by the branches of the scale rule. -/
theorem lossScaleFollowsRule : Obligations.LossScaleFollowsRule := by
  intro s f j ci _ _ hj hci happ hbeat hanchor hswitch hpolicy
  refine ⟨_, _, exec_commitBeat_of_due hj hci happ hbeat hanchor hswitch hpolicy, jobAt_markStep_setJob hj _,
    fun hskip => ?skipped, fun hskip hlast => ?raised, fun hskip hfew => ?counted⟩ <;> rw [jobAfterCommit_committed, hskip]
  case skipped => simp [scaleAfter_of_flag]
  case raised => simp [scaleAfter_of_last_clean hlast]
  case counted => simp [scaleAfter_of_clean hfew]

end Sys2Proof.Machine
end

/-! # The SNAP commands (O40)

R361, R362, R367, R375 to R377, R432, R433, R481. A command that is served changes its function's job by one `setJob`, and where a restore
reads level 2 the flash controller's domain with it; SNAP.LIST, and a command that is refused, busy or failed, only answers. -/
section
namespace Sys2Proof.Machine
open Sys2Proof

/-! ### The state of a function and its run (Table 13.2) -/

/-- A function that is loaded or ready runs nothing (Table 13.2). -/
theorem run_eq_none_of_rest {s : State} {f : Nat} {j : Job} (h : fnState s f = 2 ∨ fnState s f = 3) (hj : jobAt s f = some j) :
    j.run = none := by
  have hjob : (fnAt s f).job = some j := hj
  cases hr : j.run with
  | none => rfl
  | some r =>
    simp only [fnState, hjob, hr, Option.isSome_some, if_true] at h
    (repeat' split at h) <;> rcases h with h | h <;> exact absurd h (by decide)

/-- An enabled function holds no job (Table 13.2). -/
theorem job_eq_none_of_enabled {s : State} {f : Nat} (h : fnState s f = 1) : (fnAt s f).job = none := by
  cases hj : (fnAt s f).job with
  | none => rfl
  | some j =>
    simp only [fnState, hj] at h
    (repeat' split at h) <;> exact absurd h (by decide)

theorem unlessRefused_of {ok : Bool} (h : ok = true) (s : State) (c : Cmd) (reason off : Nat) (body : State) :
    unlessRefused s c ok reason off body = body := by simp [unlessRefused, h]

theorem unlessRefused_of_not {ok : Bool} (h : ok = false) (s : State) (c : Cmd) (reason off : Nat) (body : State) :
    unlessRefused s c ok reason off body = answer s c (replyRefused s c reason off) := by simp [unlessRefused, h]

/-! ### SNAP.TAKE (R367, R432; log 129) -/

theorem exec_snapTake {s : State} {c : Cmd} (h : MayStart s c) : exec (.snapTake c) s = .next (snapTake s c) :=
  congrArg Host.Outcome.next (startCmd_of h _)

theorem takeAnnounce_of_rest {j : Job} (h : j.run = none) (s : State) :
    takeAnnounce s j = (j.committed.step, some (s.eng.beat + announceDist s), s.eng.beat + announceDist s) := by
  simp [takeAnnounce, h]

/-- Behind a commit that is not applied yet, the commit itself fixes the beat (R367). -/
theorem takeAnnounce_of_open {j : Job} {ci : CommitInfo} (hr : j.run.isSome = true) (hci : j.commit = some ci) (happ : ci.applied = false)
    (s : State) : takeAnnounce s j = (j.committed.step + 1, none, ci.beat + quietWindow s + 1) := by
  obtain ⟨r, hr⟩ := Option.isSome_iff_exists.1 hr
  simp [takeAnnounce, hr, hci, happ]

/-- A job with a stop that SNAP.TAKE has asked for, from a beat unless a commit fixes it (R367). -/
def askStop (req : Nat) (beat : Option Nat) (j : Job) : Job :=
  { j with stopWanted := some (some req), stopFrom := if j.stopFrom.isSome then j.stopFrom else beat }

theorem askStop_stopFrom {j : Job} (h : j.stopFrom = none) (req : Nat) (beat : Option Nat) : (askStop req beat j).stopFrom = beat := by
  simp [askStop, h]

theorem snapTake_announces {s : State} {c : Cmd} {j : Job} (hst : fnState s (cIx c) = 3 ∨ fnState s (cIx c) = 4)
    (hj : jobAt s (cIx c) = some j) (hr : j.restoring = none) (hw : ∀ q, j.stopWanted ≠ some (some q)) :
    snapTake s c = answer (setJob s (cIx c) (askStop c.req (takeAnnounce s j).2.1)) c
      (replyAccepted (natLE 8 (takeAnnounce s j).1 ++ natLE 8 (takeAnnounce s j).2.2)) := by
  rw [snapTake, needState_of (by simpa using hst), withJob_of hj]
  simp only [hr, Option.isSome_none, Bool.false_eq_true, if_false]
  rfl

/-- A SNAP.TAKE behind another one waits (R367). -/
theorem snapTake_waits {s : State} {c : Cmd} {j : Job} {q : Nat} (hst : fnState s (cIx c) = 3 ∨ fnState s (cIx c) = 4)
    (hj : jobAt s (cIx c) = some j) (hr : j.restoring = none) (hw : j.stopWanted = some (some q)) : snapTake s c = s := by
  rw [snapTake, needState_of (by simpa using hst), withJob_of hj]
  simp [hr, hw]

/-! ### SNAP.POLICY (R361, R362) -/

theorem exec_snapPolicy {s : State} {c : Cmd} (h : MayStart s c) : exec (.snapPolicy c) s = .next (snapPolicy s c) :=
  congrArg Host.Outcome.next (startCmd_of h _)

/-- The policy of the payload, clamped (R361). -/
def policyAsked (s : State) (c : Cmd) : Policy := policyOf (coordSize (mapLengths s)) (mapLengths s).d (fit 32 c.payload)

/-- What of it comes into force now: the first four fields wait for a JOB.PLAN where the job has a plan (R362). -/
def policyNow (s : State) (c : Cmd) (j : Job) : Policy := if j.plan.isNone then policyAsked s c else mergePolicy j.hdr.policy (policyAsked s c)

/-- The job with that policy in force. -/
def enforcePolicy (s : State) (c : Cmd) (now : Policy) (j : Job) : Job :=
  { j with hdr := { j.hdr with policy := now }, policyWanted := policyAsked s c }

theorem snapPolicy_of {s : State} {c : Cmd} {j : Job} (hst : fnState s (cIx c) = 2 ∨ fnState s (cIx c) = 3 ∨ fnState s (cIx c) = 4)
    (hj : jobAt s (cIx c) = some j) (hp : j.policyNext = none) : snapPolicy s c =
      if j.run.isNone ∨ policyNow s c j = j.hdr.policy then
        answer (setJob s (cIx c) (enforcePolicy s c (policyNow s c j))) c (policyReply (policyNow s c j))
      else
        answer (setJob s (cIx c) fun i => { i with policyNext := some (policyAsked s c, some c.req), policyWanted := policyAsked s c }) c
          (replyDeferred ((policyBytes (policyNow s c j)).take 4)) := by
  rw [snapPolicy, needState_of (by simpa using hst), withJob_of hj]
  simp only [hp, Option.isSome_none, Bool.false_eq_true, if_false]
  rfl

/-! ### SNAP.EXPORT (R432, R433; log 127) -/

theorem exec_snapExport {s : State} {c : Cmd} (h : MayStart s c) : exec (.snapExport c) s = .next (snapExport s c) :=
  congrArg Host.Outcome.next (startCmd_of h _)

theorem snapExport_of {s : State} {c : Cmd} {j : Job} (hst : fnState s (cIx c) = 3 ∨ fnState s (cIx c) = 4)
    (hj : jobAt s (cIx c) = some j) : snapExport s c =
      unlessRefused s c (decide (j.hdr.exportMode ≠ 0)) 4 48 (unlessRefused s c (decide (cArg c 48 1 < 2)) 4 48 (
        if j.exporting.isSome then answer s c (replyBusy 1)
        else
          answer (setJob s (cIx c) fun i =>
              { i with exporting := some ⟨c.req, cArg c 32 8, cArg c 40 8, cArg c 48 1, 0, 0, [], 0, 0, false⟩ })
            c (replyAccepted (natLE 8 (j.lastEnd.getD (2 ^ 64 - 1)) ++ zeros 8)))) := by
  rw [snapExport, needState_of (by simpa using hst), withJob_of hj]

/-- Without an export mode, or for an unknown format, the refusal names offset 48 (R432). -/
theorem snapExport_refused {s : State} {c : Cmd} {j : Job} (hst : fnState s (cIx c) = 3 ∨ fnState s (cIx c) = 4)
    (hj : jobAt s (cIx c) = some j) (h : j.hdr.exportMode = 0 ∨ 2 ≤ cArg c 48 1) :
    snapExport s c = answer s c (replyRefused s c 4 48) := by
  rw [snapExport_of hst hj]
  by_cases hm : j.hdr.exportMode = 0
  · exact unlessRefused_of_not (by simpa using hm) ..
  · rw [unlessRefused_of (by simpa using hm)]
    exact unlessRefused_of_not (decide_eq_false (Nat.not_lt.2 (h.resolve_left hm))) ..

theorem snapExport_served {s : State} {c : Cmd} {j : Job} (hst : fnState s (cIx c) = 3 ∨ fnState s (cIx c) = 4)
    (hj : jobAt s (cIx c) = some j) (hm : j.hdr.exportMode ≠ 0) (hf : cArg c 48 1 < 2) : snapExport s c =
      if j.exporting.isSome then answer s c (replyBusy 1)
      else
        answer (setJob s (cIx c) fun i =>
            { i with exporting := some ⟨c.req, cArg c 32 8, cArg c 40 8, cArg c 48 1, 0, 0, [], 0, 0, false⟩ })
          c (replyAccepted (natLE 8 (j.lastEnd.getD (2 ^ 64 - 1)) ++ zeros 8)) := by
  rw [snapExport_of hst hj, unlessRefused_of (by simpa using hm), unlessRefused_of (by simpa using hf)]

/-! ### SNAP.RESTORE (R376, R377, R481; log 128) -/

theorem exec_snapRestore {s : State} {c : Cmd} (h : MayStart s c) : exec (.snapRestore c) s = .next (snapRestore s c) :=
  congrArg Host.Outcome.next (startCmd_of h _)

theorem snapRestore_unverified {s : State} {c : Cmd} (h : fnState s (cIx c) = 2) :
    snapRestore s c = answer s c (replyRefused s c 5 0xFFFF) := by simp [snapRestore, h]

theorem snapRestore_busy {s : State} {c : Cmd} {j : Job} (hst : fnState s (cIx c) = 3) (hj : jobAt s (cIx c) = some j)
    (h : j.restoring ≠ none ∨ j.stopEnd ≠ none) : snapRestore s c = answer s c (replyBusy 1) := by
  have hb : (j.restoring.isSome || j.stopEnd.isSome) = true := by simpa [Option.isSome_iff_ne_none] using h
  rw [snapRestore, if_neg (by simp [hst]), needState_of (by simp [hst]), withJob_of hj, if_pos hb]

/-- Without a chrysalis that fits, nothing is restored (R376). -/
theorem snapRestore_failed {s : State} {c : Cmd} {j : Job} (hst : fnState s (cIx c) = 3) (hj : jobAt s (cIx c) = some j)
    (hr : j.restoring = none) (he : j.stopEnd = none) (hx : chooseRestore s (cIx c) (testDrives (fnAt s (cIx c)) j) c = none) :
    snapRestore s c = answer s c (replyFailed 0 []) := by
  simp [snapRestore, needState_of, withJob_of hj, hst, hr, he, hx]

/-- Where a restore of one chrysalis starts; level 2 needs the flash controller (Table 14.7). -/
def restoreStarts (s : State) (c : Cmd) (k : Job) (i lv : Nat) : State :=
  let s1 := setJob s (cIx c) fun _ => { k with restoring := some (some c.req, i, lv) }
  if lv = 4 then flashOn s1 else s1

theorem snapRestore_accepted {s : State} {c : Cmd} {j k : Job} {i lv : Nat} {x : Chrysalis} (hst : fnState s (cIx c) = 3)
    (hj : jobAt s (cIx c) = some j) (hr : j.restoring = none) (he : j.stopEnd = none)
    (hk : chooseRestore s (cIx c) (testDrives (fnAt s (cIx c)) j) c = some (k, i, lv)) (hx : k.chrysalises[i]? = some x) :
    snapRestore s c = answer (restoreStarts s c k i lv) c (replyAccepted (natLE 8 x.record.step ++ natLE 1 lv)) := by
  simp [snapRestore, needState_of, withJob_of hj, hst, hr, he, hk, hx, restoreStarts]

@[simp] theorem flashOn_fns (s : State) : (flashOn s).fns = s.fns := by
  unfold flashOn
  split <;> rfl

@[simp] theorem flashOn_st (s : State) : (flashOn s).st = s.st := by
  unfold flashOn
  split <;> rfl

theorem frame_flashOn (s : State) : Frame [.pow] s (flashOn s) := by
  unfold flashOn
  split
  · exact frame_refl _ s
  · apply frame_of <;> simp

theorem frame_restoreStarts (s : State) (c : Cmd) (k : Job) (i lv : Nat) : Frame [.fns, .pow] s (restoreStarts s c k i lv) := by
  have hset := frame_mono (k := [.fns, .pow]) (frame_setJob s (cIx c) fun _ => { k with restoring := some (some c.req, i, lv) }) (by simp)
  unfold restoreStarts
  dsimp only
  split
  · exact frame_trans hset (frame_mono (frame_flashOn _) (by simp))
  · exact hset

theorem jobAt_restoreStarts {s : State} {c : Cmd} {j : Job} (hj : jobAt s (cIx c) = some j) (k : Job) (i lv : Nat) :
    jobAt (restoreStarts s c k i lv) (cIx c) = some { k with restoring := some (some c.req, i, lv) } := by
  have hset := jobAt_setJob_of (lt_length_of_jobAt hj) hj fun _ => { k with restoring := some (some c.req, i, lv) }
  unfold restoreStarts
  dsimp only
  split
  · rw [jobAt_of_fns (flashOn_fns _), hset]
  · exact hset

/-! ### SNAP.LIST (R375, R480) -/

theorem exec_snapList {s : State} {c : Cmd} (h : MayStart s c) : exec (.snapList c) s = .next (snapList s c) :=
  congrArg Host.Outcome.next (startCmd_of h _)

theorem snapList_of_job {s : State} {c : Cmd} {j : Job} (hst : fnState s (cIx c) = 2 ∨ fnState s (cIx c) = 3 ∨ fnState s (cIx c) = 4)
    (hj : jobAt s (cIx c) = some j) : snapList s c =
      answer s c (replyRes (natLE 4 j.chrysalises.length) (j.chrysalises.map listEntry).flatten) := by
  have hjob : (fnAt s (cIx c)).job = some j := hj
  rw [snapList, needState_of (by rcases hst with h | h | h <;> simp [h])]
  simp [hjob]

theorem snapList_of_drives {s : State} {c : Cmd} (hst : fnState s (cIx c) = 1) : snapList s c =
    answer s c (replyRes (natLE 4 (fnAt s (cIx c)).drives.length) ((fnAt s (cIx c)).drives.map (driveEntry (fnAt s (cIx c)))).flatten) := by
  rw [snapList, needState_of (by simp [hst])]
  simp [job_eq_none_of_enabled hst]

/-! ### The obligation -/

/-- SNAP.POLICY at rest: the policy is in force at once (R362). -/
theorem snapPolicy_at_rest {s : State} {c : Cmd} {j : Job} (hst : fnState s (cIx c) = 2 ∨ fnState s (cIx c) = 3)
    (hj : jobAt s (cIx c) = some j) (hp : j.policyNext = none) :
    ∃ u k, snapPolicy s c = answer u c (policyReply k.hdr.policy) ∧ Frame [.fns] s u ∧ jobAt u (cIx c) = some k ∧
      (j.plan = none → k.hdr.policy = k.policyWanted) ∧ k.plan = j.plan ∧ k.policyWanted = policyAsked s c ∧ k.committed = j.committed := by
  rw [snapPolicy_of (by rcases hst with h | h <;> simp [h]) hj hp, if_pos (by simp [run_eq_none_of_rest hst hj])]
  exact ⟨_, enforcePolicy s c (policyNow s c j) j, rfl, frame_setJob _ _ _, jobAt_setJob_of (lt_length_of_jobAt hj) hj _,
    fun hplan => by simp [enforcePolicy, policyNow, hplan], rfl, rfl, rfl⟩

/-- SNAP.POLICY while a step runs: what differs from the policy in force waits for the next commit (R362). -/
theorem snapPolicy_running {s : State} {c : Cmd} {j : Job} (hst : fnState s (cIx c) = 4) (hj : jobAt s (cIx c) = some j)
    (hp : j.policyNext = none) :
    ∃ u k r, snapPolicy s c = answer u c r ∧ Frame [.fns] s u ∧ jobAt u (cIx c) = some k ∧ k.hdr.policy = j.hdr.policy ∧ k.run = j.run ∧
      (k.policyNext = some (k.policyWanted, some c.req) ∨ r = policyReply j.hdr.policy) := by
  rw [snapPolicy_of (by simp [hst]) hj hp]
  by_cases hsame : policyNow s c j = j.hdr.policy
  · rw [if_pos (.inr hsame)]
    exact ⟨_, _, _, rfl, frame_setJob _ _ _, jobAt_setJob_of (lt_length_of_jobAt hj) hj _, hsame, rfl, .inr (congrArg policyReply hsame)⟩
  · rw [if_neg (by simp [hsame, Option.isSome_iff_ne_none.1 (run_isSome_of_running hst hj)])]
    exact ⟨_, _, _, rfl, frame_setJob _ _ _, jobAt_setJob_of (lt_length_of_jobAt hj) hj _, rfl, rfl, .inl rfl⟩

/-- Settles O40, command by command: SNAP.TAKE, SNAP.POLICY, SNAP.EXPORT, SNAP.RESTORE, SNAP.LIST. -/
theorem snapCommandsRun : Obligations.SnapCommandsRun := by
  refine ⟨fun s c j hmay _ hst hj hr => ⟨fun h3 hw hf => ?rest, fun ci h4 hw hf hci happ => ?behind, fun q hw => ?waits⟩,
    fun s c j hmay _ hj hp => ⟨fun hst => ?now, fun hst => ?running⟩,
    fun s c j hmay _ hst hj => ⟨fun h => ?refused, fun hm hf hx => ?one, fun hm hf hx => ?exports⟩,
    fun s c hmay hst => ?unverified,
    fun s c j hmay _ hst hj => ⟨fun h => ?busy, fun hr he hx => ?failed, fun k i lv x hr he hk hx => ?accepted⟩,
    fun s c hmay => ⟨fun j hst hj => ?held, fun hst => ?drives⟩⟩
  case rest =>
    rw [exec_snapTake hmay, snapTake_announces hst hj hr hw, takeAnnounce_of_rest (run_eq_none_of_rest (.inr h3) hj)]
    exact ⟨_, _, rfl, frame_setJob _ _ _, jobAt_setJob_of (lt_length_of_jobAt hj) hj _, rfl, askStop_stopFrom hf _ _, rfl,
      fun g hg => fnAt_setJob_ne s _ hg⟩
  case behind =>
    rw [exec_snapTake hmay, snapTake_announces hst hj hr hw, takeAnnounce_of_open (run_isSome_of_running h4 hj) hci happ]
    exact ⟨_, _, rfl, frame_setJob _ _ _, jobAt_setJob_of (lt_length_of_jobAt hj) hj _, rfl, askStop_stopFrom hf _ _, rfl⟩
  case waits => rw [exec_snapTake hmay, snapTake_waits hst hj hr hw]
  case now =>
    obtain ⟨u, k, hans, hk⟩ := snapPolicy_at_rest hst hj hp
    exact ⟨u, k, by rw [exec_snapPolicy hmay, hans], hk⟩
  case running =>
    obtain ⟨u, k, r, hans, hk⟩ := snapPolicy_running hst hj hp
    exact ⟨u, k, r, by rw [exec_snapPolicy hmay, hans], hk⟩
  case refused => rw [exec_snapExport hmay, snapExport_refused hst hj h]
  case one => rw [exec_snapExport hmay, snapExport_served hst hj hm hf, if_pos (by simpa [Option.isSome_iff_ne_none] using hx)]
  case exports =>
    rw [exec_snapExport hmay, snapExport_served hst hj hm hf, if_neg (by simp [hx])]
    exact ⟨_, _, _, rfl, frame_setJob _ _ _, jobAt_setJob_of (lt_length_of_jobAt hj) hj _, rfl, rfl, rfl,
      fun g hg => fnAt_setJob_ne s _ hg⟩
  case unverified => rw [exec_snapRestore hmay, snapRestore_unverified hst]
  case busy => rw [exec_snapRestore hmay, snapRestore_busy hst hj h]
  case failed => rw [exec_snapRestore hmay, snapRestore_failed hst hj hr he hx]
  case accepted =>
    rw [exec_snapRestore hmay, snapRestore_accepted hst hj hr he hk hx]
    exact ⟨_, _, rfl, frame_restoreStarts s c k i lv, jobAt_restoreStarts hj k i lv, rfl, rfl⟩
  case held => rw [exec_snapList hmay, snapList_of_job hst hj]
  case drives => rw [exec_snapList hmay, snapList_of_drives hst]

end Sys2Proof.Machine
end

/-! # The life of a chrysalis (O41)

R365, R366, R369, R370, R376 to R378, R381, R481. Each event is one change of its function's job: `stopBegun`, `sealedJob`, `storedJob`,
`restoredJob` and `recoveredJob` are the jobs after the stop's begin, its end, the level-2 copy, a restore, and the transfers of a recovery.
A restore beside it writes the banks (`loadImage`), which leaves everything but the stores alone. -/
section
namespace Sys2Proof.Machine
open Sys2Proof

/-! ### The stop begins (R365, R372, R373) -/

/-- The chrysalis that a stop begins with: the committed step, without an image or a level yet (R366, Table 11.8). -/
def newChrysalis (s : State) (j : Job) : Chrysalis :=
  { record := j.committed, seed := j.hdr.seed, planVersion := j.planVersion,
    planDigest := match j.plan with | some p => p.digest | none => [], dLen := j.lengths.d, stopBeat := s.eng.beat, stateBytes := deviceState j,
    cursors := newCursors j, image := [], level0 := false, level1 := false, level2 := false, level3 := false, l1Slot := 0 }

/-- The job after the stop's first beat: every later plan beat is moved by Z, and no older level 0 is left (R365, R366). -/
def stopBegun (s : State) (j : Job) : Job :=
  { shiftPlan s.eng.beat (stopBeats s j) j with
    stopEnd := some (s.eng.beat + stopBeats s j), l2Busy := false,
    chrysalises := newChrysalis s j :: j.chrysalises.map fun x => { x with level0 := false } }

theorem stopBegin_eq (s : State) (f : Nat) : stopBegin s f = setJob s f fun j => if stopBegins s j then stopBegun s j else j := by
  unfold stopBegin
  congr 1
  funext j
  cases stopBegins s j <;> rfl

theorem level0_of_mem_stopBegun {s : State} {j : Job} {y : Chrysalis} (h : y ∈ (stopBegun s j).chrysalises) : y.level0 = false := by
  rcases List.mem_cons.1 h with rfl | hold
  · rfl
  · obtain ⟨x, -, rfl⟩ := List.mem_map.1 hold
    rfl

/-! ### The stop ends (R366, R369, R370) -/

/-- A chrysalis with level 0 sealed: the image of the current banks, and its level-1 slot. -/
def sealedChrysalis (s : State) (f : Nat) (j : Job) (x : Chrysalis) : Chrysalis :=
  { x with level0 := true, image := captureImage s f j, l1Slot := nextSlot j }

/-- Whether a level-1 copy follows the stop: the plan has slots and there is a partner (R369). -/
def startsLevel1 (j : Job) : Bool := decide (j.l1Slots ≠ 0xFF) && (partnerOf j j.coord).isSome

/-- Whether a level-2 copy follows the stop: every `l2_every`-th one, under the function's key (R370, R480). -/
def startsLevel2 (s : State) (f : Nat) (j : Job) : Bool :=
  decide (j.hdr.policy.l2Every ≠ 0) && decide ((j.taken + 1) % max 1 j.hdr.policy.l2Every = 0) && (fnAt s f).l2Key.isSome

/-- The job `i` after the stop of a job that is `j` with the chrysalises `x :: r`. -/
def sealedJob (s : State) (f : Nat) (j : Job) (x : Chrysalis) (r : List Chrysalis) (i : Job) : Job :=
  { i with stopEnd := none, stopWanted := none, stopFrom := none, lastStop := s.eng.beat, ownersChange := false, taken := j.taken + 1,
           l1Busy := startsLevel1 j, l2Busy := startsLevel2 s f j,
           chrysalises := pruneLevels (sealedChrysalis s f j x :: if startsLevel1 j then r.map (dropSlot (nextSlot j)) else r) }

/-- The newest chrysalis stays, whatever levels it has. -/
theorem head?_pruneLevels (x : Chrysalis) (l : List Chrysalis) : (pruneLevels (x :: l)).head? = some x := rfl

theorem stopEndWork_of_early {s : State} {f e : Nat} {j : Job} {x : Chrysalis} {r : List Chrysalis} (hj : jobAt s f = some j)
    (he : j.stopEnd = some e) (hx : j.chrysalises = x :: r) (h : s.eng.beat < e) : stopEndWork s f = s := by
  simp [stopEndWork, hj, he, hx, h]

/-- The end of a stop changes its job, and beside it only the flash controller's domain and the reply to SNAP.TAKE. -/
theorem stopEndWork_of_due {s : State} {f e : Nat} {j : Job} {x : Chrysalis} {r : List Chrysalis} (hj : jobAt s f = some j)
    (he : j.stopEnd = some e) (hx : j.chrysalises = x :: r) (h : e ≤ s.eng.beat) : stopEndWork s f =
      answerOpt (if startsLevel2 s f j then flashOn (setJob s f (sealedJob s f j x r)) else setJob s f (sealedJob s f j x r))
        j.stopWanted.join (replyOk (natLE 8 x.record.step ++ natLE 8 x.stopBeat)) := by
  simp only [stopEndWork, hj, he, hx, if_neg (Nat.not_lt.2 h)]
  rcases j.stopWanted with _ | _ | q <;> rfl

theorem stopEndWork_fns {s : State} {f e : Nat} {j : Job} {x : Chrysalis} {r : List Chrysalis} (hj : jobAt s f = some j)
    (he : j.stopEnd = some e) (hx : j.chrysalises = x :: r) (h : e ≤ s.eng.beat) :
    (stopEndWork s f).fns = (setJob s f (sealedJob s f j x r)).fns := by
  rw [stopEndWork_of_due hj he hx h, answerOpt_fns]
  split
  · exact flashOn_fns _
  · rfl

theorem stopEndWork_st {s : State} {f e : Nat} {j : Job} {x : Chrysalis} {r : List Chrysalis} (hj : jobAt s f = some j)
    (he : j.stopEnd = some e) (hx : j.chrysalises = x :: r) (h : e ≤ s.eng.beat) : (stopEndWork s f).st = s.st := by
  rw [stopEndWork_of_due hj he hx h, answerOpt_st]
  split
  · rw [flashOn_st, setJob_st]
  · rfl

/-! ### Levels 1 and 2 (R369, R370, R481) -/

theorem frame_setFn (s : State) (f : Nat) (g : FnSt → FnSt) : Frame [.fns] s (setFn s f g) := by
  apply frame_of <;> simp

theorem fnAt_setJob {s : State} {f : Nat} (h : f < s.fns.length) (g : Job → Job) :
    fnAt (setJob s f g) f = { fnAt s f with job := (fnAt s f).job.map g } := by simp [setJob, h]

theorem level2Complete_of_idle {s : State} {f : Nat} {j : Job} (hj : jobAt s f = some j) (h : j.l2Busy = false) : level2Complete s f = s := by
  simp [level2Complete, hj, h]

/-- The newest `n + 1` level-2 copies stay, the first of them in any case. -/
theorem keepLevel2_of_level2 {c : Chrysalis} (h : c.level2 = true) (n : Nat) (r : List Chrysalis) :
    keepLevel2 (n + 1) (c :: r) = c :: keepLevel2 n r := by simp [keepLevel2, h]

/-- A job whose newest chrysalis, `x`, now has level 2. -/
def markLevel2 (j : Job) (x : Chrysalis) (r : List Chrysalis) : Job := { j with chrysalises := { x with level2 := true } :: r }

/-- The job after a level-2 copy: copies and chrysalises beyond those that the policy keeps are gone (R370). -/
def storedJob (j : Job) (x : Chrysalis) (r : List Chrysalis) : Job :=
  { markLevel2 j x r with l2Busy := false, chrysalises := pruneLevels (keepLevel2 j.hdr.policy.l2Keep ({ x with level2 := true } :: r)) }

theorem head?_storedJob {j : Job} (h : 0 < j.hdr.policy.l2Keep) (x : Chrysalis) (r : List Chrysalis) :
    (storedJob j x r).chrysalises.head? = some { x with level2 := true } := by
  obtain ⟨n, hn⟩ := Nat.exists_eq_succ_of_ne_zero (Nat.ne_of_gt h)
  simp only [storedJob, hn, Nat.succ_eq_add_one, keepLevel2_of_level2 (c := { x with level2 := true }) rfl, head?_pruneLevels]

/-- The drive takes the image under the function's key, and keeps the newest ones (R370, R481). -/
theorem level2Complete_of_busy {s : State} {f : Nat} {j : Job} {x : Chrysalis} {r : List Chrysalis} {w : Bytes} (hj : jobAt s f = some j)
    (hx : j.chrysalises = x :: r) (hb : j.l2Busy = true) (hw : (fnAt s f).l2Key = some w) :
    level2Complete s f = setFn (setJob s f fun _ => storedJob j x r) f fun y =>
      { y with drives := (driveBytes w (markLevel2 j x r) { x with level2 := true } :: y.drives).take j.hdr.policy.l2Keep } := by
  simp only [level2Complete, hj, hb, hw, hx, setHead, Bool.not_true, Bool.false_eq_true, if_false, List.head?_cons]
  rfl

/-! ### Restores (R376, R378, R481) -/

/-- What zeroing and storing keep, the copy of an image into the banks keeps. -/
theorem loadImage_keeps {α : Type} (p : State → α) (hzero : ∀ s a n, p (zeroRange s a n) = p s) (hstore : ∀ s a b, p (storeBytes s a b) = p s)
    (s : State) (f : Nat) (j : Job) (img : Memory) : p (loadImage s f j img) = p s := by
  unfold loadImage
  split
  · rfl
  · exact (foldl_keeps p _ (fun s c => hstore s _ _) _ _).trans (foldl_keeps p _ (fun s x => hzero s _ _) _ _)

@[simp] theorem loadImage_fns (s : State) (f : Nat) (j : Job) (img : Memory) : (loadImage s f j img).fns = s.fns :=
  loadImage_keeps (fun s => s.fns) (fun _ _ _ => rfl) (fun _ _ _ => rfl) s f j img

@[simp] theorem loadImage_flash (s : State) (f : Nat) (j : Job) (img : Memory) : (loadImage s f j img).flash = s.flash :=
  loadImage_keeps (fun s => s.flash) (fun _ _ _ => rfl) (fun _ _ _ => rfl) s f j img

@[simp] theorem loadImage_eng (s : State) (f : Nat) (j : Job) (img : Memory) : (loadImage s f j img).eng = s.eng :=
  loadImage_keeps (fun s => s.eng) (fun _ _ _ => rfl) (fun _ _ _ => rfl) s f j img

@[simp] theorem loadImage_fab (s : State) (f : Nat) (j : Job) (img : Memory) : (loadImage s f j img).fab = s.fab :=
  loadImage_keeps (fun s => s.fab) (fun _ _ _ => rfl) (fun _ _ _ => rfl) s f j img

/-- Only a restore from level 2 reads the drive (R376). -/
theorem restoredFrom_of_ne {lv : Nat} (h : lv ≠ 4) (s : State) (f : Nat) (j : Job) (x : Chrysalis) : restoredFrom s f lv j x = x := by
  simp [restoredFrom, h]

theorem oldShape_of_none {j : Job} (h : j.loss = none) : oldShape j = j := by simp [oldShape, h]

/-- With no device lost, the banks take the image and the record comes into force (R378). -/
theorem restoreInto_of_whole {s : State} {f : Nat} {j : Job} (hj : jobAt s f = some j) (hl : j.loss = none) (y : Chrysalis) :
    restoreInto s f y = setJob (loadImage s f { j with committed := y.record } y.image) f fun i => restoredJob i y := by
  simp [restoreInto, hj, oldShape_of_none hl]

theorem restoreInto_fns {s : State} {f : Nat} {j : Job} (hj : jobAt s f = some j) (hl : j.loss = none) (y : Chrysalis) :
    (restoreInto s f y).fns = (setJob s f fun i => restoredJob i y).fns := by
  rw [restoreInto_of_whole hj hl, setJob_fns_congr (loadImage_fns _ _ _ _)]

theorem restoreInto_flash {s : State} {f : Nat} {j : Job} (hj : jobAt s f = some j) (hl : j.loss = none) (y : Chrysalis) :
    (restoreInto s f y).flash = s.flash := by simp [restoreInto_of_whole hj hl]

/-- The copies of a SNAP.RESTORE: the record is in force, and the command is answered (R378). -/
theorem restoreComplete_of {s : State} {f q i lv : Nat} {j : Job} {x : Chrysalis} (hj : jobAt s f = some j)
    (hr : j.restoring = some (some q, i, lv)) (hx : j.chrysalises[i]? = some x) : restoreComplete s f =
      answerReq (restoreInto s f (restoredFrom s f lv j x)) q (replyOk (natLE 8 x.record.step ++ natLE 1 lv)) := by
  simp [restoreComplete, hj, hr, hx]

/-! ### Little-endian fields (R3) -/

theorem natLE_length (n v : Nat) : (natLE n v).length = n := by
  induction n generalizing v with
  | zero => rfl
  | succ n ih => simp [natLE, ih]

theorem leNat_natLE (n v : Nat) : leNat (natLE n v) = v % 256 ^ n := by
  induction n generalizing v with
  | zero => simp [natLE, leNat, Nat.mod_one]
  | succ n ih =>
    calc leNat (natLE (n + 1) v) = v % 256 + 256 * (v / 256 % 256 ^ n) := by rw [natLE, leNat, ih, BitVec.toNat_ofNat]
      _ = v % 256 ^ (n + 1) := by rw [← Nat.mod_mul, Nat.pow_succ']

/-- A field reads back between the fields before and after it. -/
theorem rd_natLE (a r : Bytes) (n v : Nat) : rd (a ++ (natLE n v ++ r)) a.length n = v % 256 ^ n := by
  have hfield : slice (a ++ (natLE n v ++ r)) a.length n = natLE n v := by simp [slice, natLE_length]
  rw [rd, hfield, leNat_natLE]

/-! ### Replay anchors (R271, R275, Table 8.7) -/

theorem rd_commitBody_beat (beat step kind ls : Nat) (w k : Bool) : rd (commitBody beat step w k kind ls) 0 8 = beat % 2 ^ 64 := by
  have h := rd_natLE [] (natLE 4 (step % 2 ^ 32) ++ (natLE 1 (b2n w + 2 * b2n k + 4 * kind) ++ (natLE 1 ls ++ zeros 2))) 8 beat
  simpa [commitBody] using h

theorem rd_commitBody_step (beat step kind ls : Nat) (w k : Bool) : rd (commitBody beat step w k kind ls) 8 4 = step % 2 ^ 32 := by
  have h := rd_natLE (natLE 8 beat) (natLE 1 (b2n w + 2 * b2n k + 4 * kind) ++ (natLE 1 ls ++ zeros 2)) 4 (step % 2 ^ 32)
  simpa [commitBody, natLE_length] using h

theorem rd_commitBody_flags (beat step kind ls : Nat) (w k : Bool) :
    rd (commitBody beat step w k kind ls) 12 1 = (b2n w + 2 * b2n k + 4 * kind) % 256 := by
  have h := rd_natLE (natLE 8 beat ++ natLE 4 (step % 2 ^ 32)) (natLE 1 ls ++ zeros 2) 1 (b2n w + 2 * b2n k + 4 * kind)
  simpa [commitBody, natLE_length] using h

/-- A job after the announcement of a full replay: it takes one of its own step only (R275). -/
def anchorTaken (beat step : Nat) (j : Job) : Job :=
  if step % 2 ^ 32 = j.committed.step % 2 ^ 32 then { j with replay := some (2, beat % 2 ^ 64), recovery := .none } else j

theorem anchorTaken_keeps (beat step : Nat) (j : Job) : (anchorTaken beat step j).committed = j.committed ∧
    (anchorTaken beat step j).restoring = j.restoring ∧ (anchorTaken beat step j).transfersDue = j.transfersDue := by
  unfold anchorTaken
  split <;> exact ⟨rfl, rfl, rfl⟩

theorem anchorTaken_of_own {j : Job} {beat step : Nat} (hstep : j.committed.step = step) (hbeat : beat < 2 ^ 64) :
    anchorTaken beat step j = { j with replay := some (2, beat), recovery := .none } := by
  rw [anchorTaken, if_pos (by rw [hstep]), Nat.mod_eq_of_lt hbeat]

theorem acceptCommit_of_full (s : State) (f beat step ls : Nat) :
    acceptCommit s f (commitBody beat step false false 2 ls) = setJob s f (anchorTaken beat step) := by
  have hkind : bits ((b2n false + 2 * b2n false + 4 * 2) % 256) 3 2 = 2 := rfl
  simp only [acceptCommit, rd_commitBody_beat, rd_commitBody_step, rd_commitBody_flags, hkind]
  exact congrArg (setJob s f) (funext fun j => by simp [anchorTaken])

@[simp] theorem passCommit_fns (s : State) (f : Nat) (m : Msg) : (passCommit s f m).fns = s.fns := by
  unfold passCommit
  split
  · rfl
  · exact foldl_keeps (fun s => s.fns) _ (fun s k => emitMsg_fns s _ m) _ _

theorem announce_full_fns (s : State) (f beat step ls : Nat) :
    (announce s f (commitBody beat step false false 2 ls)).fns = (setJob s f (anchorTaken beat step)).fns := by
  rw [announce, acceptCommit_of_full, setJob_fns_congr (passCommit_fns _ _ _)]

/-! ### The transfers of a recovery (R378, R381) -/

theorem isRoot_of_fab {s t : State} (h : t.fab = s.fab) (j : Job) : isRoot t j = isRoot s j := by
  have hmember : memberGone t j = memberGone s j := by
    funext p
    simp [memberGone, physGone, h]
  simp [isRoot, jobRoot, liveMembers, hmember]

/-- The restored job of a recovery whose transfers are done. -/
def recoveredJob (y : Chrysalis) (j : Job) : Job := { restoredJob j y with loss := none, transfersDue := false }

/-- The state before the root's announcement, if this device is the root. -/
def recovered (s : State) (f : Nat) (j : Job) (y : Chrysalis) : State :=
  setJob (loadImage s f { j with committed := y.record } y.image) f (recoveredJob y)

theorem jobAt_recovered {s : State} {f : Nat} {j : Job} (hj : jobAt s f = some j) (y : Chrysalis) :
    jobAt (recovered s f j y) f = some (recoveredJob y j) :=
  (jobAt_of_fns (setJob_fns_congr (loadImage_fns s f { j with committed := y.record } y.image) f (recoveredJob y)) f).trans
    (jobAt_setJob_of (lt_length_of_jobAt hj) hj _)

theorem transfersComplete_of {s : State} {f i lv : Nat} {j : Job} {x : Chrysalis} (hj : jobAt s f = some j)
    (hrec : j.recovery = .transfers) (hr : j.restoring = some (none, i, lv)) (hx : j.chrysalises[i]? = some x) (hl : j.loss = none)
    (hg : j.gone = false) : transfersComplete s f =
      if isRoot s j then
        announce (recovered s f j (restoredFrom s f lv j x)) f
          (commitBody (s.eng.beat + announceDist s) x.record.step false false 2 x.record.lsExp)
      else recovered s f j (restoredFrom s f lv j x) := by
  have hstate : setJob (restoreInto s f (restoredFrom s f lv j x)) f (fun k => { k with loss := none, transfersDue := false }) =
      recovered s f j (restoredFrom s f lv j x) := by rw [restoreInto_of_whole hj hl, setJob_setJob]; rfl
  have hroot : isRoot (recovered s f j (restoredFrom s f lv j x)) j = isRoot s j :=
    isRoot_of_fab (loadImage_fab s f { j with committed := (restoredFrom s f lv j x).record } (restoredFrom s f lv j x).image) j
  have heng : (recovered s f j (restoredFrom s f lv j x)).eng = s.eng := loadImage_eng _ _ _ _
  simp only [transfersComplete, hj, hrec, hr, hx, hg, Bool.false_eq_true, if_false, hstate, hroot, announceDist, heng]

/-- A member that is not the root waits for the anchor (R381). -/
theorem transfersComplete_member {s : State} {f i lv : Nat} {j : Job} {x : Chrysalis} (hj : jobAt s f = some j)
    (hrec : j.recovery = .transfers) (hr : j.restoring = some (none, i, lv)) (hx : j.chrysalises[i]? = some x) (hl : j.loss = none)
    (hg : j.gone = false) (hroot : isRoot s j = false) :
    jobAt (transfersComplete s f) f = some (recoveredJob (restoredFrom s f lv j x) j) := by
  rw [transfersComplete_of hj hrec hr hx hl hg, hroot, if_neg Bool.false_ne_true, jobAt_recovered hj]

/-- The root announces the anchor A beats ahead and takes it too (R275, R381). -/
theorem transfersComplete_root {s : State} {f i lv : Nat} {j : Job} {x : Chrysalis} (hj : jobAt s f = some j)
    (hrec : j.recovery = .transfers) (hr : j.restoring = some (none, i, lv)) (hx : j.chrysalises[i]? = some x) (hl : j.loss = none)
    (hg : j.gone = false) (hroot : isRoot s j = true) : jobAt (transfersComplete s f) f =
      some (anchorTaken (s.eng.beat + announceDist s) x.record.step (recoveredJob (restoredFrom s f lv j x) j)) := by
  rw [transfersComplete_of hj hrec hr hx hl hg, hroot, if_pos rfl, jobAt_of_fns (announce_full_fns _ _ _ _ _)]
  exact jobAt_setJob_of (lt_length_of_jobAt (jobAt_recovered hj _)) (jobAt_recovered hj _) _

/-! ### The obligation -/

/-- Settles O41, event by event: the stop's begin and end, the copies of levels 1 and 2, a restore, the transfers of a recovery. -/
theorem chrysalisLife : Obligations.ChrysalisLife := by
  refine ⟨fun s f j _ _ hj => ?begins, fun s f e j x r _ _ hj he hx => ⟨fun h => ?early, fun h => ?ends⟩,
    fun s f j x r _ _ hj hx => ⟨fun hb => ?level1, fun w hb hkeep hw => ?level2, fun hb => ?idle⟩,
    fun s f q i lv j x _ _ hj hr hx hl => ?restore, fun s f i lv j x _ _ hj hrec hr hx hl hg => ?transfers⟩
  case begins =>
    refine ⟨_, if stopBegins s j then stopBegun s j else j, rfl, ?_⟩
    rw [stopBegin_eq]
    refine ⟨jobAt_setJob_of (lt_length_of_jobAt hj) hj _, frame_setJob _ _ _, fun g hg => fnAt_setJob_ne s _ hg,
      fun hb => by rw [hb, if_neg Bool.false_ne_true], fun hb => ?_⟩
    rw [hb, if_pos rfl]
    exact ⟨rfl, rfl, rfl, newChrysalis s j, rfl, rfl, rfl, rfl, rfl, rfl, fun y hy => level0_of_mem_stopBegun hy⟩
  case early => exact congrArg _ (stopEndWork_of_early hj he hx h)
  case ends =>
    have hfns := stopEndWork_fns hj he hx h
    exact ⟨_, _, sealedChrysalis s f j x, rfl, (jobAt_of_fns hfns f).trans (jobAt_setJob_of (lt_length_of_jobAt hj) hj _),
      rfl, rfl, rfl, rfl, head?_pruneLevels _ _, rfl, rfl, rfl, fun a => by rw [stopEndWork_st hj he hx h],
      fun g hg => (fnAt_of_fns hfns g).trans (fnAt_setJob_ne s _ hg)⟩
  case level1 =>
    refine ⟨_, _, rfl, jobAt_setJob_of (lt_length_of_jobAt hj) hj _, frame_setJob _ _ _, ?_⟩
    simp [hb, hx, setHead]
  case level2 =>
    have hf := lt_length_of_jobAt hj
    have hf' : f < (setJob s f fun _ => storedJob j x r).fns.length := by simpa using hf
    refine ⟨_, storedJob j x r, { x with level2 := true }, congrArg Host.Outcome.next (level2Complete_of_busy hj hx hb hw), ?_,
      frame_trans (frame_setJob s f _) (frame_setFn _ f _), rfl, head?_storedJob hkeep x r, rfl, rfl, ?_⟩
    · rw [jobAt, fnAt_setFn _ _ _ hf']
      exact jobAt_setJob_of hf hj _
    · rw [fnAt_setFn _ _ _ hf', fnAt_setJob hf]
      rfl
  case idle => exact congrArg _ (level2Complete_of_idle hj hb)
  case restore =>
    have hfns : (restoreComplete s f).fns = (setJob s f fun i => restoredJob i (restoredFrom s f lv j x)).fns := by
      rw [restoreComplete_of hj hr hx, answerReq_fns, restoreInto_fns hj hl]
    exact ⟨_, _, restoredFrom s f lv j x, rfl, (jobAt_of_fns hfns f).trans (jobAt_setJob_of (lt_length_of_jobAt hj) hj _), rfl,
      fun hlv => restoredFrom_of_ne hlv s f j x, rfl, rfl, rfl, rfl, rfl, rfl, rfl,
      by rw [restoreComplete_of hj hr hx, answerReq_flash, restoreInto_flash hj hl],
      fun g hg => (fnAt_of_fns hfns g).trans (fnAt_setJob_ne s _ hg)⟩
  case transfers =>
    cases hroot : isRoot s j with
    | false =>
      exact ⟨_, _, restoredFrom s f lv j x, rfl, transfersComplete_member hj hrec hr hx hl hg hroot, rfl,
        fun hlv => restoredFrom_of_ne hlv s f j x, rfl, rfl, rfl, fun _ => ⟨hrec, rfl⟩, nofun⟩
    | true =>
      obtain ⟨hcommitted, hrestoring, hdue⟩ :=
        anchorTaken_keeps (s.eng.beat + announceDist s) x.record.step (recoveredJob (restoredFrom s f lv j x) j)
      refine ⟨_, _, restoredFrom s f lv j x, rfl, transfersComplete_root hj hrec hr hx hl hg hroot, rfl,
        fun hlv => restoredFrom_of_ne hlv s f j x, hcommitted, hrestoring, hdue, nofun, fun _ hstep _ _ hbeat => ?_⟩
      rw [anchorTaken_of_own (j := recoveredJob (restoredFrom s f lv j x) j) hstep hbeat]
      exact ⟨rfl, rfl⟩

end Sys2Proof.Machine
end

/-! # Writes of the bootstrap window, doorbells and head writes (O2, O3)

R384, R385, R388, R404. A write of the window changes one of its three words and then arms ring pair 0 where it can: `withWords` is the
state between the two. A doorbell or a head write changes one ring pair, or is counted and changes none. -/
section
namespace Sys2Proof.Machine
open Sys2Proof

/-! ### The mailbox and its rings -/

/-- An update of the mailbox alone. -/
theorem frame_mbx (s : State) (b : Mailbox) : Frame [.mbx] s { s with mbx := b } := by
  apply frame_of <;> simp

/-- The bits [19:16] of a doorbell, by which it names its ring (Table 12.1). -/
theorem bits_ring (v : Nat) : bits v 19 16 = v / 65536 % 16 := by
  simp [bits, Nat.shiftRight_eq_div_pow]

/-! ### Slots of a ring (R385) -/

theorem le_pow2Up (v : Nat) : v ≤ pow2Up v := by
  unfold pow2Up
  split
  · assumption
  · have := Nat.lt_log2_self (n := v - 1)
    omega

theorem pow2Up_lt {v : Nat} (h : 1 < v) : pow2Up v < 2 * v := by
  have hlog := Nat.log2_self_le (n := v - 1) (by omega)
  rw [pow2Up, if_neg (by omega), Nat.pow_succ]
  omega

theorem pow2Up_eq_pow (v : Nat) : ∃ k, pow2Up v = 2 ^ k := by
  unfold pow2Up
  split
  · exact ⟨0, rfl⟩
  · exact ⟨_, rfl⟩

/-- A slot count asked for becomes a power of two from 8 to 256, the least at or above it within that range (R385, R397). -/
theorem pow2Up_clamp (v : Nat) : pow2Up (clamp 8 256 v) ∈ ([8, 16, 32, 64, 128, 256] : List Nat) ∧
    (v ≤ pow2Up (clamp 8 256 v) ∨ pow2Up (clamp 8 256 v) = 256) ∧ (pow2Up (clamp 8 256 v) < 2 * v ∨ pow2Up (clamp 8 256 v) = 8) := by
  have hclamp := clamp_eq_max_min (lo := 8) (hi := 256) (by decide) v
  have hle := le_pow2Up (clamp 8 256 v)
  have hlt := pow2Up_lt (v := clamp 8 256 v) (by omega)
  obtain ⟨k, hk⟩ := pow2Up_eq_pow (clamp 8 256 v)
  have hlow : 3 ≤ k := (Nat.pow_le_pow_iff_right (a := 2) (by decide)).1 (by omega)
  have hhigh : k < 9 := (Nat.pow_lt_pow_iff_right (a := 2) (by decide)).1 (by omega)
  have hmem : pow2Up (clamp 8 256 v) ∈ ([8, 16, 32, 64, 128, 256] : List Nat) := by
    have hcases : k = 3 ∨ k = 4 ∨ k = 5 ∨ k = 6 ∨ k = 7 ∨ k = 8 := by omega
    rw [hk]
    rcases hcases with rfl | rfl | rfl | rfl | rfl | rfl <;> decide
  simp only [List.mem_cons, List.not_mem_nil, or_false] at hmem
  refine ⟨by simpa using hmem, ?_, ?_⟩ <;> omega

theorem slotsInForce_of_ne {v : Nat} (h : v % 65536 ≠ 0) : slotsInForce v = pow2Up (clamp 8 256 (v % 65536)) := if_neg h

theorem slotsInForce_of_eq {v : Nat} (h : v % 65536 = 0) : slotsInForce v = 0 := if_pos h

/-- The value that MBX_CMD_SIZE takes from a nonzero write (R385). -/
theorem ofNat_slotsInForce {v : Nat} (h : v % 65536 ≠ 0) :
    BitVec.ofNat 64 (slotsInForce v) ∈ ([8, 16, 32, 64, 128, 256] : List Word64) ∧
      (BitVec.ofNat 64 (slotsInForce v)).toNat = pow2Up (clamp 8 256 (v % 65536)) := by
  rw [slotsInForce_of_ne h]
  obtain ⟨hmem, -, -⟩ := pow2Up_clamp (v % 65536)
  have hword := List.mem_map_of_mem (f := BitVec.ofNat 64) hmem
  refine ⟨hword, ?_⟩
  simp only [List.mem_cons, List.not_mem_nil, or_false] at hmem
  rw [BitVec.toNat_ofNat]
  omega

/-! ### Arming (R385) -/

/-- The three words of the window, written. -/
def withWords (s : State) (cmdBase cmdSize cplBase : Word64) : State :=
  { s with mbx := { s.mbx with cmdBase, cmdSize, cplBase } }

theorem armIfReady_of_zero {s : State} (h : s.mbx.cmdSize = 0 ∨ s.mbx.cmdBase = 0 ∨ s.mbx.cplBase = 0) : armIfReady s = s := by
  rcases h with h | h | h <;> simp [armIfReady, h]

/-- Ring pair 0 with the words of the window and every counter at 0. -/
def armRing (b : Mailbox) (r : RingPair) : RingPair :=
  { r with configured := true, cmdBase := b.cmdBase.toNat, cplBase := b.cplBase.toNat, slots := b.cmdSize.toNat,
           cmdHead := 0, cmdTail := 0, cplHead := 0, cplTail := 0, evHead := 0, evTail := 0, busy := [] }

/-- The state with ring pair 0 armed by the words of the window. -/
def armedBy (s : State) : State :=
  let t := setRing s 0 (armRing s.mbx)
  { t with mbx := { t.mbx with armed := true } }

theorem armIfReady_of_nonzero {s : State} (ha : s.mbx.armed = false)
    (h : s.mbx.cmdSize ≠ 0 ∧ s.mbx.cmdBase ≠ 0 ∧ s.mbx.cplBase ≠ 0) : armIfReady s = armedBy s := by
  obtain ⟨hsize, hcmd, hcpl⟩ := h
  simp only [armIfReady, ha, hsize, hcmd, hcpl, decide_false, Bool.or_self, Bool.false_eq_true, if_false]
  rfl

theorem ringAt_armedBy {s : State} (h : 0 < s.mbx.rings.length) : ringAt (armedBy s) 0 = armRing s.mbx (ringAt s 0) :=
  ringAt_setRing s 0 _ h

theorem ringAt_armedBy_ne (s : State) {k : Nat} (h : k ≠ 0) : ringAt (armedBy s) k = ringAt s k :=
  ringAt_setRing_ne s _ h

theorem armedAs_armedBy {s : State} (h : 0 < s.mbx.rings.length) : armedAs (armedBy s) := by
  unfold armedAs
  rw [ringAt_armedBy h]
  exact ⟨rfl, rfl, rfl, rfl, rfl, rfl, rfl, rfl, rfl, rfl, rfl⟩

/-- A state with the three words of the window as given, armed by them where all are nonzero, and else as it was (R385). -/
structure WindowSet (s t : State) (cmdBase cmdSize cplBase : Word64) : Prop where
  frame : Frame [.mbx] s t
  rings : ∀ n, n ≠ 0 → ringAt t n = ringAt s n
  flights : t.mbx.flights = s.mbx.flights
  held : t.mbx.held = s.mbx.held
  hostOut : t.mbx.hostOut = s.mbx.hostOut
  cmdBase : t.mbx.cmdBase = cmdBase
  cplBase : t.mbx.cplBase = cplBase
  cmdSize : t.mbx.cmdSize = cmdSize
  arms : t.mbx.cmdSize ≠ 0 ∧ t.mbx.cmdBase ≠ 0 ∧ t.mbx.cplBase ≠ 0 → armedAs t
  stays : t.mbx.cmdSize = 0 ∨ t.mbx.cmdBase = 0 ∨ t.mbx.cplBase = 0 → t.mbx.armed = false ∧ ringAt t 0 = ringAt s 0

theorem windowSet_armIfReady {s : State} (ha : s.mbx.armed = false) (hl : s.mbx.rings.length = 9) (cmdBase cmdSize cplBase : Word64) :
    WindowSet s (armIfReady (withWords s cmdBase cmdSize cplBase)) cmdBase cmdSize cplBase := by
  by_cases h : cmdSize = 0 ∨ cmdBase = 0 ∨ cplBase = 0
  · rw [armIfReady_of_zero (s := withWords s cmdBase cmdSize cplBase) h]
    exact ⟨frame_mbx s _, fun _ _ => rfl, rfl, rfl, rfl, rfl, rfl, rfl, fun ⟨h1, h2, h3⟩ => by simp_all [withWords], fun _ => ⟨ha, rfl⟩⟩
  · have hall : cmdSize ≠ 0 ∧ cmdBase ≠ 0 ∧ cplBase ≠ 0 := by simpa using h
    rw [armIfReady_of_nonzero (s := withWords s cmdBase cmdSize cplBase) ha hall]
    exact ⟨frame_mbx s _, fun n hn => ringAt_armedBy_ne _ hn, rfl, rfl, rfl, rfl, rfl, rfl,
      fun _ => armedAs_armedBy (s := withWords s cmdBase cmdSize cplBase) (by simp [withWords, hl]), fun hz => absurd hz h⟩

/-! ### The writes of the window (R384, R385) -/

theorem exec_mbxCmdBaseWrite_disarmed {s : State} (hw : windowOpen s = true) (ha : s.mbx.armed = false) (v : Word64) :
    exec (.mbxCmdBaseWrite v) s = .next (armIfReady (withWords s (baseOf v) s.mbx.cmdSize s.mbx.cplBase)) := by
  change execMbxCmdBaseWrite v s = _
  simp [execMbxCmdBaseWrite, hw, ha, withWords]

theorem exec_mbxCplBaseWrite_disarmed {s : State} (hw : windowOpen s = true) (ha : s.mbx.armed = false) (v : Word64) :
    exec (.mbxCplBaseWrite v) s = .next (armIfReady (withWords s s.mbx.cmdBase s.mbx.cmdSize (baseOf v))) := by
  change execMbxCplBaseWrite v s = _
  simp [execMbxCplBaseWrite, hw, ha, withWords]

theorem slotsInForce_ne_zero {v : Nat} (h : v % 65536 ≠ 0) : slotsInForce v ≠ 0 := by
  have hle := le_pow2Up (clamp 8 256 (v % 65536))
  rw [clamp_eq_max_min (by decide)] at hle
  rw [slotsInForce_of_ne h, clamp_eq_max_min (by decide)]
  omega

theorem exec_mbxCmdSizeWrite_disarmed {s : State} (hw : windowOpen s = true) (ha : s.mbx.armed = false) {v : Word64}
    (hv : v.toNat % 65536 ≠ 0) : exec (.mbxCmdSizeWrite v) s =
      .next (armIfReady (withWords s s.mbx.cmdBase (BitVec.ofNat 64 (slotsInForce v.toNat)) s.mbx.cplBase)) := by
  change execMbxCmdSizeWrite v s = _
  simp [execMbxCmdSizeWrite, hw, ha, slotsInForce_ne_zero hv, withWords]

/-- Ring pair 0 disarmed. -/
def disarmed (s : State) : State :=
  let t := setRing s 0 fun r => { r with configured := false }
  { t with mbx := { t.mbx with armed := false, cmdSize := 0 } }

theorem exec_mbxCmdSizeWrite_zero {s : State} (hw : windowOpen s = true) {v : Word64} (hv : v.toNat % 65536 = 0) :
    exec (.mbxCmdSizeWrite v) s = .next (disarmed s) := by
  change execMbxCmdSizeWrite v s = _
  simp only [execMbxCmdSizeWrite, hw, slotsInForce_of_eq hv, Bool.not_true, Bool.false_eq_true, if_false, if_true]
  rfl

theorem exec_mbxCmdSizeWrite_armed {s : State} (ha : s.mbx.armed = true) {v : Word64} (hv : v.toNat % 65536 ≠ 0) :
    exec (.mbxCmdSizeWrite v) s = .next s := by
  change execMbxCmdSizeWrite v s = _
  simp [execMbxCmdSizeWrite, ha, slotsInForce_ne_zero hv]

theorem exec_baseWrites_armed {s : State} (ha : s.mbx.armed = true) (v : Word64) :
    exec (.mbxCmdBaseWrite v) s = .next s ∧ exec (.mbxCplBaseWrite v) s = .next s := by
  change execMbxCmdBaseWrite v s = _ ∧ execMbxCplBaseWrite v s = _
  simp [execMbxCmdBaseWrite, execMbxCplBaseWrite, ha]

/-- Settles O2, write by write: the three words while disarmed, then while armed, a size of 0, and other accesses. -/
theorem windowWrites : Obligations.WindowWrites := by
  refine ⟨fun s v i hw ha hl hi => ?disarmed, fun s v ha => ?armed, fun s v hw hl hv => ?zero, fun _ _ _ _ => rfl⟩
  case disarmed =>
    rcases hi with rfl | rfl | ⟨rfl, hv⟩
    · have hset := windowSet_armIfReady ha hl (baseOf v) s.mbx.cmdSize s.mbx.cplBase
      exact ⟨_, exec_mbxCmdBaseWrite_disarmed hw ha v, hset.frame, hset.rings, hset.flights, hset.held, hset.hostOut,
        hset.cmdBase.trans (if_pos rfl).symm, by simpa using hset.cplBase, fun _ => hset.cmdSize, nofun, hset.arms, hset.stays⟩
    · have hset := windowSet_armIfReady ha hl s.mbx.cmdBase s.mbx.cmdSize (baseOf v)
      exact ⟨_, exec_mbxCplBaseWrite_disarmed hw ha v, hset.frame, hset.rings, hset.flights, hset.held, hset.hostOut,
        by simpa using hset.cmdBase, hset.cplBase.trans (if_pos rfl).symm, fun _ => hset.cmdSize, nofun, hset.arms, hset.stays⟩
    · have hset := windowSet_armIfReady ha hl s.mbx.cmdBase (BitVec.ofNat 64 (slotsInForce v.toNat)) s.mbx.cplBase
      obtain ⟨hmem, hnat⟩ := ofNat_slotsInForce hv
      obtain ⟨-, hup, hleast⟩ := pow2Up_clamp (v.toNat % 65536)
      refine ⟨_, exec_mbxCmdSizeWrite_disarmed hw ha hv, hset.frame, hset.rings, hset.flights, hset.held, hset.hostOut,
        by simpa using hset.cmdBase, by simpa using hset.cplBase, fun h => absurd rfl h, fun _ => ?_, hset.arms, hset.stays⟩
      rw [hset.cmdSize, ← BitVec.toNat_inj, ← BitVec.toNat_inj, hnat]
      exact ⟨hmem, hup, hleast⟩
  case armed =>
    obtain ⟨hcmd, hcpl⟩ := exec_baseWrites_armed ha v
    exact ⟨hcmd, hcpl, exec_mbxCmdSizeWrite_armed ha⟩
  case zero =>
    refine ⟨_, exec_mbxCmdSizeWrite_zero hw hv, frame_mbx s _, rfl, rfl, ?_, fun n hn => ringAt_setRing_ne s _ hn, rfl, rfl⟩
    exact congrArg RingPair.configured (ringAt_setRing s 0 _ (by omega))

/-! ### Doorbells (R388) -/

/-- The state in which a doorbell's word has been written. -/
def withTail (s : State) (v : Word64) : State := { s with mbx := { s.mbx with cmdTail := v } }

/-- A ring whose tail a doorbell moves to h, with a note of the descriptors that came while CP0 was in reset (R22). -/
def moveTail (down : Bool) (h : Nat) (r : RingPair) : RingPair :=
  { r with cmdTail := h, busy := if down then r.busy ++ [(r.cmdTail, h)] else r.busy }

theorem exec_mbxCmdTail_of {s : State} {v : Word64} {n : Nat} (hw : windowOpen s = true) (hv : v.toNat / 65536 % 16 = n) (hn : n ≤ 8)
    (hc : (ringAt s n).configured = true) : exec (.mbxCmdTail v) s = .next (
      if (ringAt s n).slots < ringCount (ringAt s n).cmdHead (v.toNat % 65536) then countOverfill (withTail s v)
      else setRing (withTail s v) n (moveTail (cpDown s 0) (v.toNat % 65536))) := by
  have hring : ringAt (withTail s v) n = ringAt s n := rfl
  change execMbxCmdTail v s = _
  simp only [execMbxCmdTail, hw, bits_ring, hv, Bool.not_true, Bool.false_eq_true, if_false]
  change Host.Outcome.next (if (decide (8 < n) || !(ringAt s n).configured) = true then _ else _) = _
  rw [if_neg (by simp [hc, hn])]
  rfl

/-- A count below its bound goes up by one (R281, R459). -/
theorem sat_succ {max n : Nat} (h : n < max) : sat max (n + 1) = n + 1 := by
  rw [sat, if_neg (by omega)]

/-! ### Head writes (R388, R404) -/

theorem exec_mbxCplHead_completion {s : State} {v : Word64} {n : Nat} (hw : windowOpen s = true) (hv : v.toNat / 65536 % 16 = n) (hn : n ≤ 8)
    (hb : v.toNat.testBit 20 = false) (hc : (ringAt s n).configured = true) : exec (.mbxCplHead v) s = .next (
      if 2 * (ringAt s n).slots < ringCount (v.toNat % 65536) (ringAt s n).cplTail then countOverfill s
      else setRing s n fun r => { r with cplHead := v.toNat % 65536 }) := by
  change execMbxCplHead v s = _
  simp [execMbxCplHead, bits_ring, hv, hw, Nat.not_lt.2 hn, bit, hb, hc]

/-- An event ring whose head a write moves to h. -/
def moveEvHead (s : State) (n h : Nat) : State := setRing s n fun r => { r with evHead := h }

theorem exec_mbxCplHead_event {s : State} {v : Word64} {n : Nat} (hw : windowOpen s = true) (hv : v.toNat / 65536 % 16 = n) (hn : n ≤ 8)
    (hb : v.toNat.testBit 20 = true) (hc : ringCount (v.toNat % 65536) (ringAt s n).evTail ≤ (ringAt s n).evSlots)
    (hh : v.toNat % 65536 ≠ (ringAt s n).evHead) (hs : 0 < (ringAt s n).evSlots) : exec (.mbxCplHead v) s =
      .next (reportLost (moveEvHead s n (v.toNat % 65536)) n) := by
  change execMbxCplHead v s = _
  simp [execMbxCplHead, bits_ring, hv, hw, Nat.not_lt.2 hn, bit, hb, Nat.not_lt.2 hc, hh.symm, Nat.ne_of_gt hs, moveEvHead]

/-! ### The report of lost events (R404) -/

theorem writeEvent_hostOut (s : State) (n : Nat) (rec : Bytes) : (writeEvent s n rec).mbx.hostOut =
    s.mbx.hostOut ++ [⟨(ringAt s n).evBase + 64 * ((ringAt s n).evTail % max 1 (ringAt s n).evSlots), rec⟩] := rfl

theorem ringAt_writeEvent (s : State) {n : Nat} (rec : Bytes) (h : n < s.mbx.rings.length) :
    ringAt (writeEvent s n rec) n = { ringAt s n with evTail := ((ringAt s n).evTail + 1) % 65536 } := ringAt_setRing _ n _ h

theorem ringAt_writeEvent_ne (s : State) {n k : Nat} (rec : Bytes) (h : k ≠ n) : ringAt (writeEvent s n rec) k = ringAt s k :=
  ringAt_setRing_ne _ _ h

theorem reportLost_of_none {s : State} {n : Nat} (h : (ringAt s n).evDropped = 0) : reportLost s n = s := by
  simp [reportLost, h]

/-- The record EVENTS_LOST of a ring (Table 12.10). -/
def lostRecord (s : State) (n : Nat) : Bytes := eventRecord s n 1 1 (genericBody (2 ^ 64 - 1) 0 (ringAt s n).evDropped 0)

theorem reportLost_of_some {s : State} {n : Nat} (h : (ringAt s n).evDropped ≠ 0) :
    reportLost s n = writeEvent (setRing s n fun r => { r with evDropped := 0 }) n (lostRecord s n) := by
  simp only [reportLost, h, if_false]
  rfl

/-- The code of an event record (Table 12.9). -/
theorem rd_eventRecord_code (s : State) (fn sev code : Nat) (body : Bytes) : rd (eventRecord s fn sev code body) 2 2 = code % 65536 := by
  have h := rd_natLE (natLE 1 7 ++ natLE 1 (fn + 16 * sev)) (natLE 8 s.eng.beat ++ coordBytes (originOf s (fn - 1)) ++ fit 48 body) 2 code
  simpa [eventRecord, natLE_length] using h

theorem frame_reportLost (s : State) (n : Nat) : Frame [.mbx] s (reportLost s n) := by
  unfold reportLost
  dsimp only
  split
  · exact frame_refl _ s
  · exact frame_mbx s _

/-- What a report of lost events leaves: a ring that has lost none, with one more record where it had lost any. -/
theorem reportLost_ring {s : State} {n : Nat} (hl : n < s.mbx.rings.length) : ringAt (reportLost s n) n = { ringAt s n with
    evDropped := 0, evTail := if (ringAt s n).evDropped = 0 then (ringAt s n).evTail else ((ringAt s n).evTail + 1) % 65536 } := by
  by_cases h : (ringAt s n).evDropped = 0
  · rw [reportLost_of_none h, if_pos h, ← h]
  · rw [reportLost_of_some h, ringAt_writeEvent _ _ (by simpa [setRing] using hl), ringAt_setRing _ _ _ hl, if_neg h]

theorem reportLost_ring_ne (s : State) {n k : Nat} (hk : k ≠ n) : ringAt (reportLost s n) k = ringAt s k := by
  by_cases h : (ringAt s n).evDropped = 0
  · rw [reportLost_of_none h]
  · rw [reportLost_of_some h, ringAt_writeEvent_ne _ _ hk, ringAt_setRing_ne _ _ hk]

/-! ### The obligation -/

/-- Settles O3: a doorbell, a head write of a completion ring, and one of an event ring with its report of lost events. -/
theorem doorbells : Obligations.Doorbells := by
  intro s v n h hw hl hv hn hh
  have hlen : n < s.mbx.rings.length := by omega
  subst hh
  refine ⟨fun hc => ?doorbell, fun hb hc => ?completion, fun hb hc hne hs => ?event⟩
  case doorbell =>
    refine ⟨_, exec_mbxCmdTail_of hw hv.symm hn hc, ?_⟩
    split
    case isTrue hfull =>
      exact ⟨frame_mbx s _, rfl, fun _ _ => rfl, rfl, fun h => absurd hfull (Nat.not_lt.2 h), fun _ => ⟨rfl, fun h => sat_succ h⟩⟩
    case isFalse hroom =>
      have hring : ringAt (setRing (withTail s v) n (moveTail (cpDown s 0) (v.toNat % 65536))) n =
          moveTail (cpDown s 0) (v.toNat % 65536) (ringAt s n) := ringAt_setRing _ n _ hlen
      rw [hring]
      exact ⟨frame_mbx s _, rfl, fun k hk => ringAt_setRing_ne (withTail s v) _ hk, rfl, fun _ => ⟨rfl, rfl⟩, fun h => absurd h hroom⟩
  case completion =>
    refine ⟨_, exec_mbxCplHead_completion hw hv.symm hn hb hc, ?_⟩
    split
    case isTrue hfull => exact ⟨frame_mbx s _, fun _ _ => rfl, rfl, fun h => absurd hfull (Nat.not_lt.2 h), fun _ => rfl⟩
    case isFalse hroom =>
      rw [ringAt_setRing s n _ hlen]
      exact ⟨frame_mbx s _, fun k hk => ringAt_setRing_ne s _ hk, rfl, fun _ => rfl, fun h => absurd h hroom⟩
  case event =>
    have hring : ringAt (moveEvHead s n (v.toNat % 65536)) n = { ringAt s n with evHead := v.toNat % 65536 } := ringAt_setRing s n _ hlen
    have hlen' : n < (moveEvHead s n (v.toNat % 65536)).mbx.rings.length := by simpa [moveEvHead, setRing] using hlen
    have hafter := reportLost_ring hlen'
    rw [hring] at hafter
    refine ⟨_, exec_mbxCplHead_event hw hv.symm hn hb hc hne hs, frame_trans (frame_mbx s _) (frame_reportLost _ n),
      by rw [hafter], by rw [hafter], fun k hk => (reportLost_ring_ne _ hk).trans (ringAt_setRing_ne s _ hk), fun h0 => ?none, fun hpos => ?some⟩
    case none =>
      rw [hafter, reportLost_of_none (by rw [hring]; exact h0)]
      exact ⟨if_pos h0, rfl⟩
    case some =>
      rw [hafter, reportLost_of_some (by rw [hring]; exact Nat.ne_of_gt hpos)]
      refine ⟨if_neg (Nat.ne_of_gt hpos), _, writeEvent_hostOut _ _ _, rd_eventRecord_code _ _ _ _ _, ?_⟩
      rw [ringAt_setRing _ _ _ hlen', hring]
      simp [Nat.max_eq_right hs]

end Sys2Proof.Machine
end

/-! # Fetches, replies and completion writes (O4, O5, O7)

R389, R390, R398, R400, R405, R407, R412. What a fetch, a reply or a written completion sends on changes the flights and their replies
only: `KeepsCmds` says that the commands in flight, all outside the mailbox but the messages, and a chosen view of the mailbox stay. -/
section
namespace Sys2Proof.Machine
open Sys2Proof

/-! ### What forwarding and replying leave alone -/

/-- The mailbox without its flights, the staging window's chunks and the kept results. -/
def Mailbox.sansFlights (b : Mailbox) : Mailbox := { b with flights := [], chunks := [], kept := [] }

/-- The same without the held completions. -/
def Mailbox.sansReplies (b : Mailbox) : Mailbox := { b.sansFlights with held := [] }

/-- At most the mailbox and what is on its way change, of the mailbox nothing that `q` sees, and no command comes or goes. -/
structure KeepsCmds {α : Type} (q : Mailbox → α) (s t : State) : Prop where
  frame : Frame [.mbx, .queue, .sent] s t
  cmds : t.mbx.flights.map (fun f => f.cmd) = s.mbx.flights.map (fun f => f.cmd)
  rest : q t.mbx = q s.mbx

namespace KeepsCmds
variable {α : Type} {q : Mailbox → α} {s t u : State}

theorem refl (q : Mailbox → α) (s : State) : KeepsCmds q s s := ⟨frame_refl _ s, rfl, rfl⟩

theorem trans (h : KeepsCmds q s t) (k : KeepsCmds q t u) : KeepsCmds q s u :=
  ⟨frame_trans h.frame k.frame, k.cmds.trans h.cmds, k.rest.trans h.rest⟩

theorem foldl {γ : Type} {g : State → γ → State} (h : ∀ s x, KeepsCmds q s (g s x)) (l : List γ) (s : State) :
    KeepsCmds q s (l.foldl g s) := by
  induction l generalizing s with
  | nil => exact refl q s
  | cons x r ih => exact (h s x).trans (ih _)

/-- What leaves the mailbox alone. -/
theorem of_frame (h : Frame [.queue, .sent] s t) : KeepsCmds q s t := by
  have hmbx : t.mbx = s.mbx := h .mbx (by simp)
  exact ⟨frame_mono h (by simp), by rw [hmbx], by rw [hmbx]⟩

/-- What changes neither the commands in flight nor anything outside the mailbox. -/
theorem of_mbx {b : Mailbox} (h : b.flights.map (fun f => f.cmd) = s.mbx.flights.map (fun f => f.cmd)) (hq : q b = q s.mbx) :
    KeepsCmds q s { s with mbx := b } := ⟨frame_mono (frame_mbx s b) (by simp), h, hq⟩

theorem setFlight {req : Nat} {g : Flight → Flight} (h : ∀ f, (g f).cmd = f.cmd)
    (hq : ∀ b l, q { b with flights := l } = q b) : KeepsCmds q s (setFlight s req g) := by
  refine of_mbx ?_ (hq _ _)
  rw [List.map_map]
  refine List.map_congr_left fun f _ => ?_
  simp only [Function.comp_apply]
  split <;> simp [h]

/-- What leaves the held completions alone, too, is as good where they may change. -/
theorem forget (h : KeepsCmds Mailbox.sansFlights s t) : KeepsCmds Mailbox.sansReplies s t := by
  have hrest := congrArg (fun b : Mailbox => { b with held := [] }) h.rest
  exact ⟨h.frame, h.cmds, hrest⟩

theorem rings (h : KeepsCmds Mailbox.sansReplies s t) : t.mbx.rings = s.mbx.rings := by
  have hrings := congrArg Mailbox.rings h.rest
  exact hrings

theorem hostOut (h : KeepsCmds Mailbox.sansReplies s t) : t.mbx.hostOut = s.mbx.hostOut := by
  have hout := congrArg Mailbox.hostOut h.rest
  exact hout

theorem nextReq (h : KeepsCmds Mailbox.sansReplies s t) : t.mbx.nextReq = s.mbx.nextReq := by
  have hnext := congrArg Mailbox.nextReq h.rest
  exact hnext

theorem ringAt (h : KeepsCmds Mailbox.sansReplies s t) (k : Nat) : ringAt t k = ringAt s k := by
  simp [Machine.ringAt, h.rings]

end KeepsCmds

/-! ### Descriptors and payloads on their way (R405, R408) -/

theorem keeps_dispatchFlight (s : State) (f : Flight) : KeepsCmds Mailbox.sansFlights s (dispatchFlight s f) := by
  unfold dispatchFlight
  split
  · exact .refl _ s
  · refine .trans (.foldl (fun t x => ?_) _ s) (.setFlight (fun _ => rfl) fun _ _ => rfl)
    split
    · exact .of_frame (frame_forwardTo _ _ _ _ _ _ _ _)
    · exact .refl _ t

theorem keeps_dispatchFlights (s : State) : KeepsCmds Mailbox.sansFlights s (dispatchFlights s) := .foldl keeps_dispatchFlight _ s

theorem keeps_pumpFlight (s : State) (f : Flight) : KeepsCmds Mailbox.sansFlights s (pumpFlight s f) := by
  unfold pumpFlight
  extract_lets first moved
  split
  · exact .refl _ s
  · refine .trans (.trans (.foldl (fun t x => ?_) first s) (.setFlight ?_ ?_)) (.of_mbx ?_ ?_)
    · exact .of_frame (frame_forwardPieces _ _ _ _ _ _ _ _)
    · exact fun _ => rfl
    · exact fun _ _ => rfl
    · rfl
    · rfl

theorem keeps_pumpPayload (s : State) : KeepsCmds Mailbox.sansFlights s (pumpPayload s) :=
  .trans (.foldl keeps_pumpFlight _ s) (.foldl keeps_pumpFlight _ _)

theorem keeps_sendOn (s : State) : KeepsCmds Mailbox.sansFlights s (pumpPayload (dispatchFlights s)) :=
  (keeps_dispatchFlights s).trans (keeps_pumpPayload _)

/-! ### Replies (R398, R400, R405, R407) -/

theorem keeps_setFlight {s : State} {req : Nat} {g : Flight → Flight} (h : ∀ f, (g f).cmd = f.cmd) :
    KeepsCmds Mailbox.sansReplies s (setFlight s req g) := .setFlight h fun _ _ => rfl

theorem keeps_holdCpl (s : State) (x : Cpl) : KeepsCmds Mailbox.sansReplies s (holdCpl s x) := .of_mbx rfl rfl

theorem keeps_settle (s : State) (req : Nat) : KeepsCmds Mailbox.sansReplies s (settle s req) := by
  unfold settle
  cases flightOf s req with
  | none => exact .refl _ s
  | some f =>
    dsimp only
    split
    · refine (keeps_setFlight (req := req) (g := fun f => { f with phase := .final }) fun _ => rfl).trans ?_
      split
      · exact keeps_holdCpl _ _
      · split
        · exact keeps_holdCpl _ _
        · exact .refl _ _
    · split
      · refine .trans ?_ (keeps_holdCpl _ _)
        exact keeps_setFlight fun _ => rfl
      · exact .refl _ s

theorem keeps_recordTarget (s : State) (req : Nat) (coord : Coord) (status reason retry : Nat) (eff result : Bytes) :
    KeepsCmds Mailbox.sansReplies s (recordTarget s req coord status reason retry eff result) := by
  refine .trans ?_ (keeps_settle _ _)
  exact keeps_setFlight fun _ => rfl

/-- The flight of a command with its reply's phase. -/
def phased (s : State) (c : Cmd) (r : Reply) : State :=
  setFlight s c.req fun f => { f with phase := if isInterim r.status then .interim else .final }

/-- The 32 bytes of a reply's completion (Table 12.7). -/
def replyBytes (s : State) (c : Cmd) (r : Reply) : Bytes :=
  cplBytes (cTag c) r.status (reasonOf c r) r.retry s.eng.beat (effOf r)

/-- A reply to a command that another device forwards, as its messages leave (R405). -/
def replySent (s : State) (c : Cmd) (r : Reply) (b : Coord) : State :=
  forwardTo (if isInterim r.status then phased s c r else forwardPieces (phased s c r) b c.req 2 c.ring 0 b (areaBytes c r))
    b c.req 3 c.ring 0 b (replyBytes s c r)

theorem frame_replySent (s : State) (c : Cmd) (r : Reply) (b : Coord) : Frame [.queue, .sent] (phased s c r) (replySent s c r b) := by
  refine frame_trans ?_ (frame_forwardTo _ _ _ _ _ _ _ _)
  split
  · exact frame_refl _ _
  · exact frame_forwardPieces _ _ _ _ _ _ _ _

theorem answer_forwarded {s : State} {c : Cmd} {f : Flight} {b : Coord} (hf : flightOf s c.req = some f) (hp : f.phase ≠ .final)
    (hb : f.bridge = some b) (r : Reply) : answer s c r =
      if isInterim r.status then replySent s c r b
      else { replySent s c r b with mbx := { (replySent s c r b).mbx with
        kept := (replySent s c r b).mbx.kept ++ [⟨c.ring, c.req, replyBytes s c r, areaBytes c r, cArg c 48 8, true⟩] } } := by
  simp only [answer, hf, hp, hb, if_false]
  rfl

theorem answer_alone {s : State} {c : Cmd} {f : Flight} (hf : flightOf s c.req = some f) (hp : f.phase ≠ .final)
    (hb : f.bridge = none) (ht : f.targets = []) (r : Reply) : answer s c r =
      holdCpl (phased s c r) ⟨c.ring, c.req, replyBytes s c r, areaBytes c r, cArg c 48 8, !isInterim r.status⟩ := by
  simp only [answer, hf, hp, hb, ht, if_false]
  rfl

/-- The flight of a command with other targets after this device's reply; a broadcast that is BUSY here is tried again (R407). -/
def rephased (s : State) (c : Cmd) (r : Reply) : State :=
  setFlight s c.req fun f =>
    { f with phase := if isInterim r.status then .interim else if r.status = 2 ∧ isBroadcast c then .fetched else .interim }

theorem answer_shared {s : State} {c : Cmd} {f : Flight} (hf : flightOf s c.req = some f) (hp : f.phase ≠ .final)
    (hb : f.bridge = none) (ht : f.targets ≠ []) (r : Reply) : answer s c r =
      recordTarget (rephased s c r) c.req (ownName s c) r.status (reasonOf c r) r.retry (effOf r) (areaBytes c r) := by
  simp only [answer, hf, hp, hb, List.isEmpty_eq_false_iff.2 ht, if_false, Bool.false_eq_true]
  rfl

theorem answer_untracked {s : State} {c : Cmd} (hf : flightOf s c.req = none) (r : Reply) : answer s c r = s := by
  simp only [answer, hf]

theorem answer_final {s : State} {c : Cmd} {f : Flight} (hf : flightOf s c.req = some f) (hp : f.phase = .final) (r : Reply) :
    answer s c r = s := by
  simp only [answer, hf, hp, if_true]

theorem keeps_phased (s : State) (c : Cmd) (r : Reply) : KeepsCmds Mailbox.sansReplies s (phased s c r) := keeps_setFlight fun _ => rfl

/-- No reply changes more than the mailbox and the messages, and of the mailbox only flights and replies. -/
theorem keeps_answer (s : State) (c : Cmd) (r : Reply) : KeepsCmds Mailbox.sansReplies s (answer s c r) := by
  cases hf : flightOf s c.req with
  | none => rw [answer_untracked hf]; exact .refl _ s
  | some f =>
    by_cases hp : f.phase = .final
    · rw [answer_final hf hp]; exact .refl _ s
    · cases hb : f.bridge with
      | some b =>
        have hsent := (keeps_phased s c r).trans (.of_frame (frame_replySent s c r b))
        rw [answer_forwarded hf hp hb]
        split
        · exact hsent
        · exact hsent.trans (.of_mbx rfl rfl)
      | none =>
        by_cases ht : f.targets = []
        · rw [answer_alone hf hp hb ht]
          exact (keeps_phased s c r).trans (keeps_holdCpl _ _)
        · rw [answer_shared hf hp hb ht]
          refine .trans ?_ (keeps_recordTarget _ _ _ _ _ _ _ _)
          exact keeps_setFlight fun _ => rfl

theorem isInterim_eq_false {n : Nat} : isInterim n = false ↔ n ≠ 1 ∧ n ≠ 3 := by
  simp [isInterim]

theorem flightOf_setFlight_some {s : State} {req : Nat} {f : Flight} {g : Flight → Flight} (hf : flightOf s req = some f)
    (hg : ∀ f, (g f).cmd.req = f.cmd.req) : flightOf (setFlight s req g) req = some (g f) := by
  rw [flightOf_setFlight s req g hg, hf, Option.map_some]

theorem flightOf_phased {s : State} {c : Cmd} {f : Flight} (hf : flightOf s c.req = some f) (r : Reply) :
    flightOf (phased s c r) c.req = some { f with phase := if isInterim r.status then .interim else .final } :=
  flightOf_setFlight_some hf fun _ => rfl

theorem flightOf_rephased {s : State} {c : Cmd} {f : Flight} (hf : flightOf s c.req = some f) (r : Reply) : flightOf (rephased s c r) c.req =
    some { f with phase := if isInterim r.status then .interim else if r.status = 2 ∧ isBroadcast c then .fetched else .interim } :=
  flightOf_setFlight_some hf fun _ => rfl

theorem replySent_mbx (s : State) (c : Cmd) (r : Reply) (b : Coord) : (replySent s c r b).mbx = (phased s c r).mbx :=
  frame_replySent s c r b .mbx (by simp)

theorem answer_forwarded_held {s : State} {c : Cmd} {f : Flight} {b : Coord} (hf : flightOf s c.req = some f) (hp : f.phase ≠ .final)
    (hb : f.bridge = some b) (r : Reply) : (answer s c r).mbx.held = s.mbx.held := by
  rw [answer_forwarded hf hp hb]
  split
  · rw [replySent_mbx]; rfl
  · change (replySent s c r b).mbx.held = _
    rw [replySent_mbx]; rfl

theorem answer_forwarded_kept {s : State} {c : Cmd} {f : Flight} {b : Coord} (hf : flightOf s c.req = some f) (hp : f.phase ≠ .final)
    (hb : f.bridge = some b) {r : Reply} (hr : isInterim r.status = false) : (answer s c r).mbx.kept =
      s.mbx.kept ++ [⟨c.ring, c.req, replyBytes s c r, areaBytes c r, cArg c 48 8, true⟩] := by
  rw [answer_forwarded hf hp hb, hr, if_neg Bool.false_ne_true]
  change (replySent s c r b).mbx.kept ++ _ = _
  rw [replySent_mbx]; rfl

/-! ### Replies of a command with several targets (R407) -/

theorem mem_insertBy {α : Type} {key : α → Nat} {a x : α} {l : List α} : x ∈ insertBy key a l ↔ x = a ∨ x ∈ l := by
  induction l with
  | nil => simp [insertBy]
  | cons y r ih =>
    unfold insertBy
    split
    · simp
    · rw [List.mem_cons, ih, List.mem_cons]
      exact or_left_comm

theorem mem_sortBy {α : Type} {key : α → Nat} {x : α} {l : List α} : x ∈ sortBy key l ↔ x ∈ l := by
  induction l with
  | nil => simp [sortBy]
  | cons y r ih => rw [sortBy, List.foldr_cons, mem_insertBy, List.mem_cons, ← ih, sortBy]

/-- As long as one target has answered nothing, nothing is due to the host (R407). -/
theorem settle_of_waiting {s : State} {req : Nat} {f : Flight} {t : Target} (hf : flightOf s req = some f) (ht : t ∈ f.targets)
    (hfinal : t.final = none) (hinterim : t.interim = none) : settle s req = s := by
  have hmem : t ∈ sortBy (fun t => t.rank) f.targets := mem_sortBy.2 ht
  have hopen : ((sortBy (fun t => t.rank) f.targets).all fun t => t.final.isSome) = false :=
    List.all_eq_false.2 ⟨t, hmem, by simp [hfinal]⟩
  have hsilent : ((sortBy (fun t => t.rank) f.targets).all fun t => t.final.isSome || t.interim.isSome) = false :=
    List.all_eq_false.2 ⟨t, hmem, by simp [hfinal, hinterim]⟩
  simp [settle, hf, hopen, hsilent]

theorem recordTarget_of_waiting {s : State} {req : Nat} {f : Flight} {t : Target} {coord : Coord} (hf : flightOf s req = some f)
    (ht : t ∈ f.targets) (hc : t.coord ≠ coord) (hfinal : t.final = none) (hinterim : t.interim = none) (status reason retry : Nat)
    (eff result : Bytes) : (recordTarget s req coord status reason retry eff result).mbx.held = s.mbx.held := by
  unfold recordTarget
  extract_lets upd
  have hupd : t ∈ f.targets.map (upd f) := List.mem_map.2 ⟨t, ht, if_pos hc⟩
  rw [settle_of_waiting (f := { f with targets := f.targets.map (upd f) }) (t := t) ?_ hupd hfinal hinterim]
  · rfl
  · exact flightOf_setFlight_some hf fun _ => rfl

theorem answer_shared_held {s : State} {c : Cmd} {f : Flight} {t : Target} (hf : flightOf s c.req = some f) (hp : f.phase ≠ .final)
    (hb : f.bridge = none) (ht : t ∈ f.targets) (hc : t.coord ≠ ownName s c) (hfinal : t.final = none) (hinterim : t.interim = none)
    (r : Reply) : (answer s c r).mbx.held = s.mbx.held := by
  rw [answer_shared hf hp hb (List.ne_nil_of_mem ht)]
  exact recordTarget_of_waiting (flightOf_rephased hf r) ht hc hfinal hinterim _ _ _ _ _

/-- Settles O7, by who has fetched the command and for whom. -/
theorem replyForms : Obligations.ReplyForms := by
  intro s c r f hf hp
  have hkeeps := keeps_answer s c r
  refine ⟨hkeeps.frame, hkeeps.rings, hkeeps.hostOut, hkeeps.cmds, fun hb ht => ?alone, fun b hb => ?forwarded,
    fun hb ⟨t, ht, hc, hfinal, hinterim⟩ => answer_shared_held hf hp hb ht hc hfinal hinterim r⟩
  case alone =>
    rw [answer_alone hf hp hb ht]
    refine ⟨frame_mbx s _, _, rfl, rfl, rfl, rfl, rfl, rfl, ?_, fun hfinal => ⟨_, flightOf_phased hf r, ?_⟩⟩
    · rw [← isInterim_eq_false, Bool.not_eq_true']
    · rw [Bool.not_eq_true'] at hfinal
      simp [hfinal]
  case forwarded =>
    exact ⟨answer_forwarded_held hf hp hb r, fun h1 h3 =>
      ⟨_, answer_forwarded_kept hf hp hb (isInterim_eq_false.2 ⟨h1, h3⟩), rfl, rfl⟩⟩

/-! ### The fetch of a descriptor (R389, R405) -/

/-- The command that the next descriptor of a ring becomes. -/
def nextCmd (s : State) (ring : Nat) (desc payload : Bytes) : Cmd := ⟨s.mbx.nextReq, ring, fit 64 desc, payload⟩

/-- A state whose ring has advanced, with one more flight under the next request number. -/
def takesNext (s : State) (ring : Nat) (fl : Flight) : State :=
  let t := setRing s ring fun r => { r with cmdHead := (r.cmdHead + 1) % 65536, busy := busyAfter r.busy ((r.cmdHead + 1) % 65536) }
  { t with mbx := { t.mbx with nextReq := (s.mbx.nextReq + 1) % 2 ^ 32, flights := s.mbx.flights ++ [fl] } }

/-- After its flight stands, a fetch only answers it or sends it on. -/
theorem exec_descriptorFetch_of {s : State} {ring : Nat} (h : mayFetch s ring = true) (desc payload : Bytes) :
    ∃ t fl, exec (.descriptorFetch ring desc payload) s = .next t ∧ fl.cmd = nextCmd s ring desc payload ∧
      KeepsCmds Mailbox.sansReplies (takesNext s ring fl) t := by
  change ∃ t fl, execDescriptorFetch ring desc payload s = .next t ∧ _
  rw [execDescriptorFetch, if_neg (by simp [h])]
  extract_lets r req c s1 ts alone fl s2
  refine ⟨_, fl, rfl, rfl, ?_⟩
  split
  · refine .trans ?_ (keeps_answer _ _ _)
    exact keeps_setFlight fun _ => rfl
  · split
    · exact keeps_answer _ _ _
    · split
      · split
        · exact .refl _ _
        · split
          · exact keeps_answer _ _ _
          · exact .refl _ _
      · exact (keeps_sendOn _).forget

/-- Settles O4: what a fetch leaves of the mailbox is what `takesNext` makes of it. -/
theorem fetchTakesNext : Obligations.FetchTakesNext := by
  intro s ring desc payload hmay hl hring
  obtain ⟨t, fl, hexec, hcmd, hkeeps⟩ := exec_descriptorFetch_of hmay desc payload
  refine ⟨t, hexec, frame_trans (frame_mono (frame_mbx s _) (by simp)) hkeeps.frame, ?_, fun k hk => ?_, hkeeps.nextReq, ?_⟩
  · rw [hkeeps.ringAt]
    exact congrArg RingPair.cmdHead (ringAt_setRing s ring _ (by omega))
  · rw [hkeeps.ringAt]
    exact ringAt_setRing_ne s _ hk
  · rw [hkeeps.cmds, takesNext, List.map_append, List.map_singleton, hcmd]
    rfl

/-! ### The write of a completion (R390, R412) -/

/-- The slot that a ring's next completion goes into. -/
def cplSlot (r : RingPair) : Nat := r.cplBase + 32 * (r.cplTail % max 1 (2 * r.slots))

/-- The writes of a completion to host memory, its beat stamp last (R390). -/
def cplWrites (r : RingPair) (x : Cpl) : List HostWrite :=
  (if x.result = [] then [] else [⟨x.resultAddr, x.result⟩]) ++
    [⟨cplSlot r, slice x.bytes 0 8⟩, ⟨cplSlot r + 16, slice x.bytes 16 16⟩, ⟨cplSlot r + 8, slice x.bytes 8 8⟩]

/-- The state in which a completion of a ring has been written. -/
def written (s : State) (ring : Nat) (x : Cpl) : State :=
  let t := setRing s ring fun r => { r with cplTail := (r.cplTail + 1) % 65536 }
  enableRings { t with mbx := { t.mbx with
    held := s.mbx.held.erase x, hostOut := s.mbx.hostOut ++ cplWrites (ringAt s ring) x, notices := s.mbx.notices + 1 } } x.req

/-- The acknowledgements of a final completion to the other targets of its command (R406). -/
def tellTargets (me : Coord) (ring req : Nat) (f : Flight) (s : State) : State :=
  (f.targets.filter fun t => !decide (t.phys = me)).foldl (fun s t => forwardTo s t.phys req 4 ring 0 (selfPhys s) []) s

/-- The end of a flight whose final completion is written: the targets hear of it, and what has waited is sent on (R391, R406). -/
def endFlight (me : Coord) (ring req : Nat) (s : State) : State :=
  match flightOf s req with
  | none => s
  | some f => pumpPayload (dispatchFlights (dropFlight (tellTargets me ring req f s) req))

theorem hostNotice_hostWrites (s : State) (x : Cpl) (a0 a1 a2 : Nat) (b0 b1 b2 : Bytes) :
    hostNotice (hostWrite (hostWrite (hostWrite (if x.result.isEmpty then s else hostWrite s x.resultAddr x.result) a0 b0) a1 b1) a2 b2) =
      { s with mbx := { s.mbx with
        hostOut := s.mbx.hostOut ++ ((if x.result = [] then [] else [⟨x.resultAddr, x.result⟩]) ++ [⟨a0, b0⟩, ⟨a1, b1⟩, ⟨a2, b2⟩]),
        notices := s.mbx.notices + 1 } } := by
  by_cases h : x.result = [] <;> simp [hostWrite, hostNotice, h]

theorem completionWrite_waits {s : State} {ring : Nat} {x : Cpl} {stampZero : Bool}
    (hx : s.mbx.held.find? (fun y => decide (y.ring = ring)) = some x)
    (h : stampZero = false ∨ cpDown s 0 = true ∨ 2 * (ringAt s ring).slots ≤ ringCount (ringAt s ring).cplHead (ringAt s ring).cplTail) :
    exec (.completionWrite ring stampZero) s = .next s := by
  change execCompletionWrite ring stampZero s = _
  simp only [execCompletionWrite, hx]
  rw [if_pos]
  rcases h with h | h | h <;> simp [h]

theorem completionWrite_writes {s : State} {ring : Nat} {x : Cpl} (hx : s.mbx.held.find? (fun y => decide (y.ring = ring)) = some x)
    (hc : (ringAt s ring).configured = true) (hup : cpDown s 0 = false)
    (hroom : ringCount (ringAt s ring).cplHead (ringAt s ring).cplTail < 2 * (ringAt s ring).slots) :
    exec (.completionWrite ring true) s =
      .next (if x.final then endFlight (selfPhys s) ring x.req (written s ring x) else written s ring x) := by
  change execCompletionWrite ring true s = _
  simp only [execCompletionWrite, hx]
  rw [if_neg (by simp [hc, hup, hroom]), hostNotice_hostWrites]
  cases x.final <;> rfl

/-- A ring pair that waits for the completion of a request starts (R412). -/
def startRing (req : Nat) (r : RingPair) : RingPair :=
  if r.enabling = some req then { r with configured := true, enabling := none } else r

theorem ringAt_enableRings (s : State) (req k : Nat) : ringAt (enableRings s req) k = startRing req (ringAt s k) := by
  simp only [ringAt, enableRings, List.getD_eq_getElem?_getD, List.getElem?_map]
  cases s.mbx.rings[k]? <;> rfl

theorem startRing_of {req : Nat} {r : RingPair} (h : r.enabling = some req) :
    startRing req r = { r with configured := true, enabling := none } := if_pos h

theorem startRing_of_ne {req : Nat} {r : RingPair} (h : r.enabling ≠ some req) : startRing req r = r := if_neg h

theorem startRing_cplTail (req : Nat) (r : RingPair) : (startRing req r).cplTail = r.cplTail := by
  unfold startRing
  split <;> rfl

theorem ringAt_written_ne (s : State) {ring k : Nat} (x : Cpl) (h : k ≠ ring) :
    ringAt (written s ring x) k = startRing x.req (ringAt s k) := by
  rw [written, ringAt_enableRings]
  exact congrArg (startRing x.req) (ringAt_setRing_ne s _ h)

theorem ringAt_written_cplTail {s : State} {ring : Nat} (x : Cpl) (h : ring < s.mbx.rings.length) :
    (ringAt (written s ring x) ring).cplTail = ((ringAt s ring).cplTail + 1) % 65536 := by
  rw [written, ringAt_enableRings, startRing_cplTail]
  exact congrArg RingPair.cplTail (ringAt_setRing s ring _ h)

theorem keeps_tellTargets (me : Coord) (ring req : Nat) (f : Flight) (s : State) :
    KeepsCmds Mailbox.sansFlights s (tellTargets me ring req f s) :=
  .foldl (fun _ _ => .of_frame (frame_forwardTo _ _ _ _ _ _ _ _)) _ s

/-- The end of a flight leaves the rest of the mailbox as it was, and no flight of its request (R406). -/
theorem endFlight_ends (me : Coord) (ring req : Nat) (s : State) :
    Frame [.mbx, .queue, .sent] s (endFlight me ring req s) ∧ (endFlight me ring req s).mbx.sansFlights = s.mbx.sansFlights ∧
      ∀ f ∈ (endFlight me ring req s).mbx.flights, f.cmd.req ≠ req := by
  unfold endFlight
  cases hf : flightOf s req with
  | none =>
    refine ⟨frame_refl _ s, rfl, fun f hmem => ?_⟩
    simpa using List.find?_eq_none.1 hf f hmem
  | some f =>
    have htold := keeps_tellTargets me ring req f s
    have hsent := keeps_sendOn (dropFlight (tellTargets me ring req f s) req)
    refine ⟨frame_trans (frame_trans htold.frame (frame_mono (frame_mbx _ _) (by simp))) hsent.frame, hsent.rest.trans htold.rest,
      fun g hg => ?_⟩
    have hcmd := List.mem_map_of_mem (f := fun f => f.cmd) hg
    rw [hsent.cmds, List.mem_map] at hcmd
    obtain ⟨h, hh, heq⟩ := hcmd
    obtain ⟨-, hne⟩ := List.mem_filter.1 hh
    rw [← heq]
    simpa using hne

/-- After the write of a completion only its flight ends, and that where the completion was final. -/
theorem completionWrite_leaves {s : State} {ring : Nat} {x : Cpl} (hx : s.mbx.held.find? (fun y => decide (y.ring = ring)) = some x)
    (hc : (ringAt s ring).configured = true) (hup : cpDown s 0 = false)
    (hroom : ringCount (ringAt s ring).cplHead (ringAt s ring).cplTail < 2 * (ringAt s ring).slots) :
    ∃ t, exec (.completionWrite ring true) s = .next t ∧ Frame [.mbx, .queue, .sent] (written s ring x) t ∧
      t.mbx.sansFlights = (written s ring x).mbx.sansFlights ∧ (x.final = true → ∀ f ∈ t.mbx.flights, f.cmd.req ≠ x.req) := by
  rw [completionWrite_writes hx hc hup hroom]
  cases hfinal : x.final with
  | false => exact ⟨_, rfl, frame_refl _ _, rfl, nofun⟩
  | true =>
    obtain ⟨hframe, hrest, hgone⟩ := endFlight_ends (selfPhys s) ring x.req (written s ring x)
    exact ⟨_, rfl, hframe, hrest, fun _ => hgone⟩

/-- Settles O5: what is written is `written`, and without a free slot, with CP0 in reset or a stamp not zero it waits. -/
theorem completionWritten : Obligations.CompletionWritten := by
  intro s ring x stampZero hl hring hx hc
  refine ⟨fun hz hup hroom => ?_, completionWrite_waits hx⟩
  subst hz
  obtain ⟨t, hexec, hframe, hrest, hgone⟩ := completionWrite_leaves hx hc hup hroom
  have hside {α : Type} (q : Mailbox → α) (hq : ∀ b : Mailbox, q b.sansFlights = q b) : q t.mbx = q (written s ring x).mbx := by
    rw [← hq t.mbx, hrest, hq]
  have hring' (k : Nat) : ringAt t k = ringAt (written s ring x) k := hside (fun b => b.rings.getD k RingPair.off) fun _ => rfl
  have hslot : cplSlot (ringAt s ring) = (ringAt s ring).cplBase + 32 * ((ringAt s ring).cplTail % (2 * (ringAt s ring).slots)) := by
    rw [cplSlot, Nat.max_eq_right (by omega)]
  refine ⟨t, cplSlot (ringAt s ring), hexec, frame_trans (frame_mono (frame_mbx s _) (by simp)) hframe, hslot, ?_,
    hside Mailbox.notices fun _ => rfl, hside Mailbox.held fun _ => rfl, ?_, fun k hk hne => ?_, fun k hk heq => ?_, hgone⟩
  · rw [hside Mailbox.hostOut fun _ => rfl, List.append_assoc]
    rfl
  · rw [hring', ringAt_written_cplTail x (by omega)]
  · rw [hring', ringAt_written_ne s x hk, startRing_of_ne hne]
  · rw [hring', ringAt_written_ne s x hk, startRing_of heq]

end Sys2Proof.Machine
end

/-! # The tests before any effect (O6)

R391, R392, R399, R412, R421, R442. Every host command goes through `startCmd`, so what that does with a command that must wait, or that
fails a test, holds of all of them. Then the tests themselves, in the order of R399. -/
section
namespace Sys2Proof.Machine
open Sys2Proof

/-! ### The start of a command (R391, R399) -/

theorem startCmd_of_blocked {s : State} {c : Cmd} (hf : (flightOf s c.req).isSome = true) (hb : blocked s c = true)
    (body : State → State) : startCmd s c body = s := by
  simp [startCmd, track_of hf, hb]

theorem startCmd_of_test {s : State} {c : Cmd} {r : Reply} (hf : (flightOf s c.req).isSome = true) (hb : blocked s c = false)
    (hr : preTest s c = some r) (body : State → State) : startCmd s c body = answer s c r := by
  simp [startCmd, track_of hf, hb, hr]

/-- Every row that carries a host command is a start of that command. -/
theorem exec_of_commandOf {i : Instr} {c : Cmd} (h : commandOf i = some c) :
    ∃ body : State → State, ∀ s, exec i s = .next (startCmd s c body) := by
  unfold commandOf at h
  split at h <;> cases h <;> exact ⟨_, fun _ => rfl⟩

/-! ### The tests in their order (R399) -/

theorem preTest_unknown {s : State} {c : Cmd} (h : opcodeKnown (cOp c) = false) : preTest s c = some ⟨5, 0, 0, [1, 0], none⟩ := by
  simp [preTest, h]

theorem preTest_missing {s : State} {c : Cmd} (hk : opcodeKnown (cOp c) = true) (hf : functionExists s (cFunction c) = false) :
    preTest s c = some (if cOp c = 0x0401 ∧ isBroadcast c ∧ cFunction c ≤ 4 then replyRefused s c 2 0xFFFF
      else replyAbsent 0 ⟨255, 255, 255, 255⟩ (cFunction c)) := by
  simp [preTest, hk, hf]

/-- DEV.INFO is taken on ring 0 alone (Table 12.3). -/
theorem ringAccepts_devInfo {ring : Nat} : ringAccepts ring 0x0101 = true ↔ ring = 0 := by
  simp [ringAccepts]

theorem preTest_devInfo {s : State} {c : Cmd} (ho : cOp c = 0x0101) (hr : c.ring = 0) (hf : functionExists s (cFunction c) = true) :
    preTest s c = none := by
  have hknown : opcodeKnown 0x0101 = true := by decide
  simp [preTest, ho, hknown, hf, hr, ringAccepts_devInfo]

theorem not_served_always {c : Cmd} (hi : ¬(cOp c = 0x0101 ∧ c.ring = 0)) : ¬(cOp c = 0x0101 ∧ ringAccepts c.ring (cOp c) = true) :=
  fun ⟨ho, ha⟩ => hi ⟨ho, ringAccepts_devInfo.1 (ho ▸ ha)⟩

/-! Tests 3 and 4, of a command whose opcode is known and whose function exists, and that is no DEV.INFO on ring 0. -/
section Existing
variable {s : State} {c : Cmd} (hk : opcodeKnown (cOp c) = true) (hf : functionExists s (cFunction c) = true) (hr : c.ring ≠ 6)
  (hi : ¬(cOp c = 0x0101 ∧ c.ring = 0))

include hk hf hr hi

theorem preTest_failed (hs : s.pow.state = 5) : preTest s c = some (replyFailed 0 []) := by
  simp only [preTest, hk, hf, Bool.not_true, Bool.false_eq_true, if_false, hr, false_and, not_served_always hi, hs, if_true]

theorem preTest_not_ready (hs : s.pow.state ≠ 5) (h1 : s.pow.state ≠ 1) (h2 : s.pow.state ≠ 2) :
    ∃ beats, preTest s c = some (replyBusy beats) := by
  simp only [preTest, hk, hf, Bool.not_true, Bool.false_eq_true, if_false, hr, false_and, not_served_always hi, hs]
  exact ⟨_, if_pos ⟨h1, h2⟩⟩

variable (hs : s.pow.state = 1 ∨ s.pow.state = 2)
include hs

/-- A ring refuses a command of another category or for another function (R392, R412). -/
theorem preTest_ring (h : ringAccepts c.ring (cOp c) = false ∨ (c.ring ≠ 0 ∧ cFunction c ≠ c.ring)) :
    ∃ off, preTest s c = some (replyRefused s c 3 off) := by
  have h5 : s.pow.state ≠ 5 := by omega
  have hready : ¬(s.pow.state ≠ 1 ∧ s.pow.state ≠ 2) := by omega
  simp only [preTest, hk, hf, Bool.not_true, Bool.false_eq_true, if_false, hr, false_and, not_served_always hi, h5, hready]
  cases ha : ringAccepts c.ring (cOp c) with
  | false => exact ⟨0, rfl⟩
  | true => exact ⟨8, if_pos (h.resolve_left (by simp [ha]))⟩

/-- Ring 0 has no job commands for a confidential function (R442). -/
theorem preTest_confidential (h0 : c.ring = 0) (hcat : cOp c / 256 = 4) (h1 : 1 ≤ cFunction c) (h4 : cFunction c ≤ 4)
    (hc : (fnAt s (cFunction c - 1)).confidential = true) : preTest s c = some (replyRefused s c 3 0xFFFF) := by
  have h5 : s.pow.state ≠ 5 := by omega
  have hready : ¬(s.pow.state ≠ 1 ∧ s.pow.state ≠ 2) := by omega
  have hop : cOp c ≠ 0x0101 := fun ho => hi ⟨ho, h0⟩
  have haccepts : ringAccepts c.ring (cOp c) = true := by simp [ringAccepts, h0]
  have hfn : cJobFn c = cFunction c := by simp [cJobFn, hr]
  have hconf : (fnAt s (cIx c)).confidential = true := by rw [cIx, hfn]; exact hc
  have hbound : isJobBound (cOp c) = true := by simp [isJobBound, hcat]
  simp only [preTest, hk, hf, Bool.not_true, Bool.false_eq_true, if_false, hr, false_and, hop, h5, hready, haccepts]
  rw [if_neg (fun h => h.1 h0), if_pos ⟨.inl h0, hbound, hfn ▸ h1, hfn ▸ h4, hconf⟩]

end Existing

theorem replyBusy_retry (beats : Nat) : 1 ≤ (replyBusy beats).retry ∧ (replyBusy beats).retry ≤ 65535 := by
  have hclamp : (replyBusy beats).retry = max 1 (min 65535 beats) := clamp_eq_max_min (by decide) beats
  omega

/-- Settles O6: the start that all host commands share, then test by test. -/
theorem testsBeforeEffects : Obligations.TestsBeforeEffects := by
  refine ⟨fun i c s hc hf => ?start, fun s c => ⟨fun hk => ⟨_, preTest_unknown hk, rfl⟩, fun hk hf => ⟨_, preTest_missing hk hf, fun hload => ?refused, fun hload => ?absent⟩,
    fun ho hr hf => preTest_devInfo ho hr hf, fun hk hf hr hi => ⟨fun hs => ⟨_, preTest_failed hk hf hr hi hs, rfl⟩, fun hs h1 h2 => ?busy,
      fun hs h => ?ring, fun hs h0 _ hcat h1 h4 hconf => ⟨_, preTest_confidential hk hf hr hi hs h0 hcat h1 h4 hconf, rfl, rfl⟩⟩⟩⟩
  case start =>
    obtain ⟨body, hexec⟩ := exec_of_commandOf hc
    exact ⟨fun hb => by rw [hexec, startCmd_of_blocked hf hb], fun r hb hr => by rw [hexec, startCmd_of_test hf hb hr]⟩
  case refused =>
    rw [if_pos hload]
    exact ⟨rfl, rfl⟩
  case absent => rw [if_neg hload]; rfl
  case busy =>
    obtain ⟨beats, hbusy⟩ := preTest_not_ready hk hf hr hi hs h1 h2
    exact ⟨_, hbusy, rfl, replyBusy_retry beats⟩
  case ring =>
    obtain ⟨off, hring⟩ := preTest_ring hk hf hr hi hs h
    exact ⟨_, hring, rfl, rfl⟩

end Sys2Proof.Machine
end

/-! # FN.ENABLE, TEL commands and delivered events (O13, O54)

R387, R412, R423; R403, R404, R436, R459, R494. Each command is its effect on one ring pair, and its reply. An event reaches the bridge in
a state whose mailbox is still the old one, and goes into one event ring, is counted, or is held. -/
section
namespace Sys2Proof.Machine
open Sys2Proof

/-! ### FN.ENABLE (R387, R412, R423) -/

theorem exec_fnEnable {s : State} {c : Cmd} (h : MayStart s c) : exec (.fnEnable c) s = .next (fnEnable s c) :=
  congrArg Host.Outcome.next (startCmd_of h _)

theorem fnEnable_f0 {s : State} {c : Cmd} (h : cFunction c = 0) : fnEnable s c = answer s c (replyRefused s c 2 8) :=
  unlessRefused_of_not (by simp [h]) s c 2 8 _

/-- Whether another device forwards a command, which is then answered there (R405). -/
def fromAfar (s : State) (c : Cmd) : Bool := match flightOf s c.req with | some f => f.bridge.isSome | none => false

theorem fromAfar_of {s : State} {c : Cmd} {g : Flight} (h : flightOf s c.req = some g) : fromAfar s c = g.bridge.isSome := by
  simp [fromAfar, h]

/-- The ring pair that FN.ENABLE configures: at once for a command from afar, else when its completion is written. -/
def enabledRing (far : Bool) (c : Cmd) (r : RingPair) : RingPair :=
  { r with configured := far, enabling := if far then none else some c.req, cmdBase := cArg c 32 8, cplBase := cArg c 40 8,
           slots := pow2Up (clamp 8 256 (cArg c 48 2)), cmdHead := 0, cmdTail := 0, cplHead := 0, cplTail := 0, busy := [] }

theorem fnEnable_enables {s : State} {c : Cmd} (hn : cFunction c ≠ 0) (h : cArg c 50 1 = 1) : fnEnable s c =
    answer (setRing s (cFunction c) (enabledRing (fromAfar s c) c)) c (replyOk (natLE 2 (pow2Up (clamp 8 256 (cArg c 48 2))) ++ [1])) := by
  unfold fnEnable
  dsimp only
  rw [unlessRefused_of (by simp [hn]), unlessRefused_of (by simp [h]), if_pos h]
  rfl

theorem fnEnable_disables {s : State} {c : Cmd} (hn : cFunction c ≠ 0) (h : cArg c 50 1 = 0)
    (hidle : ∀ f ∈ s.mbx.flights, f.bridge ≠ none ∨ f.cmd.ring ≠ cFunction c) : fnEnable s c =
      answer (setRing s (cFunction c) fun r => { r with configured := false, enabling := none, slots := 0 }) c (replyOk [0, 0, 0]) := by
  have hnone : (s.mbx.flights.any fun f => f.bridge.isNone && decide (f.cmd.ring = cFunction c)) = false := by
    refine List.any_eq_false.2 fun f hf => ?_
    rcases hidle f hf with hb | hr
    · simp [hb]
    · simp [hr]
  unfold fnEnable
  dsimp only
  rw [unlessRefused_of (by simp [hn]), unlessRefused_of (by simp [h]), if_neg (by omega), hnone, if_neg Bool.false_ne_true]

/-- Settles O13: F0, an enable, and a disable with no command of the pair in flight. -/
theorem enableConfiguresRing : Obligations.EnableConfiguresRing := by
  intro s c hmay hl hfn
  have hlen : cFunction c < s.mbx.rings.length := by omega
  rw [exec_fnEnable hmay]
  refine ⟨fun h0 => by rw [fnEnable_f0 h0], fun hn h => ?enable, fun hn h hidle => ?disable⟩
  case enable =>
    obtain ⟨hmem, hup, -⟩ := pow2Up_clamp (cArg c 48 2)
    refine ⟨_, _, congrArg Host.Outcome.next (fnEnable_enables hn h), frame_mbx s _, hmem, hup, ?_⟩
    rw [ringAt_setRing s _ _ hlen]
    refine ⟨fun g hg => ⟨fun hb => ?_, fun hb => ?_⟩, rfl, rfl, rfl, rfl, rfl, rfl, rfl, fun k hk => ringAt_setRing_ne s _ hk⟩
    · rw [fromAfar_of hg, hb]
      exact ⟨rfl, rfl⟩
    · rw [fromAfar_of hg, Option.isSome_iff_ne_none.2 hb]
      exact ⟨rfl, rfl⟩
  case disable =>
    refine ⟨_, congrArg Host.Outcome.next (fnEnable_disables hn h hidle), frame_mbx s _, ?_, fun k hk => ringAt_setRing_ne s _ hk⟩
    rw [ringAt_setRing s _ _ hlen]

/-! ### TEL.READ and TEL.SUBSCRIBE (R404, R436, R459) -/

theorem exec_telRead {s : State} {c : Cmd} (h : MayStart s c) : exec (.telRead c) s = .next (telRead s c) :=
  congrArg Host.Outcome.next (startCmd_of h _)

theorem telRead_served {s : State} {c : Cmd} (h : cArg c 32 1 ≤ 6) : telRead s c =
    answer (afterRead s (cArg c 32 1)) c (replyRes (natLE 8 s.eng.beat) (telRecord s (cArg c 32 1) (cIx c))) :=
  unlessRefused_of (by simp [h]) _ _ _ _ _

theorem telRead_refused {s : State} {c : Cmd} (h : 6 < cArg c 32 1) : telRead s c = answer s c (replyRefused s c 4 32) :=
  unlessRefused_of_not (by simp [h]) _ _ _ _ _

theorem afterRead_of_ne {g : Nat} (h : g ≠ 0) (s : State) : afterRead s g = s := if_neg fun hg => h hg.1

theorem frame_afterRead (s : State) (g : Nat) : Frame [.pow] s (afterRead s g) := by
  unfold afterRead
  split
  · apply frame_of <;> simp
  · exact frame_refl _ s

theorem exec_telSubscribe {s : State} {c : Cmd} (h : MayStart s c) : exec (.telSubscribe c) s = .next (telSubscribe s c) :=
  congrArg Host.Outcome.next (startCmd_of h _)

/-- The slots of the event ring that a TEL.SUBSCRIBE asks for; 0 remove it (R404). -/
def eventSlots (c : Cmd) : Nat := if cArg c 40 2 = 0 then 0 else pow2Up (clamp 8 256 (cArg c 40 2))

/-- A ring pair with that event ring. -/
def subscribedRing (c : Cmd) (r : RingPair) : RingPair :=
  { r with evBase := cArg c 32 8, evSlots := eventSlots c, evHead := 0, evTail := 0,
           evInfo := bit (cArg c 42 1 % 4) 0 && decide (eventSlots c ≠ 0), evWarn := bit (cArg c 42 1 % 4) 1 && decide (eventSlots c ≠ 0),
           evDropped := if eventSlots c = 0 then 0 else r.evDropped }

theorem telSubscribe_eq (s : State) (c : Cmd) : telSubscribe s c =
    answer (if eventSlots c = 0 then setRing s c.ring (subscribedRing c) else reportLost (setRing s c.ring (subscribedRing c)) c.ring) c
      (replyOk (natLE 2 (eventSlots c) ++ natLE 1 (if eventSlots c = 0 then 0 else cArg c 42 1 % 4))) := rfl

theorem telSubscribe_removes {s : State} {c : Cmd} (h : eventSlots c = 0) :
    telSubscribe s c = answer (setRing s c.ring (subscribedRing c)) c (replyOk [0, 0, 0]) := by
  rw [telSubscribe_eq, if_pos h, if_pos h, h]
  rfl

/-- A ring that has lost no events takes its event ring without a report. -/
theorem telSubscribe_gives {s : State} {c : Cmd} (h : eventSlots c ≠ 0) (hl : c.ring < s.mbx.rings.length)
    (hd : (ringAt s c.ring).evDropped = 0) : telSubscribe s c =
      answer (setRing s c.ring (subscribedRing c)) c (replyOk (natLE 2 (eventSlots c) ++ natLE 1 (cArg c 42 1 % 4))) := by
  have hnone : (ringAt (setRing s c.ring (subscribedRing c)) c.ring).evDropped = 0 := by
    rw [ringAt_setRing s _ _ hl]
    exact (if_neg h).trans hd
  rw [telSubscribe_eq, if_neg h, if_neg h, reportLost_of_none hnone]

theorem bit_mod_four (v : Nat) {i : Nat} (h : i < 2) : bit (v % 4) i = v.testBit i :=
  (Nat.testBit_mod_two_pow v 2 i).trans (by simp [h])

theorem telRead_reads {s : State} {c : Cmd} (h : MayStart s c) :
    (cArg c 32 1 ≤ 6 → ∃ u, exec (.telRead c) s = .next (answer u c (replyRes (natLE 8 s.eng.beat) (telRecord s (cArg c 32 1) (cIx c)))) ∧
      Frame [.pow] s u ∧ (cArg c 32 1 ≠ 0 → u = s)) ∧
    (6 < cArg c 32 1 → exec (.telRead c) s = .next (answer s c (replyRefused s c 4 32))) := by
  rw [exec_telRead h]
  exact ⟨fun hg => ⟨_, congrArg Host.Outcome.next (telRead_served hg), frame_afterRead s _, fun hne => afterRead_of_ne hne s⟩,
    fun hg => congrArg Host.Outcome.next (telRead_refused hg)⟩

/-! ### Event records (Table 12.9) -/

theorem slice_length (b : Bytes) (off n : Nat) : (slice b off n).length = n := by
  simp only [slice, List.length_append, List.length_replicate, List.length_take, List.length_drop]
  omega

section Record
variable (s : State) (fn sev code : Nat) (body : Bytes)

theorem eventRecord_length : (eventRecord s fn sev code body).length = 64 := by
  simp [eventRecord, natLE_length, coordBytes, fit, slice_length]

theorem rd_eventRecord_type : rd (eventRecord s fn sev code body) 0 1 = 7 := by
  have h := rd_natLE [] (natLE 1 (fn + 16 * sev) ++ (natLE 2 code ++ (natLE 8 s.eng.beat ++ (coordBytes (originOf s (fn - 1)) ++ fit 48 body)))) 1 7
  simpa [eventRecord] using h

theorem rd_eventRecord_beat : rd (eventRecord s fn sev code body) 4 8 = s.eng.beat % 2 ^ 64 := by
  have h := rd_natLE (natLE 1 7 ++ natLE 1 (fn + 16 * sev) ++ natLE 2 code) (coordBytes (originOf s (fn - 1)) ++ fit 48 body) 8 s.eng.beat
  simpa [eventRecord, natLE_length] using h

variable {fn sev}

/-- The function number and the severity share a byte. -/
theorem rd_eventRecord_class (hf : fn ≤ 8) (hs : sev ≤ 3) : rd (eventRecord s fn sev code body) 1 1 = fn + 16 * sev := by
  have h := rd_natLE (natLE 1 7) (natLE 2 code ++ (natLE 8 s.eng.beat ++ (coordBytes (originOf s (fn - 1)) ++ fit 48 body))) 1 (fn + 16 * sev)
  rw [Nat.mod_eq_of_lt (by omega)] at h
  simpa [eventRecord, natLE_length] using h

end Record

/-! ### Delivery (R404) -/

/-- The count of lost events stays at 0xFFFF (R404). -/
theorem countLost_eventsLost (s : State) : (countLost s).mbx.eventsLost = min 0xFFFF (s.mbx.eventsLost + 1) := by
  change sat 0xFFFF (s.mbx.eventsLost + 1) = _
  unfold sat
  split <;> omega

theorem countLost_hostOut (s : State) : (countLost s).mbx.hostOut = s.mbx.hostOut := rfl

section Delivery
variable {s : State} {rec : Bytes} {fn sev : Nat} (hr : rd rec 1 1 = fn + 16 * sev) (hf : fn ≤ 8)
include hr hf

theorem deliverEvent_no_ring (h : (ringAt s fn).evSlots = 0) (h0 : (ringAt s 0).evSlots = 0) : deliverEvent s rec = countLost s := by
  have hfn : (fn + 16 * sev) % 16 = fn := by omega
  simp [deliverEvent, hr, hfn, h, h0]

/-- An event for a function with an event ring of its own. -/
theorem deliverEvent_own_ring (h : 0 < (ringAt s fn).evSlots) : deliverEvent s rec =
    if wantsClass (ringAt s fn) sev = false then s
    else if (ringAt s fn).evSlots ≤ ringCount (ringAt s fn).evHead (ringAt s fn).evTail + 1 then
      countLost (setRing s fn fun r => { r with evDropped := r.evDropped + 1 })
    else writeEvent s fn rec := by
  have hfn : (fn + 16 * sev) % 16 = fn := by omega
  have hsev : (fn + 16 * sev) / 16 = sev := by omega
  simp [deliverEvent, hr, hfn, hsev, h, Nat.ne_of_gt h]

end Delivery

/-! ### The alert of a fault (R494) -/

/-- The state in which an event of a severity has raised its alert: a fault latches cause 4. -/
def alerted (s : State) (sev : Nat) : State := if sev = 2 then setAlert s 4 else s

theorem frame_alerted (s : State) (sev : Nat) : Frame [.face] s (alerted s sev) := by
  unfold alerted
  split
  · apply frame_of <;> simp
  · exact frame_refl _ s

theorem alerted_mbx (s : State) (sev : Nat) : (alerted s sev).mbx = s.mbx := frame_alerted s sev .mbx (by simp)

theorem ringAt_alerted (s : State) (sev k : Nat) : ringAt (alerted s sev) k = ringAt s k := by simp [ringAt, alerted_mbx]

theorem cpDown_alerted (s : State) (sev n : Nat) : cpDown (alerted s sev) n = cpDown s n := by
  have hpow : (alerted s sev).pow = s.pow := frame_alerted s sev .pow (by simp)
  simp [cpDown, hpow]

theorem alerted_of_ne {sev : Nat} (h : sev ≠ 2) (s : State) : alerted s sev = s := if_neg h

theorem alerted_alerts {s : State} (h : molting s = false) : (alerted s 2).face.alerts = s.face.alerts ||| 16 := by
  simp [alerted, setAlert, h, latchAlerts]

/-! ### Events raised on the bridge (R403, R404, R22) -/

theorem raiseRecord_bridge_eq {s : State} {rec : Bytes} {sev : Nat} (hb : s.fab.bridge = true) (hr : rd rec 1 1 / 16 = sev) :
    raiseRecord s rec = eventAtBridge (alerted s sev) rec := by
  have hbridge : (alerted s sev).fab.bridge = true := by
    unfold alerted
    split <;> simp [hb]
  subst hr
  unfold raiseRecord
  exact if_pos hbridge

theorem frame_raiseRecord_bridge {s : State} {rec : Bytes} {sev : Nat} (hb : s.fab.bridge = true) (hr : rd rec 1 1 / 16 = sev) :
    Frame [.mbx, .face] s (raiseRecord s rec) := by
  rw [raiseRecord_bridge_eq hb hr]
  exact frame_trans (frame_mono (frame_alerted s sev) (by simp)) (frame_mono (frame_eventAtBridge _ rec) (by simp))

theorem raiseRecord_held {s : State} {rec : Bytes} {sev : Nat} (hb : s.fab.bridge = true) (hr : rd rec 1 1 / 16 = sev)
    (hd : cpDown s 0 = true) : (raiseRecord s rec).mbx = { s.mbx with evHeld := s.mbx.evHeld ++ [rec] } := by
  rw [raiseRecord_bridge_eq hb hr, eventAtBridge, if_pos (by rw [cpDown_alerted]; exact hd), alerted_mbx]

theorem raiseRecord_delivers {s : State} {rec : Bytes} {sev : Nat} (hb : s.fab.bridge = true) (hr : rd rec 1 1 / 16 = sev)
    (hup : cpDown s 0 = false) : raiseRecord s rec = deliverEvent (alerted s sev) rec := by
  rw [raiseRecord_bridge_eq hb hr, eventAtBridge, if_neg (by rw [cpDown_alerted, hup]; exact Bool.false_ne_true)]

theorem wantsClass_of {r : RingPair} {sev : Nat} (h0 : sev = 0 → r.evInfo = true) (h1 : sev = 1 → r.evWarn = true) :
    wantsClass r sev = true := by
  unfold wantsClass
  split
  case isTrue h => exact h0 h
  case isFalse =>
    split
    case isTrue h => exact h1 h
    case isFalse => rfl

/-- An event that its ring has no room for counts as dropped there, and as lost (R404). -/
def dropped (s : State) (fn : Nat) : State := countLost (setRing s fn fun r => { r with evDropped := r.evDropped + 1 })

theorem ringAt_dropped {s : State} {fn : Nat} (h : fn < s.mbx.rings.length) :
    ringAt (dropped s fn) fn = { ringAt s fn with evDropped := (ringAt s fn).evDropped + 1 } := ringAt_setRing s fn _ h

theorem dropped_eventsLost (s : State) (fn : Nat) : (dropped s fn).mbx.eventsLost = min 0xFFFF (s.mbx.eventsLost + 1) :=
  countLost_eventsLost _

theorem dropped_hostOut (s : State) (fn : Nat) : (dropped s fn).mbx.hostOut = s.mbx.hostOut := rfl

section OwnRing
variable {s : State} {rec : Bytes} {fn sev : Nat} (hb : s.fab.bridge = true) (hr : rd rec 1 1 = fn + 16 * sev) (hf : fn ≤ 8)
  (hup : cpDown s 0 = false) (h : 0 < (ringAt s fn).evSlots)
include hb hr hf hup h

theorem raiseRecord_own_ring : raiseRecord s rec =
    if wantsClass (ringAt s fn) sev = false then alerted s sev
    else if (ringAt s fn).evSlots ≤ ringCount (ringAt s fn).evHead (ringAt s fn).evTail + 1 then dropped (alerted s sev) fn
    else writeEvent (alerted s sev) fn rec := by
  have h' : 0 < (ringAt (alerted s sev) fn).evSlots := by rwa [ringAt_alerted]
  rw [raiseRecord_delivers (sev := sev) hb (by omega) hup, deliverEvent_own_ring hr hf h', ringAt_alerted]
  rfl

theorem raiseRecord_own_face : (raiseRecord s rec).face = (alerted s sev).face := by
  rw [raiseRecord_own_ring hb hr hf hup h]
  (repeat' split) <;> rfl

theorem raiseRecord_own_ring_ne {k : Nat} (hk : k ≠ fn) : ringAt (raiseRecord s rec) k = ringAt s k := by
  rw [raiseRecord_own_ring hb hr hf hup h]
  split
  · exact ringAt_alerted s sev k
  · split
    · exact (ringAt_setRing_ne _ _ hk).trans (ringAt_alerted s sev k)
    · exact (ringAt_writeEvent_ne _ _ hk).trans (ringAt_alerted s sev k)

end OwnRing

/-- While CP0 is in reset the bridge holds an event; without any event ring it counts it as lost (R22, R404). -/
theorem event_held_or_lost (s : State) {fn sev : Nat} (code : Nat) (body : Bytes) (hb : s.fab.bridge = true) (hf : fn ≤ 8) (hs : sev ≤ 3) :
    let t := raiseRecord s (eventRecord s fn sev code body)
    (cpDown s 0 = true → Frame [.mbx, .face] s t ∧ t.mbx.evHeld = s.mbx.evHeld ++ [eventRecord s fn sev code body] ∧
      t.mbx.hostOut = s.mbx.hostOut) ∧
    (cpDown s 0 = false → (ringAt s fn).evSlots = 0 → (ringAt s 0).evSlots = 0 → Frame [.mbx, .face] s t ∧
      t.mbx.hostOut = s.mbx.hostOut ∧ t.mbx.eventsLost = min 0xFFFF (s.mbx.eventsLost + 1)) := by
  have hclass := rd_eventRecord_class s code body hf hs
  have hsev : rd (eventRecord s fn sev code body) 1 1 / 16 = sev := by omega
  refine ⟨fun hd => ⟨frame_raiseRecord_bridge hb hsev, ?_, ?_⟩, fun hup h h0 => ⟨frame_raiseRecord_bridge hb hsev, ?_⟩⟩
  · rw [raiseRecord_held hb hsev hd]
  · rw [raiseRecord_held hb hsev hd]
  · rw [raiseRecord_delivers hb hsev hup,
      deliverEvent_no_ring hclass hf (by rw [ringAt_alerted, h]) (by rw [ringAt_alerted, h0]), countLost_eventsLost, countLost_hostOut, alerted_mbx]
    exact ⟨rfl, rfl⟩

/-- Settles O54: TEL.READ, TEL.SUBSCRIBE, events that are held or lost, and events of a function with an event ring. -/
theorem telemetryAndEvents : Obligations.TelemetryAndEvents := by
  refine ⟨⟨fun s c h => telRead_reads h, fun s c hmay hl hc => ⟨fun hn hd => ?gives, fun hn => ?removes⟩⟩,
    fun s fn sev code body hb hf hs _ => event_held_or_lost s code body hb hf hs, fun s fn sev code body hb hl hf hs hcode hup hslots => ?event⟩
  case gives =>
    obtain ⟨hmem, hup, -⟩ := pow2Up_clamp (cArg c 40 2)
    have hslots : eventSlots c = pow2Up (clamp 8 256 (cArg c 40 2)) := if_neg hn
    rw [← hslots] at hmem hup
    have hpos : eventSlots c ≠ 0 := fun h0 => by simp [h0] at hmem
    refine ⟨_, _, (exec_telSubscribe hmay).trans (congrArg _ (telSubscribe_gives hpos (by omega) hd)), frame_mbx s _, hmem, hup, ?_⟩
    rw [ringAt_setRing s _ _ (by omega)]
    refine ⟨rfl, rfl, rfl, rfl, ?_, ?_, fun k hk => ringAt_setRing_ne s _ hk⟩
    · simp [subscribedRing, hpos, bit_mod_four]
    · simp [subscribedRing, hpos, bit_mod_four]
  case removes =>
    have hslots : eventSlots c = 0 := if_pos hn
    refine ⟨_, (exec_telSubscribe hmay).trans (congrArg _ (telSubscribe_removes hslots)), frame_mbx s _, ?_,
      fun k hk => ringAt_setRing_ne s _ hk⟩
    rw [ringAt_setRing s _ _ (by omega)]
    exact hslots
  case event =>
    have hclass := rd_eventRecord_class s code body hf hs
    have hown := raiseRecord_own_ring hb hclass hf hup hslots
    have hface := raiseRecord_own_face hb hclass hf hup hslots
    have hlen : fn < (alerted s sev).mbx.rings.length := by rw [alerted_mbx]; omega
    have hsev : rd (eventRecord s fn sev code body) 1 1 / 16 = sev := by omega
    refine ⟨frame_raiseRecord_bridge hb hsev, fun k hk => raiseRecord_own_ring_ne hb hclass hf hup hslots hk, fun h2 hm => ?_,
      fun h2 => by rw [hface, alerted_of_ne h2], fun h0 h1 => ?_⟩
    · rw [hface, h2, alerted_alerts hm]
    · rw [wantsClass_of h0 h1, if_neg (by decide)] at hown
      refine ⟨fun hroom => ?_, fun hfull => ?_⟩
      · rw [hown, if_neg (by omega), ringAt_writeEvent _ _ hlen, ringAt_alerted]
        refine ⟨rfl, congrArg (fun b => b.notices + 1) (alerted_mbx s sev), ⟨_, eventRecord s fn sev code body⟩, ?_,
          eventRecord_length s fn sev code body, rd_eventRecord_type s fn sev code body, hclass, ?_, rd_eventRecord_beat s fn sev code body,
          rfl⟩
        · rw [writeEvent_hostOut, ringAt_alerted, alerted_mbx, Nat.max_eq_right hslots]
        · rw [rd_eventRecord_code, Nat.mod_eq_of_lt hcode]
      · rw [hown, if_pos hfull, ringAt_dropped hlen, dropped_eventsLost, dropped_hostOut, alerted_mbx, ringAt_alerted]
        exact ⟨rfl, rfl, fun hlost => Nat.min_eq_right hlost⟩

end Sys2Proof.Machine
end
